-- ==== Sys2Proof/Word.lean ====
section
/-! DEFINITION. The word types of the sectional link (R151): what the spec treats as bits. -/

namespace Sys2Proof

/-- One byte of a link frame (R151). -/
abbrev Byte := BitVec 8

/-- A 16-bit field: a cycle number (spec 3.6), a load field (spec 3.2), the frame check word (R152). -/
abbrev Word16 := BitVec 16

/-- A 24-bit speed field (spec 3.1). -/
abbrev Word24 := BitVec 24

/-- A 32-bit operand or data value (R151, R4). -/
abbrev Word32 := BitVec 32

end Sys2Proof
end

