-- ==== Sys2Proof/Config.lean ====
section
/-! DEFINITION. What the implementation fixes: the sizes of the queues, and the free values of the two orders that the spec
leaves open. -/

namespace Sys2Proof

/-- The request queue of the Service Handler holds up to 4 requests (R154). -/
def Config.requestQueueSize : Nat := 4

/-- The downstream queue holds up to 8 frames (R154). -/
def Config.downstreamQueueSize : Nat := 8

/-- The through queue holds up to 8 frames (R156). -/
def Config.throughQueueSize : Nat := 8

/-- The reply queue holds up to 4 replies (R156). -/
def Config.replyQueueSize : Nat := 4

/-- The Event Queue holds at most 32 records (R167). -/
def Config.eventQueueSize : Nat := 32

/-- The Capture Buffer holds up to 1,024 records (R142). -/
def Config.captureBufferSize : Nat := 1024

/-- The revision code of the Station Record (R163). -/
def Config.revisionCode : Nat := 1

/-- FREE VALUE. "Two frames that became ready together may be sent in either order" (R156): which of the frames tied for
earliest the arbiter sends, counted among them. The argument is the number of free values drawn before. Log entry 5. -/
opaque Config.upstreamTie : Nat → Nat

/-- FREE VALUE. R102 and R132 both place a request after the references of a dispatch and give no order between them: whether
the Profile Generator's requests are taken before the watch points'. The argument is the number of free values drawn before.
Log entry 6. -/
opaque Config.profileRequestsFirst : Nat → Bool

end Sys2Proof
end

