-- ==== Sys2Proof/Syntax.lean ====
section
/-! DEFINITION. The link frames (R151) and the commands of the block: one constructor of Instr for each row of
spec/opcode_table.json. -/

namespace Sys2Proof

/-- The two link ports (spec 1.2). -/
inductive Port where
  /-- Faces the line controller. -/
  | upstream
  /-- Faces the section drives. -/
  | downstream
  deriving DecidableEq, Repr

/-- The drive command of a dispatch entry (R151). -/
inductive DriveCommand where
  | idle | run | crawl | stop | quickStop | coast
  deriving DecidableEq, Repr

/-- One entry of a DISPATCH frame (R151). The node byte is not limited to 1..62: other values pass unchanged (R152). -/
structure Entry where
  node : Byte
  command : DriveCommand
  speed : Word24
  deriving DecidableEq, Repr

/-- A DISPATCH frame without its check word, which follows from the rest (R152). The header node is carried as received (R154). -/
structure DispatchFrame where
  headerNode : Byte
  cycle : Word16
  entries : List Entry
  deriving DecidableEq, Repr

/-- A RETURN frame. `node` is the node in the body, which the Feedback Intake uses (R152). -/
structure ReturnFrame where
  headerNode : Byte
  cycle : Word16
  node : Byte
  status : Byte
  speed : Word24
  load : Word16
  deriving DecidableEq, Repr

/-- A SERVICE REQUEST frame. The body's station equals the header's node (R152, test 6), so one field holds both. -/
structure RequestFrame where
  station : Byte
  cycle : Word16
  tag : Byte
  level : Byte
  code : Byte
  operands : List Word32
  deriving DecidableEq, Repr

/-- A SERVICE REPLY frame: bits 0 to 6 of `result` are the result code, bit 7 the wrapped indication (R161). -/
structure ReplyFrame where
  headerNode : Byte
  cycle : Word16
  station : Byte
  tag : Byte
  result : Byte
  data : List Word32
  deriving DecidableEq, Repr

/-- A STATION frame: `flags` has bit 0 permit active and bit 1 attention, `sections` the sixteen state codes (R151). -/
structure StationFrame where
  headerNode : Byte
  cycle : Word16
  address : Byte
  bodyCycle : Word16
  flags : Byte
  capture : Byte
  sections : List Byte
  deriving DecidableEq, Repr

/-- A frame of the link, by kind (R151). -/
inductive Frame where
  | dispatch (f : DispatchFrame)
  | ret (f : ReturnFrame)
  | request (f : RequestFrame)
  | reply (f : ReplyFrame)
  | station (f : StationFrame)
  deriving DecidableEq, Repr

/-- A frame that another station sends upstream: a SERVICE REPLY or a STATION frame (R155). -/
inductive ForeignFrame where
  | reply (f : ReplyFrame)
  | station (f : StationFrame)
  deriving DecidableEq, Repr

/-- The commands, in the order of spec/opcode_table.json. The rows from `read` on (but for `powerLoss`) are the Service Handler
taking the request at the head of its request queue (R161): their operands are the words of that request frame, which a
`serviceRequest` command queued (R154). Log entry 3. -/
inductive Instr where
  /-- POWER_ON: power comes up; the strap reading and the permit level found (R160, R20). -/
  | powerOn (straps : BitVec 6) (permit : Bool)
  /-- RESET_LINE: the reset line is activated and released; the strap reading and the permit level found (R160, R20). -/
  | resetLine (straps : BitVec 6) (permit : Bool)
  /-- PERMIT_LINE_CHANGE: the filtered permit input takes a level (R39, R160). -/
  | permitLineChange (active : Bool)
  /-- LINE_TIMER_EXPIRY: the line timeout elapses with no accepted dispatch (R158). -/
  | lineTimerExpiry
  /-- DISPATCH: a DISPATCH frame is accepted at the upstream port (R153). -/
  | dispatch (f : DispatchFrame)
  /-- RETURN: a RETURN frame is accepted at the downstream port (R155, R79). -/
  | returnFrame (f : ReturnFrame)
  /-- SERVICE_REQUEST: a SERVICE REQUEST frame is accepted at the upstream port (R154). -/
  | serviceRequest (f : RequestFrame)
  /-- OTHER_STATION_FRAME: another station's SERVICE REPLY or STATION frame is accepted downstream (R155). -/
  | otherStationFrame (f : ForeignFrame)
  /-- BAD_FRAME: the bytes between two periods of line idle fail a test of R152 at this port. -/
  | badFrame (port : Port) (bytes : List Byte)
  /-- UPSTREAM_SEND: the upstream line is free and the arbiter sends (R156). -/
  | upstreamSend
  /-- DOWNSTREAM_SEND: the head of the downstream queue is sent (R154). -/
  | downstreamSend
  /-- READ (R164). -/
  | read
  /-- WRITE (R165). -/
  | write
  /-- READ INDEXED (R164). -/
  | readIndexed
  /-- SET CURSOR (R166). -/
  | setCursor
  /-- READ NEXT (R166). -/
  | readNext
  /-- WRITE NEXT (R166). -/
  | writeNext
  /-- READ EVENTS (R168). -/
  | readEvents
  /-- PEEK EVENTS (R168). -/
  | peekEvents
  /-- RESTART (R170). -/
  | restart
  /-- SELECT (R28). -/
  | select
  /-- DESELECT (R29). -/
  | deselect
  /-- START (R30). -/
  | start
  /-- FREEZE (R31). -/
  | freeze
  /-- CONTINUE (R32). -/
  | continueTrial
  /-- STEP (R33). -/
  | stepRun
  /-- STOP (R34). -/
  | stopTrial
  /-- ABORT (R35). -/
  | abort
  /-- CALIBRATE (R36). -/
  | calibrate
  /-- TRIGGER (R37). -/
  | trigger
  /-- CLEAR FAULT (R38). -/
  | clearFault
  /-- ADD MEMBER (R12). -/
  | addMember
  /-- REMOVE MEMBER (R13). -/
  | removeMember
  /-- MAKE LEAD (R14). -/
  | makeLead
  /-- INJECT FEEDBACK (R85). -/
  | injectFeedback
  /-- LATCH SNAPSHOT (R138). -/
  | latchSnapshot
  /-- READ SNAPSHOT (R139). -/
  | readSnapshot
  /-- CAPTURE START (R145). -/
  | captureStart
  /-- CAPTURE STOP (R146). -/
  | captureStop
  /-- TRIGGER CAPTURE (R147). -/
  | triggerCapture
  /-- POWER_LOSS: the supply falls away (R160). -/
  | powerLoss
  /-- UNKNOWN_COMMAND_CODE: the request at the head has an unknown command code or level code (R162). -/
  | unknownCommandCode
  deriving DecidableEq, Repr

end Sys2Proof
end

