-- ==== Sys2Proof/Decode.lean ====
section
/-! DEFINITION. The coded form of the block's inputs: the bytes of a link frame (R151), the frame check word and the tests of a
received frame (R152). The opcode table gives no row any bits, so `decodeTableWord` answers none. -/

namespace Sys2Proof

/-! ## Multi-byte fields, most significant byte first (R151) -/

/-- The two bytes of a 16-bit field. -/
def bytes16 (x : Word16) : List Byte := [x.extractLsb' 8 8, x.extractLsb' 0 8]

/-- The three bytes of a 24-bit field. -/
def bytes24 (x : Word24) : List Byte := [x.extractLsb' 16 8, x.extractLsb' 8 8, x.extractLsb' 0 8]

/-- The four bytes of a 32-bit field. -/
def bytes32 (x : Word32) : List Byte :=
  [x.extractLsb' 24 8, x.extractLsb' 16 8, x.extractLsb' 8 8, x.extractLsb' 0 8]

/-- A 16-bit field from its bytes. -/
def word16 (b1 b0 : Byte) : Word16 := b1 ++ b0

/-- A 24-bit field from its bytes. -/
def word24 (b2 b1 b0 : Byte) : Word24 := b2 ++ (b1 ++ b0)

/-- A 32-bit field from its bytes. -/
def word32 (b3 b2 b1 b0 : Byte) : Word32 := b3 ++ (b2 ++ (b1 ++ b0))

/-! ## The frame check word (R152) -/

/-- One bit of the cyclic check: generator x^16 + x^15 + x^2 + 1. -/
def checkBit (r : Word16) : Word16 := if r.msb then (r <<< 1) ^^^ 0x8005 else r <<< 1

/-- One byte of the cyclic check, most significant bit first. -/
def checkByte (r : Word16) (b : Byte) : Word16 :=
  checkBit (checkBit (checkBit (checkBit (checkBit (checkBit (checkBit (checkBit (r ^^^ (b ++ (0 : Byte))))))))))

/-- The frame check word over header and body: register preset to all ones, no inversion of the result (R152). -/
def checkWord (content : List Byte) : Word16 := content.foldl checkByte 0xFFFF

/-! ## Codes -/

/-- Drive command codes (R151). -/
def DriveCommand.code : DriveCommand → Nat
  | .idle => 0 | .run => 1 | .crawl => 2 | .stop => 3 | .quickStop => 4 | .coast => 5

/-- The drive command of a code; test 5 of R152 refuses the others. -/
def DriveCommand.ofCode : Nat → Option DriveCommand
  | 0 => some .idle | 1 => some .run | 2 => some .crawl | 3 => some .stop | 4 => some .quickStop | 5 => some .coast
  | _ => none

/-- Frame kind codes (R151). -/
def Frame.kindCode : Frame → Nat
  | .dispatch _ => 1 | .ret _ => 2 | .request _ => 3 | .reply _ => 4 | .station _ => 5

/-- The port that a kind is received at (R152, test 4). -/
def Frame.port : Frame → Port
  | .dispatch _ => .upstream | .ret _ => .downstream | .request _ => .upstream | .reply _ => .downstream
  | .station _ => .downstream

/-! ## Encoding a frame (R151) -/

/-- The five bytes of a dispatch entry. -/
def Entry.bytes (e : Entry) : List Byte := e.node :: BitVec.ofNat 8 e.command.code :: bytes24 e.speed

/-- The header node byte of a frame. -/
def Frame.headerNode : Frame → Byte
  | .dispatch f => f.headerNode | .ret f => f.headerNode | .request f => f.station | .reply f => f.headerNode
  | .station f => f.headerNode

/-- The header cycle number of a frame. -/
def Frame.cycle : Frame → Word16
  | .dispatch f => f.cycle | .ret f => f.cycle | .request f => f.cycle | .reply f => f.cycle | .station f => f.cycle

/-- The body bytes of a frame. -/
def Frame.body : Frame → List Byte
  | .dispatch f => BitVec.ofNat 8 f.entries.length :: f.entries.flatMap Entry.bytes
  | .ret f => f.node :: f.status :: (bytes24 f.speed ++ bytes16 f.load)
  | .request f => f.station :: f.tag :: f.level :: f.code :: BitVec.ofNat 8 f.operands.length :: f.operands.flatMap bytes32
  | .reply f => f.station :: f.tag :: f.result :: BitVec.ofNat 8 f.data.length :: f.data.flatMap bytes32
  | .station f => f.address :: (bytes16 f.bodyCycle ++ f.flags :: f.capture :: f.sections)

/-- Header and body: what the check word covers. -/
def Frame.content (f : Frame) : List Byte :=
  BitVec.ofNat 8 f.kindCode :: f.headerNode :: (bytes16 f.cycle ++ (bytes16 (BitVec.ofNat 16 f.body.length) ++ f.body))

/-- The frame as it stands on the line: header, body and check word. -/
def Frame.bytes (f : Frame) : List Byte := f.content ++ bytes16 (checkWord f.content)

/-! ## Receiving a frame (R152) -/

/-- The test of R152 that makes a frame bad: the first that fails. -/
inductive BadFrame where
  /-- Test 1: fewer than 8 bytes, or the check word differs. -/
  | checkWord
  /-- Test 2: the kind is not 1 to 5. -/
  | kind
  /-- Test 3: the body length field, the bytes present and the length of the kind disagree, or a count is too large. -/
  | length
  /-- Test 4: the kind does not belong to the port. -/
  | port
  /-- Test 5: a drive command is not 0 to 5. -/
  | driveCommand
  /-- Test 6: the body's station differs from the header's node. -/
  | station
  deriving DecidableEq, Repr

/-- The body length that a kind requires of this body; none where the body holds no count or the count is too large. -/
def requiredLength (kind : Nat) (body : List Byte) : Option Nat :=
  match kind with
  | 1 => match body[0]? with
    | some c => if c.toNat ≤ 62 then some (1 + 5 * c.toNat) else none
    | none => none
  | 2 => some 7
  | 3 => match body[4]? with
    | some c => if c.toNat ≤ 16 then some (5 + 4 * c.toNat) else none
    | none => none
  | 4 => match body[3]? with
    | some c => if c.toNat ≤ 16 then some (4 + 4 * c.toNat) else none
    | none => none
  | 5 => some 21
  | _ => none

/-- The port that a kind code belongs to (R152, test 4). -/
def kindPort (kind : Nat) : Port := if kind = 1 ∨ kind = 3 then .upstream else .downstream

/-- The dispatch entries of a byte run; none where a drive command has no meaning or the run is no whole number of entries. -/
def readEntries : List Byte → Option (List Entry)
  | [] => some []
  | n :: c :: s2 :: s1 :: s0 :: rest =>
    match DriveCommand.ofCode c.toNat, readEntries rest with
    | some cmd, some es => some (⟨n, cmd, word24 s2 s1 s0⟩ :: es)
    | _, _ => none
  | _ => none

/-- The 32-bit words of a byte run; none where the run is no whole number of words. -/
def readWords : List Byte → Option (List Word32)
  | [] => some []
  | b3 :: b2 :: b1 :: b0 :: rest =>
    match readWords rest with
    | some ws => some (word32 b3 b2 b1 b0 :: ws)
    | none => none
  | _ => none

/-- The body of a frame whose length is right (tests 5 and 6 of R152). -/
def readBody (kind : Nat) (node : Byte) (cycle : Word16) (body : List Byte) : Except BadFrame Frame :=
  match kind, body with
  | 1, _ :: es =>
    match readEntries es with
    | some entries => .ok (.dispatch ⟨node, cycle, entries⟩)
    | none => .error .driveCommand
  | 2, [n, st, s2, s1, s0, l1, l0] => .ok (.ret ⟨node, cycle, n, st, word24 s2 s1 s0, word16 l1 l0⟩)
  | 3, st :: tag :: level :: code :: _ :: ops =>
    if st = node then
      match readWords ops with
      | some operands => .ok (.request ⟨node, cycle, tag, level, code, operands⟩)
      | none => .error .length
    else .error .station
  | 4, st :: tag :: result :: _ :: ds =>
    match readWords ds with
    | some data => .ok (.reply ⟨node, cycle, st, tag, result, data⟩)
    | none => .error .length
  | 5, address :: c1 :: c0 :: flags :: capture :: sections =>
    .ok (.station ⟨node, cycle, address, word16 c1 c0, flags, capture, sections⟩)
  | _, _ => .error .length

/-- The tests of R152 in their order on the bytes received at a port between two periods of line idle: the accepted frame, or
the first test that fails. -/
def receive (p : Port) (bs : List Byte) : Except BadFrame Frame :=
  let content := bs.take (bs.length - 2)
  if bs.length < 8 ∨ bytes16 (checkWord content) ≠ bs.drop (bs.length - 2) then .error .checkWord
  else
    match content with
    | kind :: node :: c1 :: c0 :: l1 :: l0 :: body =>
      if kind.toNat < 1 ∨ 5 < kind.toNat then .error .kind
      else if (word16 l1 l0).toNat ≠ body.length ∨ requiredLength kind.toNat body ≠ some body.length then .error .length
      else if kindPort kind.toNat ≠ p then .error .port
      else readBody kind.toNat node (word16 c1 c0) body
    | _ => .error .checkWord

/-- The command that a word spells by the opcode table's bits: the table gives none, so none. -/
def decodeTableWord (_nbits _w : Nat) : Option Instr := none

end Sys2Proof
end

