-- ==== Sys2Proof/Machine/State.lean ====
section
/-! DEFINITION. The state of the bridge as plain data: every table, record, queue and pin that the spec names, and the machine
right after reset. -/

namespace Sys2Proof.Machine

/-! ## Numbers of things (spec 3.9) -/

/-- A section number, 0 to 15. -/
abbrev SecId := Fin 16

/-- A link node by its Drive Map entry: the node number is the index plus 1 (R17). -/
abbrev NodeId := Fin 62

/-- A Member Pool record number, 0 to 47 (R10). -/
abbrev RecId := Fin 48

/-- A member position, 0 to 3; position 0 is the lead (R9). -/
abbrev Pos := Fin 4

/-- A watch point number, 0 to 3 (R128). -/
abbrev WatchId := Fin 4

/-! ## Enumerations -/

/-- The seven section states (R21). -/
inductive SectionState where
  | bypass | selected | trial | frozen | calibrating | releasing | faulted
  deriving DecidableEq, Repr

/-- The causes of transitions (R23). -/
inductive Cause where
  | command | watch | limit | oscillation | gate | stepDone | permit | profileEnd | calDone | lineOverride | monitorAbort
  | releaseDone | driveFault | feedbackLost | lineEntryLost | lineLost | restart
  deriving DecidableEq, Repr

/-- The state that a section in RELEASING goes to (R24). -/
inductive ReleaseTarget where
  | selected | bypass
  deriving DecidableEq, Repr

/-- What follows the last segment of the last pass (R4 field 14, R108). -/
inductive EndAction where
  | hold | reload | release
  deriving DecidableEq, Repr

/-- Whether the last issue was limited (R55). -/
inductive ClampFlag where
  | none | high | low
  deriving DecidableEq, Repr

/-- The direction sign of a node (spec 3.3). -/
inductive Direction where
  | plus | minus
  deriving DecidableEq, Repr

/-- Where a feedback record came from (R17 field 11). -/
inductive FeedbackSource where
  | link | injected
  deriving DecidableEq, Repr

/-- Segment kinds (R97). -/
inductive SegmentKind where
  | none | hold | ramp | step | square
  deriving DecidableEq, Repr

/-- The three limits of a section (R115). -/
inductive LimitKind where
  | speedError | imbalance | loadHigh
  deriving DecidableEq, Repr

/-- What a limit or the oscillation count asks for (R115, R121). -/
inductive LimitAction where
  | event | freeze | release | abort
  deriving DecidableEq, Repr

/-- The state of a limit (R119). -/
inductive LimitState where
  | inside | outside
  deriving DecidableEq, Repr

/-- The sign memory of the zero-cross step (R124). -/
inductive SignMemory where
  | none | positive | negative
  deriving DecidableEq, Repr

/-- The action of a watch point (R128). -/
inductive WatchAction where
  | off | monitor | stopOnChange | stopOnMatch
  deriving DecidableEq, Repr

/-- The field a watch point looks at (R128). -/
inductive WatchField where
  | reference | command | actualSpeed | load | status
  deriving DecidableEq, Repr

/-- Where a watched value comes from (R130). -/
inductive OccurrenceSource where
  | line | issued | drive | injected
  deriving DecidableEq, Repr

/-- The sources a watch point accepts (R128). -/
inductive WatchSource where
  | only (src : OccurrenceSource)
  | any
  deriving DecidableEq, Repr

/-- The comparison of a STOP_ON_MATCH point (R128, R133). -/
inductive CompareMode where
  | equal | above | below
  deriving DecidableEq, Repr

/-- The field of a capture item (R140). -/
inductive CaptureField where
  | reference | actualSpeed | load | status | imbalance | trim
  deriving DecidableEq, Repr

/-- The source of a capture item (R140). -/
inductive CaptureSource where
  | line | issued | drive | calibrated
  deriving DecidableEq, Repr

/-- Capture modes (R141). -/
inductive CaptureMode where
  | once | triggered | loop
  deriving DecidableEq, Repr

/-- Sweep kinds (R141). -/
inductive SweepKind where
  | simultaneous | sequential
  deriving DecidableEq, Repr

/-- Trigger kinds (R141). -/
inductive TriggerKind where
  | command | sectionStart | segmentBoundary | limit | watch
  deriving DecidableEq, Repr

/-- The state of the capture (R141). -/
inductive CaptureState where
  | idle | waiting | running | post | done
  deriving DecidableEq, Repr

/-- The phases of a calibration (R87). COMPUTE is passed at once, inside the command that completes the last set (R90). -/
inductive Phase where
  | settleLow | sampleLow | settleHigh | sampleHigh | compute
  deriving DecidableEq, Repr

/-- The state of the line timer (R158). -/
inductive TimerState where
  | notStarted | running | expired
  deriving DecidableEq, Repr

/-- Event kinds (R167). -/
inductive EventKind where
  | startUp | stateChange | limitOut | limitIn | oscillation | clamp | profileEnd | calResult | watchHit | captureDone | permit
  deriving DecidableEq, Repr

/-- The access level of a request (R162). -/
inductive Level where
  | observe | commission
  deriving DecidableEq, Repr

/-! ## Section Table (R4, R21, R49, R78, R100) -/

/-- Fields 6 to 22 of a Section Table entry (R4). -/
structure SectionConfig where
  drawOffset : Int
  trimWindow : Int
  absoluteLimit : Int
  shareGain : Int
  trimLimit : Int
  profileStart : Nat
  profileLength : Nat
  repeatCount : Nat
  endAction : EndAction
  gateHoldLimit : Nat
  releaseRate : Int
  missLimit : Nat
  crawlLimit : Int
  calLow : Int
  calHigh : Int
  settleCycles : Nat
  sampleExponent : Nat
  deriving DecidableEq, Repr

/-- The profile position record, fields 34 to 41 (R100). -/
structure ProfilePosition where
  segmentIndex : Nat
  cycleCount : Nat
  pass : Nat
  offset : Int
  startOffset : Int
  finished : Bool
  stepPending : Bool
  gateClosed : Nat
  deriving DecidableEq, Repr

/-- The last freeze record, fields 27 to 33 (R7, R137). -/
structure FreezeRecord where
  cause : Option Cause
  sourceIndex : Option Nat
  cycle : Word16
  segmentIndex : Nat
  cycleCount : Nat
  pass : Nat
  offset : Int
  deriving DecidableEq, Repr

/-- The last evaluated set of a section (R78). -/
structure LastSet where
  cycle : Word16
  complete : Bool
  firstMissing : Option NodeId
  deriving DecidableEq, Repr

/-- One limit: configuration and live state (R115). -/
structure Limit where
  threshold : Int
  dwell : Nat
  action : LimitAction
  state : LimitState
  counter : Nat
  deriving DecidableEq, Repr

/-- A Limit Set entry (R115). -/
structure Monitor where
  speedError : Limit
  imbalance : Limit
  loadHigh : Limit
  band : Int
  oscillationLimit : Nat
  oscillationAction : LimitAction
  zeroCross : Nat
  sign : SignMemory
  fired : Bool
  deriving DecidableEq, Repr

/-- The seven values of one position in a section's live view (R138). A position past the end holds node none and 0s. -/
structure SnapshotMember where
  node : Option NodeId
  issued : Int
  calibratedSpeed : Int
  signedLoad : Int
  trim : Int
  imbalance : Int
  clamp : ClampFlag
  deriving DecidableEq, Repr

/-- A copy of a section's live view (R138): the four positions in order. -/
structure Snapshot where
  cycle : Word16
  state : SectionState
  lineReference : Int
  offset : Int
  memberCount : Nat
  members : List SnapshotMember
  deriving DecidableEq, Repr

/-- Everything the bridge holds per section. -/
structure Section where
  state : SectionState
  faultCode : Option Cause
  releaseTarget : Option ReleaseTarget
  freeze : FreezeRecord
  startPending : Bool
  members : List RecId
  cfg : SectionConfig
  lineReference : Int
  lineMiss : Nat
  leadCommand : DriveCommand
  issueBase : Int
  profile : ProfilePosition
  evaluated : Bool
  lastSet : Option LastSet
  monitor : Monitor
  snapshot : Option Snapshot
  deriving DecidableEq, Repr

/-! ## Member Pool and Drive Map (R10, R17) -/

/-- A Member Pool record (R10). -/
structure PoolRecord where
  inUse : Bool
  inSection : Option SecId
  node : Option NodeId
  position : Option Pos
  weight : Nat
  trim : Int
  imbalance : Int
  issued : Int
  held : Int
  clamp : ClampFlag
  deriving DecidableEq, Repr

/-- The feedback record of a node, Drive Map fields 5 to 14 (R78, R80). The status holds READY, RUNNING, AT_LIMIT, WARNING and
FAULT in bits 0 to 4 (R151). -/
structure Feedback where
  rawSpeed : Int
  rawLoad : Int
  status : BitVec 5
  calibratedSpeed : Int
  signedLoad : Int
  cycle : Word16
  source : Option FeedbackSource
  fresh : Bool
  missing : Nat
  ever : Bool
  deriving DecidableEq, Repr

/-- A Drive Map entry (R17). -/
structure DriveEntry where
  direction : Direction
  gain : Int
  offset : Int
  inSection : Option SecId
  feedback : Feedback
  deriving DecidableEq, Repr

/-! ## Engine, segments, watch points, capture (R87, R97, R128, R140 to R142) -/

/-- The Tie Calibration Engine (R87). The follower sums stand in the order of positions 1 to 3. -/
structure Engine where
  holder : Option SecId
  phase : Option Phase
  settleCount : Nat
  sampleCount : Nat
  skipCount : Nat
  leadLow : Int
  leadHigh : Int
  followerLow : Vector Int 3
  followerHigh : Vector Int 3
  deriving DecidableEq, Repr

/-- A Segment Table record (R97). -/
structure Segment where
  length : Nat
  level : Int
  kind : SegmentKind
  deriving DecidableEq, Repr

/-- A Watch Table entry (R128). -/
structure WatchPoint where
  action : WatchAction
  node : NodeId
  field : WatchField
  source : WatchSource
  mode : CompareMode
  value : Int
  latchValue : Int
  latchCycle : Word16
  latchSource : Option OccurrenceSource
  hitCount : Nat
  lastSeen : Int
  lastSeenFlag : Bool
  deriving DecidableEq, Repr

/-- A Capture List item (R140). -/
structure CaptureItem where
  enable : Bool
  node : NodeId
  field : CaptureField
  source : CaptureSource
  deriving DecidableEq, Repr

/-- The capture control record (R141). -/
structure CaptureControl where
  mode : CaptureMode
  sweep : SweepKind
  triggerKind : TriggerKind
  triggerIndex : Nat
  runLength : Nat
  postCount : Nat
  state : CaptureState
  recordCount : Nat
  writeIndex : Nat
  wrapped : Bool
  nextItem : Nat
  remaining : Nat
  deriving DecidableEq, Repr

/-- A Capture Buffer record (R142). -/
structure CaptureRecord where
  cycle : Word16
  item : Option Nat
  value : Int
  stale : Bool
  deriving DecidableEq, Repr

/-! ## Events, cursors, frames waiting upstream (R156, R166, R167) -/

/-- An Event Queue record (R167). -/
structure Event where
  sequence : Word16
  kind : EventKind
  inSection : Option SecId
  node : Option NodeId
  position : Option Pos
  cycle : Word16
  value : Option Int
  detail : Nat
  overflowAfter : Bool
  deriving DecidableEq, Repr

/-- A cursor: a table, an entry and a field (R166). -/
structure Cursor where
  table : Nat
  entry : Nat
  field : Nat
  deriving DecidableEq, Repr

/-- A frame waiting for the upstream transmitter and the order number of the moment it became ready (R156, log entry 5). -/
structure ReadyFrame where
  ready : Nat
  frame : Frame
  deriving DecidableEq, Repr

/-! ## The state -/

/-- The state of the bridge. `pending`, `freeDraws`, `upstreamSent` and `downstreamSent` are the model's own (log entries 2, 5
and 14). -/
structure State where
  /-- The supply is up (R160). -/
  powered : Bool
  /-- The station address, as a node (R20). -/
  station : NodeId
  /-- The filtered permit line is active (R39). -/
  permit : Bool
  /-- The line timeout in ms (R158, R163). -/
  timeout : Nat
  /-- The line timer (R158). -/
  timer : TimerState
  /-- The timeout that the running period was started with (R158: a written timeout applies from the next restart). -/
  timerPeriod : Nat
  /-- The current cycle number (R153). -/
  cycle : Word16
  /-- A dispatch has been accepted since the last power-on or reset line (R78). -/
  cycleOpen : Bool
  sections : Vector Section 16
  pool : Vector PoolRecord 48
  drives : Vector DriveEntry 62
  segments : Vector Segment 128
  watches : Vector WatchPoint 4
  engine : Engine
  captureList : Vector CaptureItem 8
  capture : CaptureControl
  /-- The Capture Buffer by physical position, in the canonical form of Memory.wf (R142). -/
  buffer : List (Nat × CaptureRecord)
  /-- The Event Queue, oldest first (R167). -/
  events : List Event
  nextSequence : Word16
  observeCursor : Cursor
  commissionCursor : Cursor
  /-- Requests waiting for the Service Handler, oldest first (R154). -/
  requests : List RequestFrame
  /-- Frames waiting to leave the downstream port, oldest first (R154). -/
  downstreamQueue : List Frame
  /-- Forwarded frames waiting to leave the upstream port (R156). -/
  throughQueue : List ReadyFrame
  /-- Service replies waiting to leave the upstream port (R156). -/
  replyQueue : List ReadyFrame
  /-- The station slot (R156). -/
  stationSlot : Option ReadyFrame
  /-- The order number of the next upstream frame to become ready. -/
  readyCount : Nat
  /-- The frame last sent from the upstream port. -/
  upstreamSent : Option Frame
  /-- The frame last sent from the downstream port. -/
  downstreamSent : Option Frame
  /-- How many free values have been drawn. -/
  freeDraws : Nat
  /-- The commands waiting, first in first out. -/
  pending : List Instr
  deriving DecidableEq, Repr

/-! ## Power-on values -/

/-- The defaults of R4, fields 6 to 22. -/
def SectionConfig.powerOn : SectionConfig where
  drawOffset := 0
  trimWindow := 20000
  absoluteLimit := 1100000
  shareGain := 0
  trimLimit := 5000
  profileStart := 0
  profileLength := 0
  repeatCount := 0
  endAction := .hold
  gateHoldLimit := 0
  releaseRate := 500
  missLimit := 3
  crawlLimit := 100000
  calLow := 50000
  calHigh := 150000
  settleCycles := 200
  sampleExponent := 6

/-- The profile position of R8. -/
def ProfilePosition.powerOn : ProfilePosition where
  segmentIndex := 0
  cycleCount := 0
  pass := 0
  offset := 0
  startOffset := 0
  finished := false
  stepPending := false
  gateClosed := 0

/-- The empty freeze record of R7. -/
def FreezeRecord.empty : FreezeRecord where
  cause := none
  sourceIndex := none
  cycle := 0
  segmentIndex := 0
  cycleCount := 0
  pass := 0
  offset := 0

/-- A limit at the defaults of R115. -/
def Limit.powerOn : Limit where
  threshold := 0
  dwell := 5
  action := .event
  state := .inside
  counter := 0

/-- A Limit Set entry at the defaults of R115. -/
def Monitor.powerOn : Monitor where
  speedError := Limit.powerOn
  imbalance := Limit.powerOn
  loadHigh := Limit.powerOn
  band := 500
  oscillationLimit := 0
  oscillationAction := .event
  zeroCross := 0
  sign := .none
  fired := false

/-- A section after power-on (R8, R21, R30, R49, R78, R138). -/
def Section.powerOn : Section where
  state := .bypass
  faultCode := none
  releaseTarget := none
  freeze := FreezeRecord.empty
  startPending := false
  members := []
  cfg := SectionConfig.powerOn
  lineReference := 0
  lineMiss := 0
  leadCommand := .idle
  issueBase := 0
  profile := ProfilePosition.powerOn
  evaluated := false
  lastSet := none
  monitor := Monitor.powerOn
  snapshot := none

/-- A free Member Pool record (R10). -/
def PoolRecord.free : PoolRecord where
  inUse := false
  inSection := none
  node := none
  position := none
  weight := 1
  trim := 0
  imbalance := 0
  issued := 0
  held := 0
  clamp := .none

/-- The never-received state of a feedback record (R20). -/
def Feedback.neverReceived : Feedback where
  rawSpeed := 0
  rawLoad := 0
  status := 0
  calibratedSpeed := 0
  signedLoad := 0
  cycle := 0
  source := none
  fresh := false
  missing := 0
  ever := false

/-- A Drive Map entry after power-on (R20). -/
def DriveEntry.powerOn : DriveEntry where
  direction := .plus
  gain := 16384
  offset := 0
  inSection := none
  feedback := Feedback.neverReceived

/-- The free engine (R87). -/
def Engine.free : Engine where
  holder := none
  phase := none
  settleCount := 0
  sampleCount := 0
  skipCount := 0
  leadLow := 0
  leadHigh := 0
  followerLow := Vector.replicate 3 0
  followerHigh := Vector.replicate 3 0

/-- A segment record at the defaults of R97. -/
def Segment.powerOn : Segment where
  length := 1
  level := 0
  kind := .none

/-- A watch point at the defaults of R128. -/
def WatchPoint.powerOn : WatchPoint where
  action := .off
  node := 0
  field := .reference
  source := .only .line
  mode := .equal
  value := 0
  latchValue := 0
  latchCycle := 0
  latchSource := none
  hitCount := 0
  lastSeen := 0
  lastSeenFlag := false

/-- A capture item at the defaults of R140. -/
def CaptureItem.powerOn : CaptureItem where
  enable := false
  node := 0
  field := .reference
  source := .line

/-- The capture control record at the defaults of R141. -/
def CaptureControl.powerOn : CaptureControl where
  mode := .once
  sweep := .simultaneous
  triggerKind := .command
  triggerIndex := 0
  runLength := 64
  postCount := 512
  state := .idle
  recordCount := 0
  writeIndex := 0
  wrapped := false
  nextItem := 0
  remaining := 0

/-- The START_UP record of R169. -/
def Event.powerOn : Event where
  sequence := 0
  kind := .startUp
  inSection := none
  node := none
  position := none
  cycle := 0
  value := none
  detail := 0
  overflowAfter := false

/-- Both cursors stand at table 1, entry 0, field 0 (R166). -/
def Cursor.powerOn : Cursor where
  table := 1
  entry := 0
  field := 0

/-- The machine right after reset. DESIGN CHOICE (log entry 1): the two inputs that reset reads, the straps and the permit line,
are taken as all open (station address 62, R20) and inactive. -/
def State.reset : State where
  powered := true
  station := 61
  permit := false
  timeout := 50
  timer := .notStarted
  timerPeriod := 50
  cycle := 0
  cycleOpen := false
  sections := Vector.replicate 16 Section.powerOn
  pool := Vector.replicate 48 PoolRecord.free
  drives := Vector.replicate 62 DriveEntry.powerOn
  segments := Vector.replicate 128 Segment.powerOn
  watches := Vector.replicate 4 WatchPoint.powerOn
  engine := Engine.free
  captureList := Vector.replicate 8 CaptureItem.powerOn
  capture := CaptureControl.powerOn
  buffer := []
  events := [Event.powerOn]
  nextSequence := 1
  observeCursor := Cursor.powerOn
  commissionCursor := Cursor.powerOn
  requests := []
  downstreamQueue := []
  throughQueue := []
  replyQueue := []
  stationSlot := none
  readyCount := 0
  upstreamSent := none
  downstreamSent := none
  freeDraws := 0
  pending := []

/-! ## How a step can stop -/

/-- The faults of the machine: none. The spec names no command that stops the block: a bad frame is discarded (R152), a refused
request is answered (R161), what it calls a fault is the section state FAULTED (log entry 21). -/
inductive Fault where
  deriving DecidableEq, Repr

/-- The refusals of the machine. -/
inductive Refusal where
  /-- Raised by an arm of exec whose command has no meaning yet, by the row's mnemonic; no arm does. Safe. -/
  | notModelled (mnemonic : String)
  deriving DecidableEq, Repr

end Sys2Proof.Machine
end

