-- ==== Sys2Proof/Machine/Operands.lean ====
section
/-! DEFINITION. The arithmetic conventions (R2, R3, spec 3.3), the integer codes of enumerations as tables and frames carry them
(R4, R23, R97, R115, R128, R140, R141, R161, R167), and the operand words of a request. -/

namespace Sys2Proof.Machine

/-! ## Rounding, truncation and clamping -/

/-- a / b rounded to the nearest integer, halves away from zero, for b > 0 (R2). The quotient is exact before it is rounded. -/
def roundDiv (a b : Int) : Int := if 0 ≤ a then (2 * a + b) / (2 * b) else -((2 * (-a) + b) / (2 * b))

/-- a / b with the fractional part discarded, toward zero (R2). -/
def truncDiv (a b : Int) : Int := a.tdiv b

/-- v clamped to [a, b] (R3). -/
def clampTo (a b v : Int) : Int := if v < a then a else if b < v then b else v

/-- v saturated to ±m (R3). -/
def saturate (m v : Int) : Int := clampTo (-m) m v

/-! ## Directions and link fields -/

/-- The sign of a direction. -/
def Direction.sign : Direction → Int
  | .plus => 1 | .minus => -1

/-- A value times the direction sign; dividing by the sign is the same (spec 3.3). -/
def Direction.apply (d : Direction) (v : Int) : Int :=
  match d with
  | .plus => v | .minus => -v

/-- A speed field in section-relative form with +8,388,608 saturated to +8,388,607 (R50, R61). -/
def relativeSpeed (d : Direction) (speed : Word24) : Int := clampTo (-8388608) 8388607 (d.apply speed.toInt)

/-- A speed field in section-relative form saturated to ±8,388,607 (R130, R143). -/
def watchedSpeed (d : Direction) (speed : Word24) : Int := saturate 8388607 (d.apply speed.toInt)

/-- A value as a 24-bit speed field (R56). -/
def speedField (v : Int) : Word24 := BitVec.ofInt 24 v

/-- The Drive Map entry of a node number; none for 0, 63 and above (R152, R17). -/
def nodeOf (b : Nat) : Option NodeId := if h : 1 ≤ b ∧ b ≤ 62 then some ⟨b - 1, by omega⟩ else none

/-- The node number of a Drive Map entry (R17). -/
def nodeNumber (n : NodeId) : Nat := n.val + 1

/-- The node number as a byte of a frame. -/
def nodeByte (n : NodeId) : Byte := BitVec.ofNat 8 (nodeNumber n)

/-- The station address that the six straps give: 1 to 62 directly, 0 and 63 as 62 (R20). -/
def stationOfStraps (straps : BitVec 6) : NodeId := (nodeOf straps.toNat).getD 61

/-- An index below n from an integer operand. -/
def index? (n : Nat) (v : Int) : Option (Fin n) := if h : 0 ≤ v ∧ v.toNat < n then some ⟨v.toNat, h.2⟩ else none

/-! ## Codes as tables read them -/

/-- A flag reads 1 for true and 0 for false (R4). -/
def flagCode (b : Bool) : Int := if b then 1 else 0

/-- An optional value that is absent reads -1 (R4). -/
def optCode (o : Option Int) : Int := o.getD (-1)

/-- A natural number that may be absent. -/
def optNat (o : Option Nat) : Int := optCode (o.map Int.ofNat)

/-- Section state codes (R4). -/
def SectionState.code : SectionState → Nat
  | .bypass => 0 | .selected => 1 | .trial => 2 | .frozen => 3 | .calibrating => 4 | .releasing => 5 | .faulted => 6

/-- Cause codes (R23). -/
def Cause.code : Cause → Nat
  | .command => 0 | .watch => 1 | .limit => 2 | .oscillation => 3 | .gate => 4 | .stepDone => 5 | .permit => 6
  | .profileEnd => 7 | .calDone => 8 | .lineOverride => 9 | .monitorAbort => 10 | .releaseDone => 11 | .driveFault => 12
  | .feedbackLost => 13 | .lineEntryLost => 14 | .lineLost => 15 | .restart => 16

/-- The release target as a section state (R24). -/
def ReleaseTarget.state : ReleaseTarget → SectionState
  | .selected => .selected | .bypass => .bypass

/-- End action codes (R4). -/
def EndAction.code : EndAction → Nat
  | .hold => 0 | .reload => 1 | .release => 2

/-- The end action of a code (R4, R5). -/
def EndAction.ofCode (v : Int) : Option EndAction :=
  if v = 0 then some .hold else if v = 1 then some .reload else if v = 2 then some .release else none

/-- Clamp flag codes (R10, R55). -/
def ClampFlag.code : ClampFlag → Nat
  | .none => 0 | .high => 1 | .low => 2

/-- Feedback source codes (R17). -/
def FeedbackSource.code : FeedbackSource → Nat
  | .link => 0 | .injected => 1

/-- The direction of a written value: exactly +1 or -1 (R18). -/
def Direction.ofCode (v : Int) : Option Direction := if v = 1 then some .plus else if v = -1 then some .minus else none

/-- Segment kind codes (R97). -/
def SegmentKind.code : SegmentKind → Nat
  | .none => 0 | .hold => 1 | .ramp => 2 | .step => 3 | .square => 4

/-- The segment kind of a code (R98). -/
def SegmentKind.ofCode (v : Int) : Option SegmentKind :=
  if v = 0 then some .none else if v = 1 then some .hold else if v = 2 then some .ramp else if v = 3 then some .step
  else if v = 4 then some .square else none

/-- Limit kinds: speed error 0, imbalance 1, load high 2 (R115). -/
def LimitKind.code : LimitKind → Nat
  | .speedError => 0 | .imbalance => 1 | .loadHigh => 2

/-- Limit action codes (R115). -/
def LimitAction.code : LimitAction → Nat
  | .event => 0 | .freeze => 1 | .release => 2 | .abort => 3

/-- The limit action of a code (R116). -/
def LimitAction.ofCode (v : Int) : Option LimitAction :=
  if v = 0 then some .event else if v = 1 then some .freeze else if v = 2 then some .release else if v = 3 then some .abort
  else none

/-- Limit state codes (R115). -/
def LimitState.code : LimitState → Nat
  | .inside => 0 | .outside => 1

/-- Sign memory codes (R115). -/
def SignMemory.code : SignMemory → Nat
  | .none => 0 | .positive => 1 | .negative => 2

/-- Watch action codes (R128). -/
def WatchAction.code : WatchAction → Nat
  | .off => 0 | .monitor => 1 | .stopOnChange => 2 | .stopOnMatch => 3

/-- The watch action of a code (R129). -/
def WatchAction.ofCode (v : Int) : Option WatchAction :=
  if v = 0 then some .off else if v = 1 then some .monitor else if v = 2 then some .stopOnChange
  else if v = 3 then some .stopOnMatch else none

/-- Watch field codes (R128). -/
def WatchField.code : WatchField → Nat
  | .reference => 0 | .command => 1 | .actualSpeed => 2 | .load => 3 | .status => 4

/-- The watch field of a code (R129). -/
def WatchField.ofCode (v : Int) : Option WatchField :=
  if v = 0 then some .reference else if v = 1 then some .command else if v = 2 then some .actualSpeed
  else if v = 3 then some .load else if v = 4 then some .status else none

/-- Occurrence source codes (R128 field 8). -/
def OccurrenceSource.code : OccurrenceSource → Nat
  | .line => 0 | .issued => 1 | .drive => 2 | .injected => 3

/-- Watch source codes (R128 field 3). -/
def WatchSource.code : WatchSource → Nat
  | .only src => src.code | .any => 4

/-- The watch source of a code (R129). -/
def WatchSource.ofCode (v : Int) : Option WatchSource :=
  if v = 0 then some (.only .line) else if v = 1 then some (.only .issued) else if v = 2 then some (.only .drive)
  else if v = 3 then some (.only .injected) else if v = 4 then some .any else none

/-- Whether a watch point accepts a source (R130). -/
def WatchSource.accepts (w : WatchSource) (src : OccurrenceSource) : Bool :=
  match w with
  | .any => true | .only x => x = src

/-- Compare mode codes (R128). -/
def CompareMode.code : CompareMode → Nat
  | .equal => 0 | .above => 1 | .below => 2

/-- The compare mode of a code (R129). -/
def CompareMode.ofCode (v : Int) : Option CompareMode :=
  if v = 0 then some .equal else if v = 1 then some .above else if v = 2 then some .below else none

/-- The comparison of a STOP_ON_MATCH point (R133). -/
def CompareMode.holds (m : CompareMode) (value compare : Int) : Bool :=
  match m with
  | .equal => value = compare | .above => value > compare | .below => value < compare

/-- Capture field codes (R140). -/
def CaptureField.code : CaptureField → Nat
  | .reference => 0 | .actualSpeed => 1 | .load => 2 | .status => 3 | .imbalance => 4 | .trim => 5

/-- The capture field of a code (R140). -/
def CaptureField.ofCode (v : Int) : Option CaptureField :=
  if v = 0 then some .reference else if v = 1 then some .actualSpeed else if v = 2 then some .load
  else if v = 3 then some .status else if v = 4 then some .imbalance else if v = 5 then some .trim else none

/-- Capture source codes (R140). -/
def CaptureSource.code : CaptureSource → Nat
  | .line => 0 | .issued => 1 | .drive => 2 | .calibrated => 3

/-- The capture source of a code (R140). -/
def CaptureSource.ofCode (v : Int) : Option CaptureSource :=
  if v = 0 then some .line else if v = 1 then some .issued else if v = 2 then some .drive else if v = 3 then some .calibrated
  else none

/-- Capture mode codes (R141). -/
def CaptureMode.code : CaptureMode → Nat
  | .once => 0 | .triggered => 1 | .loop => 2

/-- The capture mode of a code (R141). -/
def CaptureMode.ofCode (v : Int) : Option CaptureMode :=
  if v = 0 then some .once else if v = 1 then some .triggered else if v = 2 then some .loop else none

/-- Sweep codes (R141). -/
def SweepKind.code : SweepKind → Nat
  | .simultaneous => 0 | .sequential => 1

/-- The sweep of a code (R141). -/
def SweepKind.ofCode (v : Int) : Option SweepKind :=
  if v = 0 then some .simultaneous else if v = 1 then some .sequential else none

/-- Trigger kind codes (R141). -/
def TriggerKind.code : TriggerKind → Nat
  | .command => 0 | .sectionStart => 1 | .segmentBoundary => 2 | .limit => 3 | .watch => 4

/-- The trigger kind of a code (R141). -/
def TriggerKind.ofCode (v : Int) : Option TriggerKind :=
  if v = 0 then some .command else if v = 1 then some .sectionStart else if v = 2 then some .segmentBoundary
  else if v = 3 then some .limit else if v = 4 then some .watch else none

/-- Capture state codes (R141). -/
def CaptureState.code : CaptureState → Nat
  | .idle => 0 | .waiting => 1 | .running => 2 | .post => 3 | .done => 4

/-- Event kind codes (R167). -/
def EventKind.code : EventKind → Nat
  | .startUp => 0 | .stateChange => 1 | .limitOut => 2 | .limitIn => 3 | .oscillation => 4 | .clamp => 5 | .profileEnd => 6
  | .calResult => 7 | .watchHit => 8 | .captureDone => 9 | .permit => 10

/-- The level of a level code; none where the code is unknown (R162). -/
def Level.ofCode : Nat → Option Level
  | 0 => some .observe | 1 => some .commission | _ => none

/-! ## Result codes (R161) -/

/-- The result of a request. -/
inductive ResultCode where
  | ok | clamped | ignored | badCommand | badAddress | badValue | notPermitted | wrongState | sectionActive | inUse | tableFull
  | busy
  deriving DecidableEq, Repr

/-- Result codes (R161). -/
def ResultCode.code : ResultCode → Nat
  | .ok => 0 | .clamped => 1 | .ignored => 2 | .badCommand => 3 | .badAddress => 4 | .badValue => 5 | .notPermitted => 6
  | .wrongState => 7 | .sectionActive => 8 | .inUse => 9 | .tableFull => 10 | .busy => 11

/-- The result byte: the code in bits 0 to 6, the wrapped indication in bit 7 (R161). -/
def resultByte (r : ResultCode) (wrapped : Bool) : Byte := BitVec.ofNat 8 (r.code + if wrapped then 128 else 0)

/-- A data value of a reply as a 32-bit word (R151, R161). -/
def dataWord (v : Int) : Word32 := BitVec.ofInt 32 v

/-! ## Operand words -/

/-- The operands of a request as signed integers (R4, R151). -/
def operandValues (r : RequestFrame) : List Int := r.operands.map BitVec.toInt

end Sys2Proof.Machine
end

