-- ==== Sys2Proof/Machine/Flags.lean ====
section
/-! DEFINITION. Flag computations: the clamp marks of an issue (R53, R54), the status flags of a drive (R151), the section states
that rules group together, and the flag byte of the station frame (R151). -/

namespace Sys2Proof.Machine

/-- A value and the mark of the clamps made on it. -/
structure Marked where
  value : Int
  mark : ClampFlag
  deriving DecidableEq, Repr

/-- Clamping to [a, b] with a mark: HIGH where the clamp lowers the value, LOW where it raises it; a clamp that changes nothing
keeps the mark found (R53, R54). -/
def Marked.clamp (a b : Int) (m : Marked) : Marked :=
  if m.value < a then ⟨a, .low⟩ else if b < m.value then ⟨b, .high⟩ else m

/-- The window clamp of TRIAL to [B - W, B + W] (R53). -/
def windowClamp (lineRef window v : Int) : Marked := Marked.clamp (lineRef - window) (lineRef + window) ⟨v, .none⟩

/-- The absolute clamp to ±Vmax; its mark replaces the window clamp's (R54). -/
def absoluteClamp (vmax : Int) (m : Marked) : Marked := Marked.clamp (-vmax) vmax m

/-- READY, bit 0 of the status (R151). -/
def statusReady (st : BitVec 5) : Bool := st.getLsbD 0
/-- RUNNING, bit 1 (R151). -/
def statusRunning (st : BitVec 5) : Bool := st.getLsbD 1
/-- AT_LIMIT, bit 2 (R151). -/
def statusAtLimit (st : BitVec 5) : Bool := st.getLsbD 2
/-- WARNING, bit 3 (R151). -/
def statusWarning (st : BitVec 5) : Bool := st.getLsbD 3
/-- FAULT, bit 4 (R151). -/
def statusFault (st : BitVec 5) : Bool := st.getLsbD 4

/-- The status recorded from a status byte: bits 5 to 7 are recorded as 0 (R152). -/
def statusOfByte (b : Byte) : BitVec 5 := b.setWidth 5

/-- The rewriting states (spec 1.4). -/
def SectionState.rewriting : SectionState → Bool
  | .trial => true | .frozen => true | .calibrating => true | .releasing => true
  | .bypass => false | .selected => false | .faulted => false

/-- The states whose sets are handed on and whose sections can fault: SELECTED and the rewriting states (R41, R42, R82). -/
def SectionState.monitored : SectionState → Bool
  | .selected => true | .trial => true | .frozen => true | .calibrating => true | .releasing => true
  | .bypass => false | .faulted => false

/-- The states in which structural fields and direction and calibration may be written: BYPASS and SELECTED (R5, R18). -/
def SectionState.configurable : SectionState → Bool
  | .bypass => true | .selected => true
  | .trial => false | .frozen => false | .calibrating => false | .releasing => false | .faulted => false

/-- Byte 3 of the station frame: bit 0 permit active, bit 1 attention (R151, R157). The spec gives no value for bits 2 to 7; they are 0:
DESIGN CHOICE, log entry 30. -/
def stationFlags (permit attention : Bool) : Byte :=
  BitVec.ofNat 8 ((if permit then 1 else 0) + if attention then 2 else 0)

end Sys2Proof.Machine
end

