-- ==== Sys2Proof/WellFormed.lean ====
section
/-! DEFINITION. Which commands the link can bring: the counts that test 3 of R152 allows, and a BAD_FRAME whose bytes are bad. -/

namespace Sys2Proof

/-- An entry count of at most 62 (R152, test 3). -/
def DispatchFrame.wf (f : DispatchFrame) : Bool := f.entries.length ≤ 62

/-- An operand count of at most 16 (R152, test 3). -/
def RequestFrame.wf (f : RequestFrame) : Bool := f.operands.length ≤ 16

/-- A data count of at most 16 (R152, test 3). -/
def ReplyFrame.wf (f : ReplyFrame) : Bool := f.data.length ≤ 16

/-- Sixteen section states (R151). -/
def StationFrame.wf (f : StationFrame) : Bool := f.sections.length = 16

/-- A frame that the layout of R151 can carry. -/
def Frame.wf : Frame → Bool
  | .dispatch f => f.wf
  | .ret _ => true
  | .request f => f.wf
  | .reply f => f.wf
  | .station f => f.wf

/-- The frame of a FOREIGN frame. -/
def ForeignFrame.frame : ForeignFrame → Frame
  | .reply f => .reply f
  | .station f => .station f

/-- A command that the outside can send. -/
def Instr.wf : Instr → Bool
  | .dispatch f => f.wf
  | .serviceRequest f => f.wf
  | .otherStationFrame f => f.frame.wf
  | .badFrame p bs => match receive p bs with
    | .ok _ => false
    | .error _ => true
  | .powerOn _ _ => true
  | .resetLine _ _ => true
  | .permitLineChange _ => true
  | .lineTimerExpiry => true
  | .returnFrame _ => true
  | .upstreamSend => true
  | .downstreamSend => true
  | .read => true
  | .write => true
  | .readIndexed => true
  | .setCursor => true
  | .readNext => true
  | .writeNext => true
  | .readEvents => true
  | .peekEvents => true
  | .restart => true
  | .select => true
  | .deselect => true
  | .start => true
  | .freeze => true
  | .continueTrial => true
  | .stepRun => true
  | .stopTrial => true
  | .abort => true
  | .calibrate => true
  | .trigger => true
  | .clearFault => true
  | .addMember => true
  | .removeMember => true
  | .makeLead => true
  | .injectFeedback => true
  | .latchSnapshot => true
  | .readSnapshot => true
  | .captureStart => true
  | .captureStop => true
  | .triggerCapture => true
  | .powerLoss => true
  | .unknownCommandCode => true

end Sys2Proof
end

