-- ==== Sys2Proof/Machine/Ops.lean ====
section
/-! DEFINITION. The named operations over the state: the tables by index, member lists, the Capture Buffer, the Event Queue
(R167), the link queues (R154, R156) and the frame check on every command of a powered bridge. -/

namespace Sys2Proof.Machine

/-- The outcome of a step of this block. -/
abbrev Out := Host.Outcome State Fault Refusal

/-! ## The Capture Buffer as an addressed memory (R142) -/

/-- What an unlisted position reads as: a cleared record (R142). -/
def CaptureRecord.cleared : CaptureRecord := ⟨0, none, 0, false⟩

/-- The record at a position. -/
def Memory.read : List (Nat × CaptureRecord) → Nat → CaptureRecord
  | [], _ => .cleared
  | (p, r) :: rest, a => if p = a then r else if a < p then .cleared else Memory.read rest a

/-- Write a record at a position, keeping the canonical form: positions rising, no cleared record listed. -/
def Memory.write : List (Nat × CaptureRecord) → Nat → CaptureRecord → List (Nat × CaptureRecord)
  | [], a, v => if v = .cleared then [] else [(a, v)]
  | (p, r) :: rest, a, v =>
    if a < p then (if v = .cleared then (p, r) :: rest else (a, v) :: (p, r) :: rest)
    else if a = p then (if v = .cleared then rest else (a, v) :: rest)
    else (p, r) :: Memory.write rest a v

/-- Every listed position is at least `lo`, positions rise, and no listed record is cleared. -/
def Memory.wfFrom : Nat → List (Nat × CaptureRecord) → Bool
  | _, [] => true
  | lo, (p, r) :: rest => decide (lo ≤ p) && decide (r ≠ .cleared) && Memory.wfFrom (p + 1) rest

/-- The canonical form of the buffer. -/
def Memory.wf (m : List (Nat × CaptureRecord)) : Bool := Memory.wfFrom 0 m

/-! ## Tables by index -/

/-- Section i. -/
def State.sec (s : State) (i : SecId) : Section := s.sections[i]

/-- Replace section i by its image. -/
def State.modSec (s : State) (i : SecId) (f : Section → Section) : State :=
  { s with sections := s.sections.set i (f s.sections[i]) }

/-- Member Pool record r. -/
def State.member (s : State) (r : RecId) : PoolRecord := s.pool[r]

/-- Replace record r by its image. -/
def State.modRec (s : State) (r : RecId) (f : PoolRecord → PoolRecord) : State :=
  { s with pool := s.pool.set r (f s.pool[r]) }

/-- The Drive Map entry of node n. -/
def State.drive (s : State) (n : NodeId) : DriveEntry := s.drives[n]

/-- Replace the Drive Map entry of node n by its image. -/
def State.modDrive (s : State) (n : NodeId) (f : DriveEntry → DriveEntry) : State :=
  { s with drives := s.drives.set n (f s.drives[n]) }

/-- Watch point w. -/
def State.watch (s : State) (w : WatchId) : WatchPoint := s.watches[w]

/-- Replace watch point w by its image. -/
def State.modWatch (s : State) (w : WatchId) (f : WatchPoint → WatchPoint) : State :=
  { s with watches := s.watches.set w (f s.watches[w]) }

/-- Segment record k; a number past the table reads as an unused record. -/
def State.segment (s : State) (k : Nat) : Segment := if h : k < 128 then s.segments[k] else Segment.powerOn

/-- All section numbers, 0 to 15: the order in which rules take the sections. -/
def sectionIds : List SecId := [0, 1, 2, 3, 4, 5, 6, 7, 8, 9, 10, 11, 12, 13, 14, 15]

/-- All watch point numbers, 0 to 3: the order in which the points take an occurrence (R130). -/
def watchIds : List WatchId := [0, 1, 2, 3]

/-- Do f for every section in turn, from section 0 to section 15. -/
def State.forSections (s : State) (f : State → SecId → State) : State := sectionIds.foldl f s

/-! ## Members -/

/-- The node of a member record (R10). A record in a member list always names one (the invariant of R9); a free record, which no
list names, reads as entry 0. -/
def State.memberNode (s : State) (r : RecId) : NodeId := (s.member r).node.getD 0

/-- The feedback record of a member. -/
def State.memberFeedback (s : State) (r : RecId) : Feedback := (s.drive (s.memberNode r)).feedback

/-- The direction of a member's node. -/
def State.memberDirection (s : State) (r : RecId) : Direction := (s.drive (s.memberNode r)).direction

/-- The member list of section i in position order (R9). -/
def State.members (s : State) (i : SecId) : List RecId := (s.sec i).members

/-- The record of a node in its assigned section's member list; none for a node in no section (R9). -/
def State.recordOf (s : State) (n : NodeId) : Option RecId :=
  match (s.drive n).inSection with
  | none => none
  | some i => (s.members i).find? fun r => (s.member r).node = some n

/-- The position of a node that is a member (R10 field 3). -/
def State.positionOf (s : State) (n : NodeId) : Option Pos := (s.recordOf n).bind fun r => (s.member r).position

/-- Change the records of a list of members, one after the other. -/
def State.modRecs (s : State) (rs : List RecId) (f : PoolRecord → PoolRecord) : State :=
  rs.foldl (fun t r => t.modRec r f) s

/-- Change every member record of section i. -/
def State.modMembers (s : State) (i : SecId) (f : PoolRecord → PoolRecord) : State := s.modRecs (s.members i) f

/-! ## The Event Queue (R167) -/

/-- Set the overflow-after flag of the newest record. -/
def markOverflow : List Event → List Event
  | [] => []
  | [e] => [{ e with overflowAfter := true }]
  | e :: es => e :: markOverflow es

/-- Post an event: append it with the next sequence number, or discard it and mark the newest record where the queue holds 32
records (R167). -/
def State.post (s : State) (kind : EventKind) (sec : Option SecId) (node : Option NodeId) (pos : Option Pos) (cycle : Word16)
    (value : Option Int) (detail : Nat) : State :=
  if s.events.length < Config.eventQueueSize then
    { s with
      events := s.events ++ [⟨s.nextSequence, kind, sec, node, pos, cycle, value, detail, false⟩]
      nextSequence := s.nextSequence + 1 }
  else { s with events := markOverflow s.events }

/-! ## The link queues (R154 to R157) -/

/-- Queue a frame for the downstream port; it is discarded from forwarding while 8 are waiting (R154). -/
def State.forwardDown (s : State) (f : Frame) : State :=
  if s.downstreamQueue.length < Config.downstreamQueueSize then { s with downstreamQueue := s.downstreamQueue ++ [f] } else s

/-- Queue a forwarded frame for the upstream port, ready now; it is discarded from forwarding while 8 are waiting (R156). -/
def State.forwardUp (s : State) (f : Frame) : State :=
  if s.throughQueue.length < Config.throughQueueSize then
    { s with throughQueue := s.throughQueue ++ [⟨s.readyCount, f⟩], readyCount := s.readyCount + 1 }
  else s

/-- The header node and station byte of the bridge's own frames. -/
def State.stationByte (s : State) : Byte := nodeByte s.station

/-- Post the one reply of a request into the reply queue, ready now (R156, R157, R161). -/
def State.postReply (s : State) (tag : Byte) (result : ResultCode) (wrapped : Bool) (data : List Int) : State :=
  { s with
    replyQueue := s.replyQueue ++
      [⟨s.readyCount, .reply ⟨s.stationByte, s.cycle, s.stationByte, tag, resultByte result wrapped, data.map dataWord⟩⟩]
    readyCount := s.readyCount + 1 }

/-- The station frame as it stands now (R157). -/
def State.stationFrame (s : State) : StationFrame where
  headerNode := s.stationByte
  cycle := s.cycle
  address := s.stationByte
  bodyCycle := s.cycle
  flags := stationFlags s.permit (!s.events.isEmpty)
  capture := BitVec.ofNat 8 s.capture.state.code
  sections := sectionIds.map fun i => BitVec.ofNat 8 (s.sec i).state.code

/-- Build the station frame and place it in the station slot; an unsent frame there is discarded (R156, R157). -/
def State.placeStationFrame (s : State) : State :=
  { s with stationSlot := some ⟨s.readyCount, .station s.stationFrame⟩, readyCount := s.readyCount + 1 }

/-! ## The supply -/

/-- The effect of a command on a bridge whose supply is up; without supply no frame is taken or sent and nothing happens until
power returns (R160, log entry 15). -/
def State.whenPowered (s : State) (f : State → State) : Out := .next (if s.powered then f s else s)

end Sys2Proof.Machine
end

