-- ==== Sys2Proof/Machine/Capture.lean ====
section
/-! DEFINITION. The Capture Unit (chapter 9): the active list, triggers, sweeps, the logical order of the buffer, and the ends of a
capture. -/

namespace Sys2Proof.Machine

/-- Change the capture control record. -/
def State.modCapture (s : State) (f : CaptureControl → CaptureControl) : State := { s with capture := f s.capture }

/-- The active list: the items from item 0 up to the first disabled one (R140). -/
def State.activeList (s : State) : List CaptureItem := s.captureList.toList.takeWhile (·.enable)

/-- The pairings of field and source that R143 allows. -/
def CaptureItem.allowed (c : CaptureItem) : Bool :=
  match c.field, c.source with
  | .reference, .line => true | .reference, .issued => true | .reference, .drive => false | .reference, .calibrated => false
  | .actualSpeed, .line => false | .actualSpeed, .issued => false | .actualSpeed, .drive => true | .actualSpeed, .calibrated => true
  | .load, .line => false | .load, .issued => false | .load, .drive => true | .load, .calibrated => true
  | .status, .line => false | .status, .issued => false | .status, .drive => true | .status, .calibrated => true
  | .imbalance, _ => true
  | .trim, _ => true

/-- Enter DONE and post CAPTURE_DONE with detail FULL 0 or POST_COMPLETE 1 (R150). -/
def State.captureDone (s : State) (detail : Nat) : State :=
  (s.modCapture fun c => { c with state := .done }).post .captureDone none none none s.cycle (some s.capture.recordCount) detail

/-- Whether a signal is the trigger source of R141; for COMMAND the index is not read. -/
def CaptureControl.matchesTrigger (c : CaptureControl) (kind : TriggerKind) (index : Nat) : Bool :=
  c.triggerKind = kind && (kind = .command || c.triggerIndex = index)

/-- Take a trigger signal (R147): the state after it, and whether it began a run, entered POST or entered DONE. A LOOP capture with a post
count of 0 enters DONE at once, so a trigger within a dispatch lets that dispatch take no sweep (R144, R147), though R149 also allows the
buffer to end with the sweep of that dispatch: DESIGN CHOICE, log entry 28. -/
def State.takeTrigger (s : State) (kind : TriggerKind) (index : Nat) : State × Bool :=
  if s.capture.matchesTrigger kind index then
    match s.capture.mode, s.capture.state with
    | .triggered, .waiting =>
      (s.modCapture fun c => { c with state := .running, remaining := c.runLength, nextItem := 0 }, true)
    | .loop, .running =>
      if s.capture.postCount = 0 then (s.captureDone 1, true)
      else (s.modCapture fun c => { c with state := .post, remaining := c.postCount }, true)
    | _, _ => (s, false)
  else (s, false)

/-- Signal a trigger to the Capture Unit (R147). -/
def State.signal (s : State) (kind : TriggerKind) (index : Nat) : State := (s.takeTrigger kind index).1

/-! ## Sweeps -/

/-- What a sweep sees of the dispatch it is taken at: the entries as received and as forwarded, and the cycle number of the
dispatch accepted before this one, absent at the first dispatch (R143). -/
structure FrameView where
  received : List Entry
  forwarded : List Entry
  previous : Option Word16

/-- The first entry of a node in a frame. -/
def firstEntry (entries : List Entry) (n : NodeId) : Option Entry := entries.find? fun e => nodeOf e.node.toNat = some n

/-- A node is a section's lead (R143). -/
def State.leadOf (s : State) (n : NodeId) : Option SecId :=
  match (s.drive n).inSection with
  | none => none
  | some i => match s.members i with
    | [] => none
    | r :: _ => if (s.member r).node = some n then some i else none

/-- A node's feedback is current at a sweep (R143): ever received, and its cycle number is that of the dispatch accepted before this one.
Where cycle numbers repeat (R84, R153) a node whose missing count rose at this dispatch can pass this test, though a later sentence of
R143 calls it not current; the model follows the definition: DESIGN CHOICE, log entry 29. -/
def Feedback.current (fb : Feedback) (previous : Option Word16) : Bool := fb.ever && previous = some fb.cycle

/-- The value and the stale flag of a capture item (R143). A pairing that is not allowed never stands in an active list that
CAPTURE START has passed (R145); it reads as the feedback record does. -/
def State.captureValue (s : State) (v : FrameView) (c : CaptureItem) : Int × Bool :=
  let d := s.drive c.node
  let fb := d.feedback
  let stale := !(fb.current v.previous)
  match c.field with
  | .reference =>
    match c.source with
    | .issued =>
      match s.recordOf c.node with
      | some r => ((s.member r).issued, false)
      | none => match firstEntry v.forwarded c.node with
        | some e => (d.direction.apply e.speed.toInt, false)
        | none => (0, true)
    | _ =>
      match firstEntry v.received c.node with
      | some e => (watchedSpeed d.direction e.speed, false)
      | none => (match s.leadOf c.node with | some i => (s.sec i).lineReference | none => 0, true)
  | .actualSpeed => (if c.source = .calibrated then fb.calibratedSpeed else fb.rawSpeed, stale)
  | .load => (if c.source = .calibrated then fb.signedLoad else fb.rawLoad, stale)
  | .status => (fb.status.toNat, stale)
  | .imbalance =>
    match s.recordOf c.node with
    | some r => ((s.member r).imbalance, stale)
    | none => (0, true)
  | .trim =>
    match s.recordOf c.node with
    | some r => ((s.member r).trim, false)
    | none => (0, true)

/-- Write one record at the write index (R142, R144): in ONCE and TRIGGERED mode a record is dropped while the buffer is full; in
LOOP mode it replaces the oldest and sets the wrapped flag. -/
def State.writeRecord (s : State) (r : CaptureRecord) : State :=
  let c := s.capture
  let next := (c.writeIndex + 1) % Config.captureBufferSize
  if c.recordCount < Config.captureBufferSize then
    { s with
      buffer := Memory.write s.buffer c.writeIndex r
      capture := { c with writeIndex := next, recordCount := c.recordCount + 1 } }
  else if c.mode = .loop then
    { s with buffer := Memory.write s.buffer c.writeIndex r, capture := { c with writeIndex := next, wrapped := true } }
  else s

/-- The record of item number k at this sweep. -/
def State.recordOfItem (s : State) (v : FrameView) (k : Nat) (c : CaptureItem) : CaptureRecord :=
  let x := s.captureValue v c
  ⟨s.cycle, some k, x.1, x.2⟩

/-- The records of one sweep in the order they are written (R144). -/
def State.sweepRecords (s : State) (v : FrameView) : List CaptureRecord :=
  match s.capture.sweep with
  | .simultaneous => s.activeList.zipIdx.map fun p => s.recordOfItem v p.2 p.1
  | .sequential =>
    match s.activeList[s.capture.nextItem]? with
    | some c => [s.recordOfItem v s.capture.nextItem c]
    | none => []

/-- The next sequential item after a sweep (R144). -/
def State.advanceItem (s : State) : State :=
  match s.capture.sweep with
  | .simultaneous => s
  | .sequential => s.modCapture fun c =>
      { c with nextItem := if c.nextItem + 1 < s.activeList.length then c.nextItem + 1 else 0 }

/-- How a sweep ends the run or the capture, by mode (R148, R149). -/
def State.endSweep (s : State) : State :=
  match s.capture.mode with
  | .once => if s.capture.recordCount = Config.captureBufferSize then s.captureDone 0 else s
  | .triggered =>
    let s := s.modCapture fun c => { c with remaining := c.remaining - 1 }
    if s.capture.recordCount = Config.captureBufferSize then s.captureDone 0
    else if s.capture.remaining = 0 then s.modCapture fun c => { c with state := .waiting }
    else s
  | .loop =>
    if s.capture.state = .post then
      let s := s.modCapture fun c => { c with remaining := c.remaining - 1 }
      if s.capture.remaining = 0 then s.captureDone 1 else s
    else s

/-- The sweep of a dispatch: taken in RUNNING and POST alone (R144). -/
def State.takeSweep (s : State) (v : FrameView) : State :=
  if s.capture.state = .running ∨ s.capture.state = .post then
    ((s.sweepRecords v).foldl State.writeRecord s).advanceItem.endSweep
  else s

/-! ## Reading the buffer (R142) -/

/-- The physical position of logical entry i (R142). -/
def State.physical (s : State) (i : Nat) : Nat :=
  if s.capture.wrapped then (s.capture.writeIndex + i) % Config.captureBufferSize else i

/-- The record at logical entry i. -/
def State.logicalRecord (s : State) (i : Nat) : CaptureRecord := Memory.read s.buffer (s.physical i)

end Sys2Proof.Machine
end

