-- ==== Sys2Proof/Machine/Sections.lean ====
section
/-! DEFINITION. The Section Controller (chapter 2): entry to each state with its effects (R25, R26), the freeing of the engine
(R94, R95), and the requests and conditions of other blocks (R41, R44 to R46). -/

namespace Sys2Proof.Machine

/-! ## The engine's release and its CAL_RESULT event -/

/-- Abandonment details of CAL_ABANDONED (R94). -/
inductive Abandon where
  | abort | override | fault | permit | lineSpeed | feedback
  deriving DecidableEq, Repr

/-- Abandonment detail codes (R94). -/
def Abandon.code : Abandon → Nat
  | .abort => 0 | .override => 1 | .fault => 2 | .permit => 3 | .lineSpeed => 4 | .feedback => 5

/-- How a calibration ends (R94). -/
inductive CalResult where
  | ok (followers : Nat)
  | spread (node : NodeId) (position : Option Pos) (value : Int)
  | range (node : NodeId) (position : Option Pos) (gain : Int)
  | abandoned (why : Abandon)
  deriving DecidableEq, Repr

/-- Post the CAL_RESULT event of section i (R94). -/
def State.postCalResult (s : State) (i : SecId) (r : CalResult) : State :=
  match r with
  | .ok n => s.post .calResult (some i) none none s.cycle (some n) 0
  | .spread node pos v => s.post .calResult (some i) (some node) pos s.cycle (some v) 1
  | .range node pos g => s.post .calResult (some i) (some node) pos s.cycle (some g) 2
  | .abandoned w => s.post .calResult (some i) none none s.cycle (some w.code) 3

/-- Section i gives up the engine, if it holds it: CAL_RESULT is queued and the engine is freed (R25, R26, R87). -/
def State.freeEngine (s : State) (i : SecId) (r : CalResult) : State :=
  if s.engine.holder = some i then { s.postCalResult i r with engine := Engine.free } else s

/-- The abandonment detail of an exit by the Section Controller (R25, R95). -/
def Cause.abandon : Cause → Abandon
  | .lineOverride => .override
  | .driveFault => .fault | .feedbackLost => .fault | .lineEntryLost => .fault | .lineLost => .fault
  | .permit => .permit
  | .command => .abort | .monitorAbort => .abort | .restart => .abort
  | .watch => .abort | .limit => .abort | .oscillation => .abort | .gate => .abort | .stepDone => .abort
  | .profileEnd => .abort | .calDone => .abort | .releaseDone => .abort

/-! ## State-change events -/

/-- Post the STATE_CHANGE event of a transition (R23). -/
def State.postStateChange (s : State) (i : SecId) (st : SectionState) (cause : Cause) (node : Option NodeId) (pos : Option Pos) :
    State :=
  s.post .stateChange (some i) node pos s.cycle (some st.code) cause.code

/-! ## Entry effects -/

/-- What entry to BYPASS, SELECTED or FAULTED does to a member: trim 0, held offset 0, clamp flag NONE (R25, R74). -/
def PoolRecord.dropped (r : PoolRecord) : PoolRecord := { r with trim := 0, held := 0, clamp := .none }

/-- Entry to BYPASS, SELECTED or FAULTED (R24, R25). -/
def State.enterPassing (s : State) (i : SecId) (st : SectionState) (cause : Cause) (node : Option NodeId) (pos : Option Pos) :
    State :=
  let s := s.modMembers i PoolRecord.dropped
  let s := s.freeEngine i (.abandoned cause.abandon)
  let s := s.modSec i fun x => { x with
    state := st
    faultCode := if st = .faulted then some cause else none
    releaseTarget := none
    startPending := false
    profile := { x.profile with stepPending := false } }
  s.postStateChange i st cause node pos

/-- The held offsets formed at entry to FROZEN or RELEASING: last issued reference minus issue base (R57). -/
def State.formOffsets (s : State) (i : SecId) : State :=
  s.modMembers i fun r => { r with held := r.issued - (s.sec i).issueBase }

/-- The freeze record of a freeze taken now (R44, R137). -/
def Section.freezeRecord (x : Section) (cause : Cause) (src : Option Nat) (cycle : Word16) : FreezeRecord where
  cause := some cause
  sourceIndex := src
  cycle := cycle
  segmentIndex := x.profile.segmentIndex
  cycleCount := x.profile.cycleCount
  pass := x.profile.pass
  offset := x.profile.offset

/-- Entry to FROZEN from TRIAL (R26, R44). -/
def State.enterFrozen (s : State) (i : SecId) (cause : Cause) (src : Option Nat) (node : Option NodeId) (pos : Option Pos) :
    State :=
  let s := s.formOffsets i
  let s := s.modSec i fun x => { x with
    state := .frozen
    freeze := x.freezeRecord cause src s.cycle
    startPending := false
    profile := { x.profile with stepPending := false } }
  s.postStateChange i .frozen cause node pos

/-- Entry to RELEASING from TRIAL, FROZEN or CALIBRATING; `result` is reported where the section holds the engine (R24, R26). -/
def State.enterReleasing (s : State) (i : SecId) (target : ReleaseTarget) (cause : Cause) (result : CalResult)
    (node : Option NodeId) (pos : Option Pos) : State :=
  let s := s.formOffsets i
  let s := s.freeEngine i result
  let s := s.modSec i fun x => { x with
    state := .releasing
    releaseTarget := some target
    startPending := false
    profile := { x.profile with stepPending := false } }
  s.postStateChange i .releasing cause node pos

/-- TRIAL from FROZEN, by CONTINUE or STEP: every held offset becomes 0 (R26, R32, R33). -/
def State.resumeTrial (s : State) (i : SecId) (stepPending : Bool) : State :=
  let s := s.modMembers i fun r => { r with held := 0 }
  let s := s.modSec i fun x => { x with state := .trial, profile := { x.profile with stepPending := stepPending } }
  s.postStateChange i .trial .command none none

/-- CALIBRATING from SELECTED: the section takes the engine in the same transition (R26, R36, R87). -/
def State.enterCalibrating (s : State) (i : SecId) : State :=
  let s := { s with engine := { Engine.free with holder := some i, phase := some .settleLow } }
  let s := s.modSec i fun x => { x with state := .calibrating }
  s.postStateChange i .calibrating .command none none

/-! ## Requests and conditions -/

/-- A freeze request: it enters FROZEN from TRIAL and has no effect in any other state (R44). -/
def State.requestFreeze (s : State) (i : SecId) (cause : Cause) (src : Option Nat) (node : Option NodeId) (pos : Option Pos) :
    State :=
  if (s.sec i).state = .trial then s.enterFrozen i cause src node pos else s

/-- A release request: it enters RELEASING with target SELECTED from TRIAL or FROZEN (R45); the node and position are those that
R23 marks for its cause. -/
def State.requestRelease (s : State) (i : SecId) (cause : Cause) (node : Option NodeId) (pos : Option Pos) : State :=
  if (s.sec i).state = .trial ∨ (s.sec i).state = .frozen then
    s.enterReleasing i .selected cause (.abandoned cause.abandon) node pos
  else s

/-- An abort request: it takes a rewriting state to BYPASS (R46). -/
def State.requestAbort (s : State) (i : SecId) : State :=
  if (s.sec i).state.rewriting then s.enterPassing i .bypass .monitorAbort none none else s

/-- A fault condition: it takes SELECTED and the rewriting states to FAULTED (R41, R42, R43). -/
def State.faultCondition (s : State) (i : SecId) (cause : Cause) (node : Option NodeId) (pos : Option Pos) : State :=
  if (s.sec i).state.monitored then s.enterPassing i .faulted cause node pos else s

/-- A request that a dispatch takes after its references (R102, R132). -/
inductive LateRequest where
  | freeze (i : SecId) (cause : Cause) (src : Option Nat) (node : Option NodeId) (pos : Option Pos)
  | release (i : SecId) (cause : Cause)
  deriving DecidableEq, Repr

/-- Take one late request. -/
def State.takeLate (s : State) (r : LateRequest) : State :=
  match r with
  | .freeze i cause src node pos => s.requestFreeze i cause src node pos
  | .release i cause => s.requestRelease i cause none none

/-! ## Validity of a profile (R28, R99) -/

/-- The first segment of a range whose kind is NONE. -/
def State.firstNone (s : State) : Nat → Nat → Option Nat
  | _, 0 => none
  | k, n + 1 => if (s.segment k).kind = .none then some k else s.firstNone (k + 1) n

/-- The data value with which SELECT's second and third checks fail on a range: -1 for a range past the table, else the first
segment of kind NONE; none where the range is valid (R28, R99). -/
def State.profileFault (s : State) (start length : Nat) : Option Int :=
  if 128 < start + length then some (-1) else (s.firstNone start length).map Int.ofNat

end Sys2Proof.Machine
end

