-- ==== Sys2Proof/Machine/Balance.lean ====
section
/-! DEFINITION. The Share Balancer (chapter 4): imbalances of every set it takes (R67, R68) and the trim update (R69 to R71). -/

namespace Sys2Proof.Machine

/-- The signed load of a member as the Feedback Intake last recorded it (R67). -/
def State.memberLoad (s : State) (r : RecId) : Int := (s.memberFeedback r).signedLoad

/-- Ltot: the exact sum of the members' loads (R67). -/
def State.totalLoad (s : State) (i : SecId) : Int := ((s.members i).map s.memberLoad).sum

/-- Wsum: the exact sum of the members' weights (R67). -/
def State.totalWeight (s : State) (i : SecId) : Int := ((s.members i).map fun r => ((s.member r).weight : Int)).sum

/-- The target of a member: Ltot × w / Wsum, rounded (R67). -/
def State.loadTarget (s : State) (i : SecId) (r : RecId) : Int :=
  roundDiv (s.totalLoad i * (s.member r).weight) (s.totalWeight i)

/-- The imbalance of a member: load minus target (R68). -/
def State.memberImbalance (s : State) (i : SecId) (r : RecId) : Int := s.memberLoad r - s.loadTarget i r

/-- Store every member's imbalance (R68): the loads and weights it reads are not what it writes. -/
def State.storeImbalances (s : State) (i : SecId) : State :=
  (s.members i).foldl (fun t r => t.modRec r fun x => { x with imbalance := s.memberImbalance i r }) s

/-- The trim step of an imbalance: -(E × Kb) / 16, truncated (R69). -/
def trimStep (imbalance gain : Int) : Int := truncDiv (-(imbalance * gain)) 16

/-- Anti-windup: no step further into a clamp that holds the member (R70). -/
def antiWindup (flag : ClampFlag) (step : Int) : Int :=
  match flag with
  | .high => if 0 < step then 0 else step
  | .low => if step < 0 then 0 else step
  | .none => step

/-- The provisional trim of a member (R71). -/
def PoolRecord.provisionalTrim (r : PoolRecord) (gain : Int) : Int := r.trim + antiWindup r.clamp (trimStep r.imbalance gain)

/-- The mean of the provisional trims: exact sum divided by their number, truncated (R71). -/
def trimMean (provisional : List Int) : Int := truncDiv provisional.sum provisional.length

/-- Write the new trims of a section together: provisional trim minus the mean, clamped to ±Tlim (R71). -/
def State.updateTrims (s : State) (i : SecId) : State :=
  let gain := (s.sec i).cfg.shareGain
  let limit := (s.sec i).cfg.trimLimit
  let m := trimMean ((s.members i).map fun r => (s.member r).provisionalTrim gain)
  s.modMembers i fun x => { x with trim := saturate limit (x.provisionalTrim gain - m) }

/-- The conditions of R66 for a trim update. -/
def Section.balances (x : Section) (complete : Bool) : Bool :=
  complete && x.state = .trial && !x.startPending && 0 < x.cfg.shareGain

/-- The Share Balancer takes a set of section i (R66). -/
def State.balance (s : State) (i : SecId) (complete : Bool) : State :=
  let s := s.storeImbalances i
  if (s.sec i).balances complete then s.updateTrims i else s

end Sys2Proof.Machine
end

