-- ==== Sys2Proof/Machine/Monitors.lean ====
section
/-! DEFINITION. The Section Monitor (chapter 7): compared values (R118), dwell and state (R119), events and requests (R120, R121),
the zero-cross step and oscillation (R124, R125). -/

namespace Sys2Proof.Machine

/-- Change the monitor record of section i. -/
def State.modMonitor (s : State) (i : SecId) (f : Monitor → Monitor) : State :=
  s.modSec i fun x => { x with monitor := f x.monitor }

/-- The limit of a kind. -/
def Monitor.limit (m : Monitor) : LimitKind → Limit
  | .speedError => m.speedError | .imbalance => m.imbalance | .loadHigh => m.loadHigh

/-- Replace the limit of a kind. -/
def Monitor.setLimit (m : Monitor) (k : LimitKind) (l : Limit) : Monitor :=
  match k with
  | .speedError => { m with speedError := l }
  | .imbalance => { m with imbalance := l }
  | .loadHigh => { m with loadHigh := l }

/-- The speed error of a member: calibrated speed minus issued reference (R118). -/
def State.speedError (s : State) (r : RecId) : Int := (s.memberFeedback r).calibratedSpeed - (s.member r).issued

/-- A member's contribution to the compared value of a limit (R118). -/
def State.comparedOf (s : State) (k : LimitKind) (r : RecId) : Int :=
  match k with
  | .speedError => (s.speedError r).natAbs
  | .imbalance => ((s.member r).imbalance).natAbs
  | .loadHigh => s.memberLoad r

/-- The largest value of a member list and the first member in position order that gives it (R118). -/
def largest (f : RecId → Int) : List RecId → Option (RecId × Int)
  | [] => none
  | r :: rs => match largest f rs with
    | none => some (r, f r)
    | some (q, v) => if v ≤ f r then some (r, f r) else some (q, v)

/-- A limit is over its threshold: the threshold is not 0 and the value is greater (R119). -/
def Limit.over (l : Limit) (v : Int) : Bool := l.threshold ≠ 0 && v > l.threshold

/-- What an evaluation does to a limit (R119). -/
inductive LimitEdge where
  | stays | out | back
  deriving DecidableEq, Repr

/-- One evaluation of a limit: its new state and counter, and whether it went OUTSIDE or came back (R119). -/
def Limit.evaluate (l : Limit) (v : Int) : Limit × LimitEdge :=
  match l.state, l.over v with
  | .inside, true =>
    if l.dwell ≤ l.counter + 1 then ({ l with counter := l.counter + 1, state := .outside }, .out)
    else ({ l with counter := l.counter + 1 }, .stays)
  | .inside, false => ({ l with counter := 0 }, .stays)
  | .outside, true => (l, .stays)
  | .outside, false => ({ l with state := .inside, counter := 0 }, .back)

/-- The request of an action (R121, R125). `src` is the source index of the freeze record. -/
def State.requestAction (s : State) (i : SecId) (a : LimitAction) (cause : Cause) (src : Option Nat) (node : Option NodeId)
    (pos : Option Pos) : State :=
  match a with
  | .event => s
  | .freeze => s.requestFreeze i cause src node pos
  | .release => s.requestRelease i cause node pos
  | .abort => s.requestAbort i

/-- Post LIMIT_OUT or LIMIT_IN for the member named, at the cycle of the set evaluated (R120). -/
def State.postLimit (s : State) (i : SecId) (kind : EventKind) (k : LimitKind) (setCycle : Word16) (r : RecId) (v : Int) : State :=
  s.post kind (some i) (s.member r).node (s.member r).position setCycle (some v) k.code

/-- Steps 1 to 3 of R117 for one limit: dwell and state, event, trigger, request. -/
def State.evaluateLimit (s : State) (i : SecId) (setCycle : Word16) (k : LimitKind) : State :=
  match largest (s.comparedOf k) (s.members i) with
  | none => s
  | some (r, v) =>
    let e := ((s.sec i).monitor.limit k).evaluate v
    let s := s.modMonitor i fun m => m.setLimit k e.1
    match e.2 with
    | .stays => s
    | .back => s.postLimit i .limitIn k setCycle r v
    | .out =>
      let s := s.postLimit i .limitOut k setCycle r v
      let s := s.signal .limit i.val
      s.requestAction i e.1.action .limit (some k.code) none none

/-- The zero-cross step on a lead error: new sign memory and count, and whether a crossing was counted (R124). -/
def Monitor.crossing (m : Monitor) (error : Int) : Monitor × Bool :=
  if error > m.band then
    match m.sign with
    | .negative => ({ m with sign := .positive, zeroCross := min 255 (m.zeroCross + 1) }, true)
    | .none => ({ m with sign := .positive }, false)
    | .positive => (m, false)
  else if error < -m.band then
    match m.sign with
    | .positive => ({ m with sign := .negative, zeroCross := min 255 (m.zeroCross + 1) }, true)
    | .none => ({ m with sign := .negative }, false)
    | .negative => (m, false)
  else (m, false)

/-- After a counted crossing: the count has reached the oscillation limit and nothing has fired yet (R125). -/
def Monitor.oscillates (m : Monitor) : Bool := m.oscillationLimit ≠ 0 && m.oscillationLimit ≤ m.zeroCross && !m.fired

/-- Step 4 of R117, taken in TRIAL and not start-pending: zero-crossings and oscillation (R124, R125). -/
def State.zeroCrossStep (s : State) (i : SecId) (setCycle : Word16) : State :=
  if (s.sec i).state = .trial ∧ (s.sec i).startPending = false then
    match s.members i with
    | [] => s
    | lead :: _ =>
      let c := (s.sec i).monitor.crossing (s.speedError lead)
      let s := s.modMonitor i fun _ => c.1
      if c.2 && c.1.oscillates then
        let node := (s.member lead).node
        let s := s.modMonitor i fun m => { m with fired := true }
        let s := s.post .oscillation (some i) node (some 0) setCycle (some c.1.zeroCross) c.1.oscillationAction.code
        s.requestAction i c.1.oscillationAction .oscillation none node (some 0)
      else s
  else s

/-- The Section Monitor evaluates a set of section i: the four steps in order (R117). -/
def State.monitorSet (s : State) (i : SecId) (setCycle : Word16) : State :=
  let s := s.evaluateLimit i setCycle .speedError
  let s := s.evaluateLimit i setCycle .imbalance
  let s := s.evaluateLimit i setCycle .loadHigh
  s.zeroCrossStep i setCycle

/-- A limit set to INSIDE with counter 0, without LIMIT_IN (R28, R115). -/
def Limit.cleared (l : Limit) : Limit := { l with state := .inside, counter := 0 }

/-- Set the three limits of section i to INSIDE and 0 (R28, R170). -/
def State.clearLimits (s : State) (i : SecId) : State :=
  s.modMonitor i fun m => { m with
    speedError := m.speedError.cleared, imbalance := m.imbalance.cleared, loadHigh := m.loadHigh.cleared }

end Sys2Proof.Machine
end

