-- ==== Sys2Proof/Machine/Watching.lean ====
section
/-! DEFINITION. The Watch Unit's points (sections 8.1 to 8.4): occurrences, hits and the requests they make (R130 to R136). -/

namespace Sys2Proof.Machine

/-- Whether an occurrence is a hit at a point (R131, R132, R133). -/
def WatchPoint.hits (p : WatchPoint) (v : Int) : Bool :=
  match p.action with
  | .off => false
  | .monitor => true
  | .stopOnChange => p.lastSeenFlag && v ≠ p.lastSeen
  | .stopOnMatch => p.mode.holds v p.value

/-- Whether hits of this action post WATCH_HIT, trigger the capture and make requests (R131, R136). -/
def WatchAction.stops : WatchAction → Bool
  | .stopOnChange => true | .stopOnMatch => true | .off => false | .monitor => false

/-- The hit count and the display latch at a hit (R131). -/
def WatchPoint.latched (p : WatchPoint) (v : Int) (cycle : Word16) (src : OccurrenceSource) : WatchPoint :=
  { p with hitCount := min 65535 (p.hitCount + 1), latchValue := v, latchCycle := cycle, latchSource := some src }

/-- The last-seen value after an occurrence (R130). -/
def WatchPoint.seen (p : WatchPoint) (v : Int) : WatchPoint := { p with lastSeen := v, lastSeenFlag := true }

/-- A hit at point w: count and latch, then WATCH_HIT and the WATCH trigger where the action stops (R131, R136). -/
def State.watchHit (s : State) (w : WatchId) (v : Int) (src : OccurrenceSource) : State :=
  let p := s.watch w
  let s := s.modWatch w fun p => p.latched v s.cycle src
  if p.action.stops then
    let s := s.post .watchHit (s.drive p.node).inSection (some p.node) (s.positionOf p.node) s.cycle (some v) w.val
    s.signal .watch w.val
  else s

/-- The freeze request of a hit at point w: made where the node's section is in TRIAL (R132, R133). -/
def State.watchRequest (s : State) (w : WatchId) : Option LateRequest :=
  let n := (s.watch w).node
  match (s.drive n).inSection with
  | none => none
  | some i => if (s.sec i).state = .trial then some (.freeze i .watch (some w.val) (some n) (s.positionOf n)) else none

/-- When the freeze request of a STOP_ON_CHANGE hit is taken. -/
inductive ChangeStop where
  /-- With the hit, between dispatches: DRIVE and INJECTED occurrences (R132). -/
  | now
  /-- After the references of the dispatch: LINE and ISSUED occurrences (R132). -/
  | late
  deriving DecidableEq, Repr

/-- One occurrence at point w, and the request it leaves for later. A STOP_ON_MATCH request is taken at the occurrence (R133); an ISSUED
one that finds its section in TRIAL has been taken by the stop test before (R135, log entry 10). -/
def State.occurrence (s : State) (w : WatchId) (v : Int) (src : OccurrenceSource) (change : ChangeStop) :
    State × List LateRequest :=
  let p := s.watch w
  if p.hits v then
    let request := if p.action.stops then s.watchRequest w else none
    let s := (s.watchHit w v src).modWatch w fun p => p.seen v
    match request with
    | none => (s, [])
    | some r => if p.action = .stopOnChange ∧ change = .late then (s, [r]) else (s.takeLate r, [])
  else (s.modWatch w fun p => p.seen v, [])

/-- The value of a field among those that an event presents. -/
def presented (values : List (WatchField × Int)) (f : WatchField) : Option Int :=
  (values.find? fun x => x.1 = f).map (·.2)

/-- What a run of occurrences has done so far: the state, and the requests left for after the references. -/
structure Watched where
  state : State
  late : List LateRequest

/-- One watch point looks at an event that presents these values of node n from a source (R130). -/
def Watched.point (a : Watched) (n : NodeId) (src : OccurrenceSource) (values : List (WatchField × Int)) (change : ChangeStop)
    (w : WatchId) : Watched :=
  let p := a.state.watch w
  if p.action ≠ .off ∧ p.node = n ∧ p.source.accepts src then
    match presented values p.field with
    | none => a
    | some v =>
      let r := a.state.occurrence w v src change
      ⟨r.1, a.late ++ r.2⟩
  else a

/-- Every watch point, 0 to 3, looks at an event (R130); `skip` names a point that does not see it (R135). -/
def Watched.points (a : Watched) (n : NodeId) (src : OccurrenceSource) (values : List (WatchField × Int)) (change : ChangeStop)
    (skip : Option WatchId) : Watched :=
  watchIds.foldl (fun a w => if skip = some w then a else a.point n src values change w) a

/-- The watch points see a feedback value just written into a node's record, at step 3 of R81 (R130). -/
def State.feedbackSeen (s : State) (n : NodeId) (src : OccurrenceSource) : State :=
  let fb := (s.drive n).feedback
  (Watched.points ⟨s, []⟩ n src
    [(.actualSpeed, fb.calibratedSpeed), (.load, fb.signedLoad), (.status, fb.status.toNat)] .now none).state

end Sys2Proof.Machine
end

