-- ==== Sys2Proof/Machine/Calibration.lean ====
section
/-! DEFINITION. The Tie Calibration Engine (sections 5.5 and 5.6): its work at a dispatch (R88, R89), sampling (R90), skips (R91),
the computation (R92) and the writing of the result (R93). -/

namespace Sys2Proof.Machine

/-- Change the engine's record. -/
def State.modEngine (s : State) (f : Engine → Engine) : State := { s with engine := f s.engine }

/-- The sets sampled per point: 2^k (R90). -/
def State.samplesPerPoint (s : State) (i : SecId) : Nat := 2 ^ (s.sec i).cfg.sampleExponent

/-- Direction × raw speed of the follower at position j + 1; 0 where there is none (R90). -/
def State.followerSample (s : State) (i : SecId) (j : Nat) : Int :=
  match (s.members i)[j + 1]? with
  | some r => (s.memberDirection r).apply (s.memberFeedback r).rawSpeed
  | none => 0

/-- The lead's calibrated speed (R90). -/
def State.leadSample (s : State) (i : SecId) : Int :=
  match s.members i with
  | r :: _ => (s.memberFeedback r).calibratedSpeed
  | [] => 0

/-- The follower sums with this set's values added (R90). -/
def State.addFollowers (s : State) (i : SecId) (sums : Vector Int 3) : Vector Int 3 :=
  #v[sums[0] + s.followerSample i 0, sums[1] + s.followerSample i 1, sums[2] + s.followerSample i 2]

/-- Follower calibration values to write: the node, its G and its F (R92). -/
structure CalValues where
  node : NodeId
  gain : Int
  offset : Int
  deriving DecidableEq, Repr

/-- The calibration of one follower from the averages: its failure, or its G and F (R92). -/
def followerCal (node : NodeId) (pos : Option Pos) (xl xh yl yh : Int) : Except CalResult CalValues :=
  if xh - xl < 1000 then .error (.spread node pos (xh - xl))
  else
    let g := roundDiv (16384 * (yh - yl)) (xh - xl)
    if g < 12288 ∨ 20480 < g then .error (.range node pos g)
    else
      let f := xl - roundDiv (yl * 16384) g
      if f < -100000 ∨ 100000 < f then .error (.range node pos g) else .ok ⟨node, g, f⟩

/-- The followers in position order, stopping at the first failure (R92). `j` counts the followers before these. -/
def State.followersCal (s : State) (n yl yh : Int) : List RecId → Nat → Except CalResult (List CalValues)
  | [], _ => .ok []
  | r :: rs, j =>
    let xl := roundDiv (s.engine.followerLow.toList.getD j 0) n
    let xh := roundDiv (s.engine.followerHigh.toList.getD j 0) n
    match followerCal (s.memberNode r) (s.member r).position xl xh yl yh with
    | .error e => .error e
    | .ok v => match s.followersCal n yl yh rs (j + 1) with
      | .error e => .error e
      | .ok vs => .ok (v :: vs)

/-- COMPUTE: the averages, the lead's spread, then the followers (R92). -/
def State.computeCal (s : State) (i : SecId) : Except CalResult (List CalValues) :=
  let n : Int := s.samplesPerPoint i
  let yl := roundDiv s.engine.leadLow n
  let yh := roundDiv s.engine.leadHigh n
  match s.members i with
  | [] => .ok []
  | lead :: followers =>
    if yh - yl < 1000 then .error (.spread (s.memberNode lead) (s.member lead).position (yh - yl))
    else s.followersCal n yl yh followers 0

/-- Write the followers' G and F into their Drive Map entries (R93). -/
def State.writeCal (s : State) (vs : List CalValues) : State :=
  vs.foldl (fun t v => t.modDrive v.node fun d => { d with gain := v.gain, offset := v.offset }) s

/-- The COMPUTE step: write all or nothing, then RELEASING with target SELECTED and cause CAL_DONE (R93, R94). -/
def State.finishCal (s : State) (i : SecId) : State :=
  match s.computeCal i with
  | .ok vs => (s.writeCal vs).enterReleasing i .selected .calDone (.ok vs.length) none none
  | .error e => s.enterReleasing i .selected .calDone e none none

/-- The engine takes a set evaluated as complete of its holder section i (R90). -/
def State.sampleSet (s : State) (i : SecId) : State :=
  match s.engine.phase with
  | some .sampleLow =>
    let s := s.modEngine fun e => { e with
      leadLow := e.leadLow + s.leadSample i
      followerLow := s.addFollowers i e.followerLow
      sampleCount := e.sampleCount + 1 }
    if s.samplesPerPoint i ≤ s.engine.sampleCount then
      s.modEngine fun e => { e with phase := some .settleHigh, settleCount := 0 }
    else s
  | some .sampleHigh =>
    let s := s.modEngine fun e => { e with
      leadHigh := e.leadHigh + s.leadSample i
      followerHigh := s.addFollowers i e.followerHigh
      sampleCount := e.sampleCount + 1 }
    if s.samplesPerPoint i ≤ s.engine.sampleCount then (s.modEngine fun e => { e with phase := some .compute }).finishCal i
    else s
  | some .settleLow => s
  | some .settleHigh => s
  | some .compute => s
  | none => s

/-- The engine is handed a set of section i: it takes a complete set where the section holds it (R82, R90). -/
def State.engineTakes (s : State) (i : SecId) (complete : Bool) : State :=
  if s.engine.holder = some i ∧ complete then s.sampleSet i else s

/-- The engine is in a sample phase. -/
def Engine.sampling (e : Engine) : Bool := e.phase = some .sampleLow || e.phase = some .sampleHigh

/-- A set of section i closed incomplete is counted as skipped; more than 2^k skips abandon the calibration (R91). -/
def State.engineSkip (s : State) (i : SecId) : State :=
  if s.engine.holder = some i ∧ (s.sec i).state = .calibrating ∧ s.engine.sampling then
    let s := s.modEngine fun e => { e with skipCount := e.skipCount + 1 }
    if s.samplesPerPoint i < s.engine.skipCount then s.enterReleasing i .selected .calDone (.abandoned .feedback) none none else s
  else s

/-- The settle count of a dispatch (R89). -/
def Engine.settle (e : Engine) (settleCycles : Nat) : Engine :=
  match e.phase with
  | some .settleLow =>
    if e.settleCount < settleCycles then { e with settleCount := e.settleCount + 1 }
    else { e with phase := some .sampleLow, sampleCount := 0, skipCount := 0 }
  | some .settleHigh =>
    if e.settleCount < settleCycles then { e with settleCount := e.settleCount + 1 }
    else { e with phase := some .sampleHigh, sampleCount := 0, skipCount := 0 }
  | some .sampleLow => e
  | some .sampleHigh => e
  | some .compute => e
  | none => e

/-- The engine's work at a dispatch, after B has been taken or held: the crawl limit, then the settle count (R88, R89). -/
def State.engineDispatch (s : State) : State :=
  match s.engine.holder with
  | none => s
  | some i =>
    if (s.sec i).state = .calibrating then
      if (s.sec i).cfg.crawlLimit < (s.sec i).lineReference.natAbs then
        s.enterReleasing i .selected .calDone (.abandoned .lineSpeed) none none
      else s.modEngine fun e => e.settle (s.sec i).cfg.settleCycles
    else s

/-- The set point of the engine's phase (R60). -/
def State.setPoint (s : State) (i : SecId) : Int :=
  match s.engine.phase with
  | some .settleHigh => (s.sec i).cfg.calHigh
  | some .sampleHigh => (s.sec i).cfg.calHigh
  | some .compute => (s.sec i).cfg.calHigh
  | some .settleLow => (s.sec i).cfg.calLow
  | some .sampleLow => (s.sec i).cfg.calLow
  | none => (s.sec i).cfg.calLow

end Sys2Proof.Machine
end

