-- ==== Sys2Proof/Machine/Intake.lean ====
section
/-! DEFINITION. The Feedback Intake (sections 5.1 to 5.4): the feedback record (R79, R80), the work that follows a value (R81), set
completion (R82) and the close of the sets at a dispatch (R83). -/

namespace Sys2Proof.Machine

/-- The calibrated speed: ((direction × raw) - F) × G / 16,384, rounded, saturated to ±8,388,607 (R80). -/
def DriveEntry.calibrate (d : DriveEntry) (raw : Int) : Int :=
  saturate 8388607 (roundDiv ((d.direction.apply raw - d.offset) * d.gain) 16384)

/-- The signed load: direction × raw load, saturated to 16 bits (R80). -/
def DriveEntry.signLoad (d : DriveEntry) (raw : Int) : Int := clampTo (-32768) 32767 (d.direction.apply raw)

/-- A Drive Map entry with a feedback value written (R80): the missing count is not written. -/
def DriveEntry.take (d : DriveEntry) (raw load : Int) (status : BitVec 5) (cycle : Word16) (src : FeedbackSource) : DriveEntry :=
  { d with feedback := {
      rawSpeed := raw
      rawLoad := load
      status := status
      calibratedSpeed := d.calibrate raw
      signedLoad := d.signLoad load
      cycle := cycle
      source := some src
      fresh := true
      missing := d.feedback.missing
      ever := true } }

/-- Every member of section i is fresh (R82). -/
def State.allFresh (s : State) (i : SecId) : Bool := (s.members i).all fun r => (s.memberFeedback r).fresh

/-- The node of the first member in position order that is not fresh (R78). -/
def State.firstStale (s : State) (i : SecId) : Option NodeId :=
  ((s.members i).find? fun r => !(s.memberFeedback r).fresh).map s.memberNode

/-- Evaluate the set of section i for a cycle: set the evaluated flag, record the last evaluated set, and hand the set to the
Share Balancer, the Section Monitor and the engine in turn, each taking it against the state it finds (R82, R83). A set that a
membership change lets become complete, with SELECT taken before it is evaluated, is handed on by the state found, like any other;
R84 says that no such set reaches these blocks: DESIGN CHOICE, log entry 33. -/
def State.evaluateSet (s : State) (i : SecId) (setCycle : Word16) (complete : Bool) : State :=
  let s := s.modSec i fun x => { x with
    evaluated := true
    lastSet := some ⟨setCycle, complete, if complete then none else s.firstStale i⟩ }
  if (s.sec i).state.monitored then ((s.balance i complete).monitorSet i setCycle).engineTakes i complete else s

/-- The completion rule at a member's feedback value (R82). -/
def State.completeSet (s : State) (i : SecId) : State :=
  if (s.sec i).evaluated then s else if s.allFresh i then s.evaluateSet i s.cycle true else s

/-- What follows a feedback value written for node n: drive fault, set completion, watch points (R81). -/
def State.afterFeedback (s : State) (n : NodeId) (src : OccurrenceSource) : State :=
  let s := match (s.drive n).inSection with
    | none => s
    | some i =>
      let s := if statusFault (s.drive n).feedback.status then s.faultCondition i .driveFault (some n) (s.positionOf n) else s
      s.completeSet i
  s.feedbackSeen n src

/-- Take a feedback value for node n: write its record and do the work that follows (R80, R81, R86). -/
def State.takeFeedback (s : State) (n : NodeId) (raw load : Int) (status : BitVec 5) (src : FeedbackSource) : State :=
  let s := s.modDrive n fun d => d.take raw load status s.cycle src
  s.afterFeedback n (match src with | .link => .drive | .injected => .injected)

/-- The node whose record a return frame updates, if the Feedback Intake uses the frame (R79). -/
def State.usedNode (s : State) (f : ReturnFrame) : Option NodeId :=
  if s.cycleOpen ∧ f.cycle = s.cycle then
    match nodeOf f.node.toNat with
    | some n => if n = s.station then none else some n
    | none => none
  else none

/-! ## The close of the sets at a dispatch (R83) -/

/-- A missing count raised by one; a count at 15 stays at 15 (R83). -/
def raiseCount (n : Nat) : Nat := if 15 ≤ n then 15 else n + 1

/-- The missing count of a member at the close: 0 if it is fresh, else raised (R83). -/
def Feedback.closed (fb : Feedback) : Feedback := { fb with missing := if fb.fresh then 0 else raiseCount fb.missing }

/-- Step 2 of the close: the missing counts of the members of section i (R83). -/
def State.countMissing (s : State) (i : SecId) : State :=
  (s.members i).foldl (fun t r => t.modDrive (t.memberNode r) fun d => { d with feedback := d.feedback.closed }) s

/-- The first member in position order whose count was raised at this close and is at or above the miss limit (R42, R83). A count
that stands at 15 and is raised again counts as raised: DEDUCED, log entry 8. -/
def State.lostMember (s : State) (i : SecId) : Option RecId :=
  (s.members i).find? fun r => !(s.memberFeedback r).fresh && (s.sec i).cfg.missLimit ≤ (s.memberFeedback r).missing

/-- The close of section i's set of the cycle that the dispatch ends: evaluation, missing counts, miss-limit fault, engine skip
(R83). -/
def State.closeSet (setCycle : Word16) (s : State) (i : SecId) : State :=
  if (s.members i).isEmpty then s
  else
    let complete := s.allFresh i
    let evaluatedNow := !(s.sec i).evaluated
    let s := if evaluatedNow then s.evaluateSet i setCycle complete else s
    let s := s.countMissing i
    let s := match s.lostMember i with
      | some r => s.faultCondition i .feedbackLost (s.member r).node (s.member r).position
      | none => s
    if evaluatedNow && !complete then s.engineSkip i else s

/-- Clear the fresh flag of every node and every evaluated flag: the set of the new cycle is open (R83). -/
def State.openSets (s : State) : State :=
  { s with
    drives := s.drives.map fun d => { d with feedback := { d.feedback with fresh := false } }
    sections := s.sections.map fun x => { x with evaluated := false } }

/-- Step 2 of the dispatch order: close the sets of the cycle that ends, if one was open, and open the new ones (R83, R84). -/
def State.closeSets (s : State) (previous : Option Word16) : State :=
  match previous with
  | none => { s with cycleOpen := true }
  | some c => (s.forSections (State.closeSet c)).openSets

end Sys2Proof.Machine
end

