-- ==== Sys2Proof/Machine/Profiles.lean ====
section
/-! DEFINITION. The Profile Generator (chapter 6): offsets of a segment (R104, R105), the gate (R103), the advance (R102), segment
ends and the end action (R106 to R110). -/

namespace Sys2Proof.Machine

/-- Change the profile position of section i. -/
def State.modProfile (s : State) (i : SecId) (f : ProfilePosition → ProfilePosition) : State :=
  s.modSec i fun x => { x with profile := f x.profile }

/-- The profile position that START sets (R101). -/
def ProfilePosition.atStart (length : Nat) : ProfilePosition :=
  { ProfilePosition.powerOn with finished := length = 0 }

/-- P at cycle k of a segment, before the clamp of R105 (R104). -/
def Segment.rawOffset (g : Segment) (ps : Int) (k : Nat) : Int :=
  match g.kind with
  | .none => ps
  | .hold => g.level
  | .ramp => roundDiv (ps * g.length + (g.level - ps) * k) g.length
  | .step => g.level
  | .square => if k ≤ (g.length + 1) / 2 then ps + g.level else ps - g.level

/-- P at cycle k of a segment: clamped to ±200,000 (R104, R105). -/
def Segment.offsetAt (g : Segment) (ps : Int) (k : Nat) : Int := saturate 200000 (g.rawOffset ps k)

/-- P as the end of a segment leaves it: Ps after STEP and SQUARE, unchanged after HOLD and RAMP (R106 step 1). -/
def Segment.returned (g : Segment) (p : ProfilePosition) : Int :=
  match g.kind with
  | .step => p.startOffset
  | .square => p.startOffset
  | .hold => p.offset
  | .ramp => p.offset
  | .none => p.offset

/-- The segment that section i's profile stands in (R99). -/
def State.currentSegment (s : State) (i : SecId) : Segment :=
  s.segment ((s.sec i).cfg.profileStart + (s.sec i).profile.segmentIndex)

/-- The gate of section i: every member's last status includes RUNNING and excludes AT_LIMIT (R103). -/
def State.gateOpen (s : State) (i : SecId) : Bool :=
  (s.members i).all fun r => statusRunning (s.memberFeedback r).status && !statusAtLimit (s.memberFeedback r).status

/-- What a dispatch's profile work does: the new state, and the requests to be taken after the references (R102). -/
structure Advanced where
  state : State
  late : List LateRequest

/-- The segment boundary of section i: the zero-cross count and fired flag become 0 and the SEGMENT_BOUNDARY trigger is signalled
(R106 step 2, R124, R147). -/
def State.signalBoundary (s : State) (i : SecId) : State :=
  (s.modMonitor i fun m => { m with zeroCross := 0, fired := false }).signal .segmentBoundary i.val

/-- The STEP_DONE freeze request of a step run (R110). -/
def stepDoneRequest (i : SecId) (stepPending : Bool) : List LateRequest :=
  if stepPending then [.freeze i .stepDone none none none] else []

/-- Move to segment `idx` of pass `pass` with Ps = p (R106 step 4): begin it at cycle 1, or stop at count 0 where a step run ends
(R110). -/
def State.nextSegment (s : State) (i : SecId) (idx pass : Nat) (p : Int) : Advanced :=
  let stepPending := (s.sec i).profile.stepPending
  let g := s.segment ((s.sec i).cfg.profileStart + idx)
  let s := s.modProfile i fun q => { q with
    segmentIndex := idx
    pass := pass
    startOffset := p
    cycleCount := if stepPending then 0 else 1
    offset := if stepPending then p else g.offsetAt p 1 }
  ⟨s, stepDoneRequest i stepPending⟩

/-- Post PROFILE_END with P and the end action (R109). For RELOAD the P is the one the profile ended at: DEDUCED, log entry 9. -/
def State.postProfileEnd (s : State) (i : SecId) (p : Int) (a : EndAction) : State :=
  s.post .profileEnd (some i) none none s.cycle (some p) a.code

/-- The end of the last segment of the last pass (R108). -/
def State.endProfile (s : State) (i : SecId) (p : Int) : Advanced :=
  let stepPending := (s.sec i).profile.stepPending
  match (s.sec i).cfg.endAction with
  | .hold =>
    let s := s.modProfile i fun q => { q with finished := true, offset := p }
    ⟨s.postProfileEnd i p .hold, stepDoneRequest i stepPending⟩
  | .reload => (s.postProfileEnd i p .reload).nextSegment i 0 0 p
  | .release =>
    let s := s.modProfile i fun q => { q with finished := true, offset := p }
    ⟨s.postProfileEnd i p .release, [.release i .profileEnd]⟩

/-- A segment of section i ends at this dispatch (R106, R107). -/
def State.endSegment (s : State) (i : SecId) : Advanced :=
  let q := (s.sec i).profile
  let p := (s.currentSegment i).returned q
  let s := s.signalBoundary i
  if q.segmentIndex + 1 < (s.sec i).cfg.profileLength then s.nextSegment i (q.segmentIndex + 1) q.pass p
  else if q.pass < (s.sec i).cfg.repeatCount then s.nextSegment i 0 (q.pass + 1) p
  else s.endProfile i p

/-- A dispatch that finds the gate closed (R103). -/
def State.gateClosed (s : State) (i : SecId) : Advanced :=
  let count := min 65535 ((s.sec i).profile.gateClosed + 1)
  let limit := (s.sec i).cfg.gateHoldLimit
  ⟨s.modProfile i fun q => { q with gateClosed := count },
    if limit ≠ 0 ∧ limit ≤ count then [.freeze i .gate none none none] else []⟩

/-- A dispatch that finds the gate open: one cycle on, or the end of the segment (R102). -/
def State.gatedAdvance (s : State) (i : SecId) : Advanced :=
  let s := s.modProfile i fun q => { q with gateClosed := 0 }
  let g := s.currentSegment i
  let k := (s.sec i).profile.cycleCount
  if k < g.length then
    ⟨s.modProfile i fun q => { q with cycleCount := k + 1, offset := g.offsetAt q.startOffset (k + 1) }, []⟩
  else s.endSegment i

/-- The Profile Generator's work for section i at a dispatch (R102). -/
def State.advanceProfile (s : State) (i : SecId) : Advanced :=
  if (s.sec i).state ≠ .trial ∨ (s.sec i).profile.finished then ⟨s, []⟩
  else if s.gateOpen i then s.gatedAdvance i
  else s.gateClosed i

/-- Step 4 of the dispatch order: the sections in turn, with their requests in order (R102). -/
def State.advanceProfiles (s : State) : Advanced :=
  sectionIds.foldl (fun a i => let r := a.state.advanceProfile i; ⟨r.state, a.late ++ r.late⟩) ⟨s, []⟩

end Sys2Proof.Machine
end

