-- ==== Sys2Proof/Machine/References.lean ====
section
/-! DEFINITION. The Reference Unit (chapter 3): the line reference (R50, R51), the issued references of every state (R53 to R61), and
the stop test on ISSUED values (R133, R135). -/

namespace Sys2Proof.Machine

/-! ## The line reference -/

/-- Take B and the held lead command from the lead's first entry (R50). -/
def State.takeLine (s : State) (i : SecId) (lead : RecId) (e : Entry) : State :=
  s.modSec i fun x => { x with
    lineReference := relativeSpeed (s.memberDirection lead) e.speed, leadCommand := e.command, lineMiss := 0 }

/-- Raise the line miss count; at or above the miss limit a monitored section is faulted (R42, R51). -/
def State.missLine (s : State) (i : SecId) (lead : RecId) : State :=
  let s := s.modSec i fun x => { x with lineMiss := raiseCount x.lineMiss }
  if (s.sec i).cfg.missLimit ≤ (s.sec i).lineMiss then
    s.faultCondition i .lineEntryLost (s.member lead).node (s.member lead).position
  else s

/-- Step 3 of the dispatch order for section i (R50, R51). -/
def State.lineStep (entries : List Entry) (s : State) (i : SecId) : State :=
  match s.members i with
  | [] => s
  | lead :: _ =>
    match firstEntry entries (s.memberNode lead) with
    | some e => s.takeLine i lead e
    | none => s.missLine i lead

/-! ## Candidates -/

/-- The value of a member's reference before any clamp, and its clamped value with the mark (R53, R54). -/
structure Candidate where
  record : RecId
  unclamped : Int
  issued : Marked
  deriving DecidableEq, Repr

/-- The draw term: B × D / 1,000,000, rounded (R53). -/
def drawTerm (lineRef draw : Int) : Int := roundDiv (lineRef * draw) 1000000

/-- The TRIAL sum of a member: B + d + P + T (R53). -/
def Section.trialSum (x : Section) (trim : Int) : Int :=
  x.lineReference + drawTerm x.lineReference x.cfg.drawOffset + x.profile.offset + trim

/-- The TRIAL reference of a member: window clamp, then absolute clamp (R53, R54). -/
def State.trialCandidate (s : State) (i : SecId) (r : RecId) : Candidate :=
  let x := s.sec i
  let sum := x.trialSum (s.member r).trim
  ⟨r, sum, absoluteClamp x.cfg.absoluteLimit (windowClamp x.lineReference x.cfg.trimWindow sum)⟩

/-- The reference B + O of a member in FROZEN and RELEASING, with the absolute clamp alone (R58, R59). -/
def State.offsetCandidate (s : State) (i : SecId) (r : RecId) : Candidate :=
  let x := s.sec i
  let v := x.lineReference + (s.member r).held
  ⟨r, v, absoluteClamp x.cfg.absoluteLimit ⟨v, .none⟩⟩

/-- The reference of a member in CALIBRATING: the set point (R60). -/
def State.setPointCandidate (s : State) (i : SecId) (r : RecId) : Candidate :=
  let v := s.setPoint i
  ⟨r, v, absoluteClamp (s.sec i).cfg.absoluteLimit ⟨v, .none⟩⟩

/-! ## Issuing -/

/-- Record a member's issued reference and clamp flag; a flag that leaves NONE posts CLAMP with the value before any clamp (R54,
R55). -/
def State.issue (s : State) (i : SecId) (c : Candidate) : State :=
  let before := s.member c.record
  let s := s.modRec c.record fun r => { r with issued := c.issued.value, clamp := c.issued.mark }
  if before.clamp = .none ∧ c.issued.mark ≠ .none then
    s.post .clamp (some i) before.node before.position s.cycle (some c.unclamped) c.issued.mark.code
  else s

/-- Issue a list of candidates in position order. -/
def State.issueAll (s : State) (i : SecId) (cs : List Candidate) : State := cs.foldl (fun t c => t.issue i c) s

/-- The held offset moved toward 0 by the release rate (R59). -/
def decay (rate o : Int) : Int := if (o.natAbs : Int) ≤ rate then 0 else if 0 < o then o - rate else o + rate

/-- Decay the held offsets of section i (R59). -/
def State.decayOffsets (s : State) (i : SecId) : State :=
  s.modMembers i fun r => { r with held := decay (s.sec i).cfg.releaseRate r.held }

/-- Every held offset of section i is 0 (R47). -/
def State.offsetsZero (s : State) (i : SecId) : Bool := (s.members i).all fun r => (s.member r).held = 0

/-- The references of a passing section: each member with an entry records its line value (R61). -/
def State.recordLine (entries : List Entry) (s : State) (i : SecId) : State :=
  (s.members i).foldl (fun t r =>
    match firstEntry entries (s.memberNode r) with
    | some e => t.modRec r fun x => { x with issued := relativeSpeed (s.memberDirection r) e.speed }
    | none => t) s

/-! ## The stop test on ISSUED values (R133, R135) -/

/-- A STOP_ON_MATCH point of a node on a field with source ISSUED or ANY. -/
def WatchPoint.stopsIssued (p : WatchPoint) (n : NodeId) (f : WatchField) : Bool :=
  p.action = .stopOnMatch && p.node = n && p.field = f && p.source.accepts .issued

/-- A stop of the test: the point, the number of the entry it stopped on, the member and the value that matched. -/
structure IssuedStop where
  point : WatchId
  entry : Nat
  record : RecId
  value : Int
  deriving DecidableEq, Repr

/-- The value that point w matches, if its field is f and it does, when it looks at an entry of a member whose candidate this is:
REFERENCE shows the candidate, COMMAND the drive command (R130, R133, R135). -/
def State.issuedMatch (s : State) (f : WatchField) (c : Candidate) (e : Entry) (w : WatchId) : Option Int :=
  let p := s.watch w
  if p.stopsIssued (s.memberNode c.record) f then
    (presented [(.reference, c.issued.value), (.command, e.command.code)] f).filter fun v => p.mode.holds v p.value
  else none

/-- The first point, 0 to 3, on field f that stops on entry number k of a member's entries (R135). -/
def State.stopAt (s : State) (f : WatchField) (c : Candidate) (x : Entry × Nat) : Option IssuedStop :=
  if nodeOf x.1.node.toNat = some (s.memberNode c.record) then
    watchIds.findSome? fun w => (s.issuedMatch f c x.1 w).map fun v => ⟨w, x.2, c.record, v⟩
  else none

/-- One test over the points on field f: members in position order, their entries in frame order, points 0 to 3; the first true
comparison ends it (R135). -/
def State.stopPass (s : State) (f : WatchField) (entries : List Entry) (cs : List Candidate) : Option IssuedStop :=
  cs.findSome? fun c => entries.zipIdx.findSome? (s.stopAt f c)

/-- The stop of a TRIAL section, if there is one: that of R135's test, over REFERENCE points alone; where that test stops nothing, a
COMMAND match, whose freeze R133 asks for before the entry is written. That COMMAND points are tested then, in the order of R135, is
DESIGN CHOICE, log entry 10. -/
def State.stopTest (s : State) (entries : List Entry) (cs : List Candidate) : Option IssuedStop :=
  (s.stopPass .reference entries cs).or (s.stopPass .command entries cs)

/-! ## One section's references (step 5 of R52) -/

/-- A value to write into every entry of a node (R56). -/
structure Rewrite where
  node : NodeId
  speed : Word24
  deriving DecidableEq, Repr

/-- What forming the references has done so far: the state, the rewrites, and the points that do not see the entry they stopped
on (R135). -/
structure Formed where
  state : State
  rewrites : List Rewrite
  skips : List (WatchId × Nat)

/-- The rewrite of every member of section i: issued reference times direction (R56). -/
def State.rewritesOf (s : State) (i : SecId) : List Rewrite :=
  (s.members i).map fun r => ⟨s.memberNode r, speedField ((s.memberDirection r).apply (s.member r).issued)⟩

/-- The issue base becomes the B of this dispatch (R52 step 6). -/
def State.setIssueBase (s : State) (i : SecId) : State := s.modSec i fun x => { x with issueBase := x.lineReference }

/-- The frozen references of section i: B + O (R58). -/
def State.issueFrozen (s : State) (i : SecId) : State := s.issueAll i ((s.members i).map (s.offsetCandidate i))

/-- The ISSUED stop of a TRIAL section: the hit on the value that matched, then the freeze with offsets of the previous dispatch (R133,
R135). -/
def State.takeIssuedStop (s : State) (i : SecId) (stop : IssuedStop) : State :=
  let n := s.memberNode stop.record
  let s := (s.watchHit stop.point stop.value .issued).modWatch stop.point fun p => p.seen stop.value
  s.requestFreeze i .watch (some stop.point.val) (some n) (s.positionOf n)

/-- The references of a TRIAL section: candidates, the stop test, then either the TRIAL issue, which clears the start-pending
mark, or the FROZEN issue of this frame (R30, R53, R135). -/
def State.formTrial (entries : List Entry) (s : State) (i : SecId) : State × List (WatchId × Nat) :=
  let cs := (s.members i).map (s.trialCandidate i)
  match s.stopTest entries cs with
  | none => ((s.issueAll i cs).modSec i fun x => { x with startPending := false }, [])
  | some stop => ((s.takeIssuedStop i stop).issueFrozen i, [(stop.point, stop.entry)])

/-- RELEASING ends where every held offset is 0 after this dispatch's entries are formed: the section enters its release target
(R47). A target that is absent, which no run reaches, is taken as SELECTED. -/
def State.endRelease (s : State) (i : SecId) : State :=
  if s.offsetsZero i then
    s.enterPassing i ((s.sec i).releaseTarget.getD .selected).state .releaseDone none none
  else s

/-- Steps 5 and 6 for section i by the formula of the state it is found in (R62). RELEASE_DONE is taken after the section's own
entries are formed: DESIGN CHOICE, log entry 7. -/
def Formed.takeSection (entries : List Entry) (a : Formed) (i : SecId) : Formed :=
  let s := a.state
  match (s.sec i).state with
  | .trial =>
    let t := s.formTrial entries i
    let s := t.1.setIssueBase i
    ⟨s, a.rewrites ++ s.rewritesOf i, a.skips ++ t.2⟩
  | .frozen =>
    let s := (s.issueFrozen i).setIssueBase i
    ⟨s, a.rewrites ++ s.rewritesOf i, a.skips⟩
  | .releasing =>
    let s := ((s.decayOffsets i).issueFrozen i).setIssueBase i
    ⟨s.endRelease i, a.rewrites ++ s.rewritesOf i, a.skips⟩
  | .calibrating =>
    let s := (s.issueAll i ((s.members i).map (s.setPointCandidate i))).setIssueBase i
    ⟨s, a.rewrites ++ s.rewritesOf i, a.skips⟩
  | .bypass => ⟨(s.recordLine entries i).setIssueBase i, a.rewrites, a.skips⟩
  | .selected => ⟨(s.recordLine entries i).setIssueBase i, a.rewrites, a.skips⟩
  | .faulted => ⟨(s.recordLine entries i).setIssueBase i, a.rewrites, a.skips⟩

/-- Form the references of every section, from section 0 to section 15 (R52, R55). -/
def State.formReferences (s : State) (entries : List Entry) : Formed :=
  sectionIds.foldl (Formed.takeSection entries) ⟨s, [], []⟩

/-- An entry with the rewrite of its node, if there is one: node and command stay as sent (R56, R154). -/
def Entry.rewrite (ws : List Rewrite) (e : Entry) : Entry :=
  match ws.find? fun w => nodeOf e.node.toNat = some w.node with
  | some w => { e with speed := w.speed }
  | none => e

end Sys2Proof.Machine
end

