-- ==== Sys2Proof/Machine/DispatchWork.lean ====
section
/-! DEFINITION. The work of one accepted dispatch, in the order of R52 and R153: line override (R40), LINE occurrences (R130, R134),
the close of the sets (R83), the line references (R50), the engine (R88), the profiles (R102), the references (R53 to R61), ISSUED
occurrences (R130), late requests (R102, R132), forwarding (R154), the sweep (R144) and the station frame (R157). -/

namespace Sys2Proof.Machine

/-! ## Step 1: line override (R40) -/

/-- The drive commands that hand a section back. -/
def overriding : DriveCommand → Bool
  | .quickStop => true | .coast => true
  | .idle => false | .run => false | .crawl => false | .stop => false

/-- The first overriding entry of the frame for a member of section i: the member's record. -/
def State.overrider (s : State) (i : SecId) (entries : List Entry) : Option RecId :=
  (entries.find? fun e => overriding e.command && (s.members i).any fun r => nodeOf e.node.toNat = (s.member r).node).bind
    fun e => (s.members i).find? fun r => nodeOf e.node.toNat = (s.member r).node

/-- The line-override check of section i (R40). -/
def State.overrideStep (entries : List Entry) (s : State) (i : SecId) : State :=
  if (s.sec i).state.rewriting then
    match s.overrider i entries with
    | some r => s.enterPassing i .bypass .lineOverride (s.member r).node (s.member r).position
    | none => s
  else s

/-! ## LINE and ISSUED occurrences (R130) -/

/-- The LINE occurrences of one entry (R130). -/
def Watched.lineEntry (a : Watched) (e : Entry) : Watched :=
  match nodeOf e.node.toNat with
  | none => a
  | some n => a.points n .line
      [(.reference, watchedSpeed (a.state.drive n).direction e.speed), (.command, e.command.code)] .late none

/-- The REFERENCE value of an ISSUED occurrence: a member's recorded reference; for a node in no section the speed field as
forwarded, section-relative (R130). -/
def State.issuedValue (s : State) (n : NodeId) (forwarded : Entry) : Int :=
  match s.recordOf n with
  | some r => (s.member r).issued
  | none => (s.drive n).direction.apply forwarded.speed.toInt

/-- The ISSUED occurrences of entry number k, as forwarded (R130, R135). -/
def Watched.issuedEntry (skips : List (WatchId × Nat)) (a : Watched) (p : Entry × Nat) : Watched :=
  match nodeOf p.1.node.toNat with
  | none => a
  | some n => a.points n .issued
      [(.reference, a.state.issuedValue n p.1), (.command, p.1.command.code)] .late
      ((skips.find? fun x => x.2 = p.2).map (·.1))

/-! ## After the references (R102, R132) -/

/-- The late requests in the order they are taken: the Profile Generator's and the watch points' both come after the references and
the spec gives no order between them, so where both have one a free value decides (log entry 6). -/
def State.orderLate (s : State) (profile watch : List LateRequest) : State × List LateRequest :=
  if profile.isEmpty then (s, watch)
  else if watch.isEmpty then (s, profile)
  else ({ s with freeDraws := s.freeDraws + 1 },
    if Config.profileRequestsFirst s.freeDraws then profile ++ watch else watch ++ profile)

/-- Take the late requests of a dispatch. -/
def State.takeLates (s : State) (profile watch : List LateRequest) : State :=
  let o := s.orderLate profile watch
  o.2.foldl State.takeLate o.1

/-! ## The dispatch -/

/-- The cycle number and the line timer at an accepted dispatch (R153, R158). -/
def State.startCycle (s : State) (cycle : Word16) : State :=
  { s with cycle := cycle, timer := .running, timerPeriod := s.timeout }

/-- The cycle number of the cycle that a dispatch ends, if one is open (R83, R143). -/
def State.previousCycle (s : State) : Option Word16 := if s.cycleOpen then some s.cycle else none

/-- Step 1 and the LINE occurrences. -/
def State.lineArrival (s : State) (entries : List Entry) : Watched :=
  entries.foldl Watched.lineEntry ⟨s.forSections (State.overrideStep entries), []⟩

/-- Steps 2 and 3 and the engine's work. -/
def State.cycleWork (s : State) (previous : Option Word16) (entries : List Entry) : State :=
  ((s.closeSets previous).forSections (State.lineStep entries)).engineDispatch

/-- The whole work of an accepted dispatch (R52, R153). The ISSUED occurrences (R130) and the Profile Generator's requests (R102) both come
after the references of every section, and the spec gives no order between them; the occurrences are taken first: DESIGN CHOICE, log
entry 32. -/
def State.dispatchWork (s : State) (f : DispatchFrame) : State :=
  let previous := s.previousCycle
  let line := (s.startCycle f.cycle).lineArrival f.entries
  let profiles := (line.state.cycleWork previous f.entries).advanceProfiles
  let formed := profiles.state.formReferences f.entries
  let forwarded := f.entries.map (Entry.rewrite formed.rewrites)
  let issued := forwarded.zipIdx.foldl (Watched.issuedEntry formed.skips) ⟨formed.state, []⟩
  let s := issued.state.takeLates profiles.late (line.late ++ issued.late)
  let s := s.forwardDown (.dispatch { f with entries := forwarded })
  let s := s.takeSweep ⟨f.entries, forwarded, previous⟩
  s.placeStationFrame

end Sys2Proof.Machine
end

