-- ==== Sys2Proof/Machine/Tables.lean ====
section
/-! DEFINITION. The ten service tables (R163): the value of every field, the effect of a write to every field by the rule that owns it,
and runs through a table (R164, R165). -/

namespace Sys2Proof.Machine

/-- The entries of a table (R163); 0 for a number that is no table. -/
def tableEntries : Nat → Nat
  | 1 => 16 | 2 => 48 | 3 => 62 | 4 => 128 | 5 => 16 | 6 => 4 | 7 => 8 | 8 => 1 | 9 => 1024 | 10 => 1
  | _ => 0

/-- The fields per entry of a table (R163). -/
def tableFields : Nat → Nat
  | 1 => 42 | 2 => 10 | 3 => 15 | 4 => 3 | 5 => 21 | 6 => 12 | 7 => 4 | 8 => 12 | 9 => 4 | 10 => 5
  | _ => 0

/-! ## Reading -/

/-- The node number of an optional node; -1 when absent (R4). -/
def optNode (n : Option NodeId) : Int := optNat (n.map nodeNumber)

/-- The index of an optional number below n; -1 when absent (R4). -/
def optFin {n : Nat} (x : Option (Fin n)) : Int := optNat (x.map Fin.val)

/-- Section Table (R4, R7, R100). -/
def State.readSection (s : State) (i : SecId) (f : Nat) : Int :=
  let x := s.sec i
  let node (k : Nat) : Int := optNode (((s.members i)[k]?).bind fun r => (s.member r).node)
  match f with
  | 0 => x.state.code
  | 1 => (s.members i).length
  | 2 => node 0
  | 3 => node 1
  | 4 => node 2
  | 5 => node 3
  | 6 => x.cfg.drawOffset
  | 7 => x.cfg.trimWindow
  | 8 => x.cfg.absoluteLimit
  | 9 => x.cfg.shareGain
  | 10 => x.cfg.trimLimit
  | 11 => x.cfg.profileStart
  | 12 => x.cfg.profileLength
  | 13 => x.cfg.repeatCount
  | 14 => x.cfg.endAction.code
  | 15 => x.cfg.gateHoldLimit
  | 16 => x.cfg.releaseRate
  | 17 => x.cfg.missLimit
  | 18 => x.cfg.crawlLimit
  | 19 => x.cfg.calLow
  | 20 => x.cfg.calHigh
  | 21 => x.cfg.settleCycles
  | 22 => x.cfg.sampleExponent
  | 23 => x.lineReference
  | 24 => x.lineMiss
  | 25 => optNat (x.faultCode.map Cause.code)
  | 26 => optNat (x.releaseTarget.map fun t => t.state.code)
  | 27 => optNat (x.freeze.cause.map Cause.code)
  | 28 => optNat x.freeze.sourceIndex
  | 29 => x.freeze.cycle.toNat
  | 30 => x.freeze.segmentIndex
  | 31 => x.freeze.cycleCount
  | 32 => x.freeze.pass
  | 33 => x.freeze.offset
  | 34 => x.profile.segmentIndex
  | 35 => x.profile.cycleCount
  | 36 => x.profile.pass
  | 37 => x.profile.offset
  | 38 => x.profile.startOffset
  | 39 => flagCode x.profile.finished
  | 40 => flagCode x.profile.stepPending
  | 41 => x.profile.gateClosed
  | _ => 0

/-- Member Pool (R10). -/
def PoolRecord.read (r : PoolRecord) (f : Nat) : Int :=
  match f with
  | 0 => flagCode r.inUse
  | 1 => optFin r.inSection
  | 2 => optNode r.node
  | 3 => optFin r.position
  | 4 => r.weight
  | 5 => r.trim
  | 6 => r.imbalance
  | 7 => r.issued
  | 8 => r.held
  | 9 => r.clamp.code
  | _ => 0

/-- Drive Map (R17). -/
def DriveEntry.read (d : DriveEntry) (n : NodeId) (f : Nat) : Int :=
  match f with
  | 0 => nodeNumber n
  | 1 => d.direction.sign
  | 2 => d.gain
  | 3 => d.offset
  | 4 => optFin d.inSection
  | 5 => d.feedback.rawSpeed
  | 6 => d.feedback.rawLoad
  | 7 => d.feedback.status.toNat
  | 8 => d.feedback.calibratedSpeed
  | 9 => d.feedback.signedLoad
  | 10 => d.feedback.cycle.toNat
  | 11 => optNat (d.feedback.source.map FeedbackSource.code)
  | 12 => flagCode d.feedback.fresh
  | 13 => d.feedback.missing
  | 14 => flagCode d.feedback.ever
  | _ => 0

/-- Segment Table (R97). -/
def Segment.read (g : Segment) (f : Nat) : Int :=
  match f with
  | 0 => g.length
  | 1 => g.level
  | 2 => g.kind.code
  | _ => 0

/-- Limit Set table (R115). -/
def Monitor.read (m : Monitor) (f : Nat) : Int :=
  match f with
  | 0 => m.speedError.threshold
  | 1 => m.speedError.dwell
  | 2 => m.speedError.action.code
  | 3 => m.imbalance.threshold
  | 4 => m.imbalance.dwell
  | 5 => m.imbalance.action.code
  | 6 => m.loadHigh.threshold
  | 7 => m.loadHigh.dwell
  | 8 => m.loadHigh.action.code
  | 9 => m.band
  | 10 => m.oscillationLimit
  | 11 => m.oscillationAction.code
  | 12 => m.speedError.state.code
  | 13 => m.speedError.counter
  | 14 => m.imbalance.state.code
  | 15 => m.imbalance.counter
  | 16 => m.loadHigh.state.code
  | 17 => m.loadHigh.counter
  | 18 => m.zeroCross
  | 19 => m.sign.code
  | 20 => flagCode m.fired
  | _ => 0

/-- Watch Table (R128). -/
def WatchPoint.read (p : WatchPoint) (f : Nat) : Int :=
  match f with
  | 0 => p.action.code
  | 1 => nodeNumber p.node
  | 2 => p.field.code
  | 3 => p.source.code
  | 4 => p.mode.code
  | 5 => p.value
  | 6 => p.latchValue
  | 7 => p.latchCycle.toNat
  | 8 => optNat (p.latchSource.map OccurrenceSource.code)
  | 9 => p.hitCount
  | 10 => p.lastSeen
  | 11 => flagCode p.lastSeenFlag
  | _ => 0

/-- Capture List (R140). -/
def CaptureItem.read (c : CaptureItem) (f : Nat) : Int :=
  match f with
  | 0 => flagCode c.enable
  | 1 => nodeNumber c.node
  | 2 => c.field.code
  | 3 => c.source.code
  | _ => 0

/-- Capture Control (R141). -/
def CaptureControl.read (c : CaptureControl) (f : Nat) : Int :=
  match f with
  | 0 => c.mode.code
  | 1 => c.sweep.code
  | 2 => c.triggerKind.code
  | 3 => c.triggerIndex
  | 4 => c.runLength
  | 5 => c.postCount
  | 6 => c.state.code
  | 7 => c.recordCount
  | 8 => c.writeIndex
  | 9 => flagCode c.wrapped
  | 10 => c.nextItem
  | 11 => c.remaining
  | _ => 0

/-- Capture Buffer (R142). -/
def CaptureRecord.read (r : CaptureRecord) (f : Nat) : Int :=
  match f with
  | 0 => r.cycle.toNat
  | 1 => optNat r.item
  | 2 => r.value
  | 3 => flagCode r.stale
  | _ => 0

/-- Station Record (R163). -/
def State.readStation (s : State) (f : Nat) : Int :=
  match f with
  | 0 => nodeNumber s.station
  | 1 => flagCode s.permit
  | 2 => s.timeout
  | 3 => Config.revisionCode
  | 4 => s.cycle.toNat
  | _ => 0

/-- The value of a field of a table entry (R163, R164). -/
def State.readField (s : State) (table e f : Nat) : Int :=
  match table with
  | 1 => s.readSection (Fin.ofNat 16 e) f
  | 2 => (s.member (Fin.ofNat 48 e)).read f
  | 3 => (s.drive (Fin.ofNat 62 e)).read (Fin.ofNat 62 e) f
  | 4 => (s.segment e).read f
  | 5 => (s.sec (Fin.ofNat 16 e)).monitor.read f
  | 6 => (s.watch (Fin.ofNat 4 e)).read f
  | 7 => (s.captureList[Fin.ofNat 8 e]).read f
  | 8 => s.capture.read f
  | 9 => (s.logicalRecord e).read f
  | 10 => s.readStation f
  | _ => 0

/-! ## Writing one field -/

/-- What a write of one field does (R165). -/
inductive WriteResult where
  | written (s : State)
  | clamped (s : State)
  | refused (code : ResultCode) (data : List Int)

/-- A write that clamps its value to [lo, hi] (R6). -/
def clampWrite (lo hi v : Int) (store : Int → State) : WriteResult :=
  if v < lo ∨ hi < v then .clamped (store (clampTo lo hi v)) else .written (store v)

/-- A write that refuses a value outside [lo, hi] (R5). -/
def rangeWrite (lo hi v : Int) (store : Int → State) : WriteResult :=
  if v < lo ∨ hi < v then .refused .badValue [] else .written (store v)

/-- A write that refuses a code with no meaning (R5, R116, R129). -/
def codeWrite {α : Type} (x : Option α) (store : α → State) : WriteResult :=
  match x with
  | some a => .written (store a)
  | none => .refused .badValue []

/-- Change the configuration of section i. -/
def State.modCfg (s : State) (i : SecId) (f : SectionConfig → SectionConfig) : State :=
  s.modSec i fun x => { x with cfg := f x.cfg }

/-- A structural write: taken in BYPASS and SELECTED alone (R5). -/
def State.structural (s : State) (i : SecId) (w : WriteResult) : WriteResult :=
  if (s.sec i).state.configurable then w else .refused .sectionActive []

/-- A write of profile start or length: in SELECTED the range that would result is checked as SELECT checks it (R5). -/
def State.profileWrite (s : State) (i : SecId) (lo hi v : Int) (change : Nat → SectionConfig → SectionConfig) : WriteResult :=
  s.structural i <|
    if v < lo ∨ hi < v then .refused .badValue []
    else
      let cfg := change v.toNat (s.sec i).cfg
      if (s.sec i).state = .selected ∧ (s.profileFault cfg.profileStart cfg.profileLength).isSome then .refused .badValue []
      else .written (s.modCfg i (change v.toNat))

/-- A write of Tlim: a lower value clamps the section's share trims at once (R6, R72). -/
def State.writeTrimLimit (s : State) (i : SecId) (v : Int) : State :=
  let old := (s.sec i).cfg.trimLimit
  let s := s.modCfg i fun c => { c with trimLimit := v }
  if v < old then s.modMembers i fun r => { r with trim := saturate v r.trim } else s

/-- A write to a Section Table field (R4 to R7). -/
def State.writeSection (s : State) (i : SecId) (f : Nat) (v : Int) : WriteResult :=
  match f with
  | 6 => clampWrite (-50000) 50000 v fun x => s.modCfg i fun c => { c with drawOffset := x }
  | 7 => clampWrite 0 100000 v fun x => s.modCfg i fun c => { c with trimWindow := x }
  | 8 => s.structural i <| rangeWrite 10000 2000000 v fun x => s.modCfg i fun c => { c with absoluteLimit := x }
  | 9 => clampWrite 0 255 v fun x => s.modCfg i fun c => { c with shareGain := x }
  | 10 => clampWrite 0 20000 v fun x => s.writeTrimLimit i x
  | 11 => s.profileWrite i 0 127 v fun x c => { c with profileStart := x }
  | 12 => s.profileWrite i 0 32 v fun x c => { c with profileLength := x }
  | 13 => s.structural i <| rangeWrite 0 255 v fun x => s.modCfg i fun c => { c with repeatCount := x.toNat }
  | 14 => s.structural i <| codeWrite (EndAction.ofCode v) fun a => s.modCfg i fun c => { c with endAction := a }
  | 15 => s.structural i <| rangeWrite 0 1000 v fun x => s.modCfg i fun c => { c with gateHoldLimit := x.toNat }
  | 16 => clampWrite 10 10000 v fun x => s.modCfg i fun c => { c with releaseRate := x }
  | 17 => clampWrite 1 15 v fun x => s.modCfg i fun c => { c with missLimit := x.toNat }
  | 18 => s.structural i <| rangeWrite 0 300000 v fun x => s.modCfg i fun c => { c with crawlLimit := x }
  | 19 => s.structural i <| rangeWrite 0 300000 v fun x => s.modCfg i fun c => { c with calLow := x }
  | 20 => s.structural i <| rangeWrite 0 300000 v fun x => s.modCfg i fun c => { c with calHigh := x }
  | 21 => s.structural i <| rangeWrite 1 1000 v fun x => s.modCfg i fun c => { c with settleCycles := x.toNat }
  | 22 => s.structural i <| rangeWrite 2 8 v fun x => s.modCfg i fun c => { c with sampleExponent := x.toNat }
  | _ => .refused .badAddress []

/-- A write to a Member Pool field: the weight of a record in use (R10, R11). -/
def State.writePool (s : State) (r : RecId) (f : Nat) (v : Int) : WriteResult :=
  match f with
  | 4 =>
    if (s.member r).inUse then clampWrite 1 255 v fun x => s.modRec r fun p => { p with weight := x.toNat }
    else .refused .badValue []
  | _ => .refused .badAddress []

/-- A write to a Drive Map field, with the four checks of R18. -/
def State.writeDrive (s : State) (n : NodeId) (f : Nat) (v : Int) : WriteResult :=
  if n = s.station then .refused .badAddress []
  else if f < 1 ∨ 3 < f then .refused .badAddress []
  else if (match (s.drive n).inSection with | none => false | some i => !(s.sec i).state.configurable) then
    .refused .sectionActive []
  else
    match f with
    | 1 => codeWrite (Direction.ofCode v) fun d => s.modDrive n fun e => { e with direction := d }
    | 2 => rangeWrite 12288 20480 v fun x => s.modDrive n fun e => { e with gain := x }
    | _ => rangeWrite (-100000) 100000 v fun x => s.modDrive n fun e => { e with offset := x }

/-- Change segment record k. -/
def State.modSegment (s : State) (k : Fin 128) (f : Segment → Segment) : State :=
  { s with segments := s.segments.set k (f s.segments[k]) }

/-- Record k lies in the profile range of a section in TRIAL or FROZEN (R98). -/
def State.segmentInUse (s : State) (k : Nat) : Bool :=
  sectionIds.any fun i =>
    ((s.sec i).state = .trial || (s.sec i).state = .frozen) &&
      decide ((s.sec i).cfg.profileStart ≤ k) && decide (k < (s.sec i).cfg.profileStart + (s.sec i).cfg.profileLength)

/-- A write to a Segment Table field (R98). -/
def State.writeSegment (s : State) (k : Fin 128) (f : Nat) (v : Int) : WriteResult :=
  if s.segmentInUse k.val then .refused .inUse []
  else
    match f with
    | 0 =>
      if v < 1 ∨ 65535 < v ∨ ((s.segments[k]).kind = .square ∧ v < 2) then .refused .badValue []
      else .written (s.modSegment k fun g => { g with length := v.toNat })
    | 1 => clampWrite (-200000) 200000 v fun x => s.modSegment k fun g => { g with level := x }
    | 2 =>
      match SegmentKind.ofCode v with
      | some kind =>
        if kind = .square ∧ (s.segments[k]).length < 2 then .refused .badValue []
        else .written (s.modSegment k fun g => { g with kind := kind })
      | none => .refused .badValue []
    | _ => .refused .badAddress []

/-- A write to a Limit Set field (R116). -/
def State.writeMonitor (s : State) (i : SecId) (f : Nat) (v : Int) : WriteResult :=
  let limit (k : LimitKind) (g : Limit → Limit) : State := s.modMonitor i fun m => m.setLimit k (g (m.limit k))
  match f with
  | 0 => clampWrite 0 200000 v fun x => limit .speedError fun l => { l with threshold := x }
  | 1 => clampWrite 1 255 v fun x => limit .speedError fun l => { l with dwell := x.toNat }
  | 2 => codeWrite (LimitAction.ofCode v) fun a => limit .speedError fun l => { l with action := a }
  | 3 => clampWrite 0 2000 v fun x => limit .imbalance fun l => { l with threshold := x }
  | 4 => clampWrite 1 255 v fun x => limit .imbalance fun l => { l with dwell := x.toNat }
  | 5 => codeWrite (LimitAction.ofCode v) fun a => limit .imbalance fun l => { l with action := a }
  | 6 => clampWrite 0 3000 v fun x => limit .loadHigh fun l => { l with threshold := x }
  | 7 => clampWrite 1 255 v fun x => limit .loadHigh fun l => { l with dwell := x.toNat }
  | 8 => codeWrite (LimitAction.ofCode v) fun a => limit .loadHigh fun l => { l with action := a }
  | 9 => clampWrite 0 20000 v fun x => s.modMonitor i fun m => { m with band := x }
  | 10 => clampWrite 0 255 v fun x => s.modMonitor i fun m => { m with oscillationLimit := x.toNat }
  | 11 => codeWrite (LimitAction.ofCode v) fun a => s.modMonitor i fun m => { m with oscillationAction := a }
  | _ => .refused .badAddress []

/-- A watch point with its counts cleared by an accepted write (R129). -/
def WatchPoint.rewritten (p : WatchPoint) : WatchPoint := { p with hitCount := 0, lastSeen := 0, lastSeenFlag := false }

/-- A write to a Watch Table field (R129). -/
def State.writeWatch (s : State) (w : WatchId) (f : Nat) (v : Int) : WriteResult :=
  let store (g : WatchPoint → WatchPoint) : State := s.modWatch w fun p => (g p).rewritten
  match f with
  | 0 => codeWrite (WatchAction.ofCode v) fun a => store fun p => { p with action := a }
  | 1 => codeWrite (nodeOf v.toNat) fun n => store fun p => { p with node := n }
  | 2 => codeWrite (WatchField.ofCode v) fun a => store fun p => { p with field := a }
  | 3 => codeWrite (WatchSource.ofCode v) fun a => store fun p => { p with source := a }
  | 4 => codeWrite (CompareMode.ofCode v) fun a => store fun p => { p with mode := a }
  | 5 => .written (store fun p => { p with value := v })
  | _ => .refused .badAddress []

/-- The capture may be configured: IDLE or DONE (R140, R141, R145). -/
def CaptureState.stopped : CaptureState → Bool
  | .idle => true | .done => true | .waiting => false | .running => false | .post => false

/-- Change capture item k. -/
def State.modItem (s : State) (k : Fin 8) (f : CaptureItem → CaptureItem) : State :=
  { s with captureList := s.captureList.set k (f s.captureList[k]) }

/-- The flag of a written value. -/
def flagOf (v : Int) : Option Bool := if v = 0 then some false else if v = 1 then some true else none

/-- A write to a Capture List field (R140). -/
def State.writeItem (s : State) (k : Fin 8) (f : Nat) (v : Int) : WriteResult :=
  if s.capture.state.stopped then
    match f with
    | 0 => codeWrite (flagOf v) fun b => s.modItem k fun c => { c with enable := b }
    | 1 => codeWrite (nodeOf v.toNat) fun n => s.modItem k fun c => { c with node := n }
    | 2 => codeWrite (CaptureField.ofCode v) fun a => s.modItem k fun c => { c with field := a }
    | 3 => codeWrite (CaptureSource.ofCode v) fun a => s.modItem k fun c => { c with source := a }
    | _ => .refused .badAddress []
  else .refused .wrongState [s.capture.state.code]

/-- A write to a Capture Control field (R141). A read-only field gives BAD_ADDRESS in every capture state: DEDUCED, log entry 26. -/
def State.writeCapture (s : State) (f : Nat) (v : Int) : WriteResult :=
  if 5 < f then .refused .badAddress []
  else if s.capture.state.stopped then
    match f with
    | 0 => codeWrite (CaptureMode.ofCode v) fun a => s.modCapture fun c => { c with mode := a }
    | 1 => codeWrite (SweepKind.ofCode v) fun a => s.modCapture fun c => { c with sweep := a }
    | 2 => codeWrite (TriggerKind.ofCode v) fun a => s.modCapture fun c => { c with triggerKind := a }
    | 3 => clampWrite 0 15 v fun x => s.modCapture fun c => { c with triggerIndex := x.toNat }
    | 4 => clampWrite 1 1024 v fun x => s.modCapture fun c => { c with runLength := x.toNat }
    | _ => clampWrite 0 1024 v fun x => s.modCapture fun c => { c with postCount := x.toNat }
  else .refused .wrongState [s.capture.state.code]

/-- A write to a Station Record field: the line timeout, clamped; the running period is unchanged (R158, R163). -/
def State.writeStation (s : State) (f : Nat) (v : Int) : WriteResult :=
  match f with
  | 2 => clampWrite 5 1000 v fun x => { s with timeout := x.toNat }
  | _ => .refused .badAddress []

/-- A write to a field of a table entry, by the rule that owns the table (R165). -/
def State.writeField (s : State) (table e f : Nat) (v : Int) : WriteResult :=
  match table with
  | 1 => s.writeSection (Fin.ofNat 16 e) f v
  | 2 => s.writePool (Fin.ofNat 48 e) f v
  | 3 => s.writeDrive (Fin.ofNat 62 e) f v
  | 4 => s.writeSegment (Fin.ofNat 128 e) f v
  | 5 => s.writeMonitor (Fin.ofNat 16 e) f v
  | 6 => s.writeWatch (Fin.ofNat 4 e) f v
  | 7 => s.writeItem (Fin.ofNat 8 e) f v
  | 8 => s.writeCapture f v
  | 10 => s.writeStation f v
  | _ => .refused .badAddress []

/-! ## Runs (R164, R165) -/

/-- The fields of a table in all. -/
def tableSize (table : Nat) : Nat := tableEntries table * tableFields table

/-- A field of a table counted from entry 0, field 0. -/
def linear (table e f : Nat) : Nat := e * tableFields table + f

/-- The field counted k from entry 0, field 0, wrapping within the table: its value (R164). -/
def State.readAt (s : State) (table k : Nat) : Int :=
  let m := k % tableSize table
  s.readField table (m / tableFields table) (m % tableFields table)

/-- A write to the field counted k from entry 0, field 0, wrapping within the table (R165). -/
def State.writeAt (s : State) (table k : Nat) (v : Int) : WriteResult :=
  let m := k % tableSize table
  s.writeField table (m / tableFields table) (m % tableFields table) v

/-- A read run of count fields from the field counted k (R164). -/
def State.readRun (s : State) (table k count : Nat) : List Int := (List.range count).map fun j => s.readAt table (k + j)

/-- A run of n fields from the field counted k passes the last entry of its table (R164). -/
def wraps (table k n : Nat) : Bool := decide (tableSize table < k + n)

/-- How a write run stands: the state, the fields written, the first value clamped, and the refusal that ended it (R165). -/
structure WriteRun where
  state : State
  written : Nat
  firstClamped : Option Nat
  refusal : Option (ResultCode × List Int)

/-- A write run of values from the field counted k: each field is written against the state as the earlier fields left it, and the
first refusal ends the run (R165). -/
def State.writeRun (table : Nat) : State → Nat → List Int → Nat → Option Nat → WriteRun
  | s, _, [], n, c => ⟨s, n, c, none⟩
  | s, k, v :: vs, n, c =>
    match s.writeAt table k v with
    | .written t => State.writeRun table t (k + 1) vs (n + 1) c
    | .clamped t => State.writeRun table t (k + 1) vs (n + 1) (some (c.getD n))
    | .refused code data => ⟨s, n, c, some (code, data)⟩

/-- The result and data of a write run's reply (R165). -/
def WriteRun.reply (w : WriteRun) : ResultCode × List Int :=
  match w.refusal with
  | some (code, data) => (code, (w.written : Int) :: data)
  | none => match w.firstClamped with
    | some j => (.clamped, [(w.written : Int), (j : Int)])
    | none => (.ok, [(w.written : Int)])

/-- The fields that a write run reached: those written and the one refused (R165; that the refused one counts is DEDUCED, log
entry 27). -/
def WriteRun.reached (w : WriteRun) : Nat := w.written + if w.refusal.isSome then 1 else 0

end Sys2Proof.Machine
end

