-- ==== Sys2Proof/Machine/Service.lean ====
section
/-! DEFINITION. The Service Handler (chapter 11): taking a request and its checks (R161, R162), and the commands READ, WRITE, READ
INDEXED, SET CURSOR, READ NEXT, WRITE NEXT, READ EVENTS, PEEK EVENTS, RESTART and unknown codes (R164 to R170). -/

namespace Sys2Proof.Machine

/-! ## Taking a request (R161, R162) -/

/-- The result of a command's own work: the new state and the reply's content. -/
structure Answer where
  state : State
  result : ResultCode
  wrapped : Bool
  data : List Int

/-- An answer that changes nothing. -/
def State.refuse (s : State) (code : ResultCode) (data : List Int) : Answer := ⟨s, code, false, data⟩

/-- An answer OK. -/
def State.answerOk (s : State) (data : List Int) : Answer := ⟨s, .ok, false, data⟩

/-- The command codes of R162. -/
def knownCodes : List Nat :=
  [1, 2, 3, 4, 5, 6, 7, 8, 9, 16, 17, 18, 19, 20, 21, 22, 23, 24, 25, 26, 32, 33, 34, 35, 40, 41, 48, 49, 50]

/-- What a command of the table of R162 needs: its code, its least level and the operand counts it accepts. -/
structure CommandRow where
  code : Nat
  least : Level
  fewest : Nat
  most : Nat
  deriving DecidableEq, Repr

/-- Checks 2 to 4 of R162: permit, least level, operand count. The first that fails gives the result. -/
def State.admission (s : State) (row : CommandRow) (level : Level) (operands : Nat) : Option ResultCode :=
  if level = .commission ∧ s.permit = false then some .notPermitted
  else if row.least = .commission ∧ level = .observe then some .notPermitted
  else if operands < row.fewest ∨ row.most < operands then some .badCommand
  else none

/-- The request at the head of the queue, if the Service Handler takes one: only while fewer than 4 replies wait (R161). -/
def State.headRequest (s : State) : Option RequestFrame :=
  if s.replyQueue.length < Config.replyQueueSize then s.requests.head? else none

/-- Remove the request at the head of the queue. -/
def State.dropRequest (s : State) : State := { s with requests := s.requests.tail }

/-- The request that a row's command takes: the head, where it has the row's code and a known level (R161, R162). -/
def State.requestFor (s : State) (code : Nat) : Option (RequestFrame × Level) :=
  match s.headRequest with
  | none => none
  | some r =>
    if r.code.toNat = code then
      match Level.ofCode r.level.toNat with
      | some l => some (r, l)
      | none => none
    else none

/-- Post the reply that an answer asks for (R161). -/
def Answer.post (a : Answer) (tag : Byte) : State := a.state.postReply tag a.result a.wrapped a.data

/-- The Service Handler takes the request at the head of its queue, executes it whole and posts its one reply; where the head is
no request of this row, or 4 replies wait, nothing is taken (R161, log entry 3). -/
def State.serve (s : State) (row : CommandRow) (body : State → Level → List Int → Answer) : State :=
  match s.requestFor row.code with
  | none => s
  | some (r, level) =>
    let s := s.dropRequest
    match s.admission row level r.operands.length with
    | some code => (s.refuse code []).post r.tag
    | none => (body s level (operandValues r)).post r.tag

/-! ## Reads and cursors (R164, R166) -/

/-- The first three checks of R164 hold: the table is 1..10, the entry is within the table, the field within the entry. -/
def validAddress (table entry field : Int) : Bool :=
  decide (1 ≤ table ∧ table ≤ 10) && decide (0 ≤ entry ∧ entry < tableEntries table.toNat) &&
    decide (0 ≤ field ∧ field < tableFields table.toNat)

/-- A read run as a reply: count 1..16, else BAD_VALUE (R164). -/
def State.readReply (s : State) (table k : Nat) (count : Int) : Answer :=
  if count < 1 ∨ 16 < count then s.refuse .badValue []
  else ⟨s, .ok, wraps table k count.toNat, s.readRun table k count.toNat⟩

/-- The work of READ (R164). -/
def readBody' (s : State) (_ : Level) (ops : List Int) : Answer :=
  match ops with
  | [table, entry, field, count] =>
    if validAddress table entry field then s.readReply table.toNat (linear table.toNat entry.toNat field.toNat) count
    else s.refuse .badAddress []
  | _ => s.refuse .badCommand []

/-- The work of READ INDEXED: the starting entry is (base + index) modulo the entries (R164). -/
def readIndexedBody (s : State) (_ : Level) (ops : List Int) : Answer :=
  match ops with
  | [table, base, index, field, count] =>
    if validAddress table base field then
      let entry := (base + index) % (tableEntries table.toNat : Int)
      s.readReply table.toNat (linear table.toNat entry.toNat field.toNat) count
    else s.refuse .badAddress []
  | _ => s.refuse .badCommand []

/-- The cursor of a level (R166). -/
def State.cursor (s : State) (l : Level) : Cursor :=
  match l with
  | .observe => s.observeCursor
  | .commission => s.commissionCursor

/-- Move the cursor of a level; the other stays (R166). -/
def State.setCursor (s : State) (l : Level) (c : Cursor) : State :=
  match l with
  | .observe => { s with observeCursor := c }
  | .commission => { s with commissionCursor := c }

/-- The cursor at the field counted k in a table, wrapped within it (R166). -/
def cursorAt (table k : Nat) : Cursor :=
  let m := k % tableSize table
  ⟨table, m / tableFields table, m % tableFields table⟩

/-- The field at which a cursor stands, counted in its table. -/
def Cursor.linear (c : Cursor) : Nat := Sys2Proof.Machine.linear c.table c.entry c.field

/-- The work of SET CURSOR (R166). -/
def setCursorBody (s : State) (l : Level) (ops : List Int) : Answer :=
  match ops with
  | [table, entry, field] =>
    if validAddress table entry field then (s.setCursor l ⟨table.toNat, entry.toNat, field.toNat⟩).answerOk []
    else s.refuse .badAddress []
  | _ => s.refuse .badCommand []

/-- The work of READ NEXT: a read from the level's cursor, which then stands at the field after the last one read (R166). -/
def readNextBody (s : State) (l : Level) (ops : List Int) : Answer :=
  match ops with
  | [count] =>
    let c := s.cursor l
    if count < 1 ∨ 16 < count then s.refuse .badValue []
    else
      let a := s.readReply c.table c.linear count
      { a with state := s.setCursor l (cursorAt c.table (c.linear + count.toNat)) }
  | _ => s.refuse .badCommand []

/-! ## Writes (R165, R166) -/

/-- A write run as a reply (R165). -/
def WriteRun.answer (w : WriteRun) (table k : Nat) : Answer := ⟨w.state, w.reply.1, wraps table k w.reached, w.reply.2⟩

/-- The work of WRITE (R165). -/
def writeBody (s : State) (_ : Level) (ops : List Int) : Answer :=
  match ops with
  | table :: entry :: field :: values =>
    if validAddress table entry field then
      let k := linear table.toNat entry.toNat field.toNat
      (State.writeRun table.toNat s k values 0 none).answer table.toNat k
    else s.refuse .badAddress []
  | _ => s.refuse .badCommand []

/-- The work of WRITE NEXT: the cursor advances by the fields written (R166). -/
def writeNextBody (s : State) (l : Level) (ops : List Int) : Answer :=
  let c := s.cursor l
  let w := State.writeRun c.table s c.linear ops 0 none
  let a := w.answer c.table c.linear
  { a with state := a.state.setCursor l (cursorAt c.table (c.linear + w.written)) }

/-! ## Events (R168) -/

/-- An optional code as a byte: 255 when absent (R168). -/
def absent255 (o : Option Nat) : Nat := o.getD 255

/-- The four data values of an event record (R168), as 32-bit words read as signed integers. -/
def Event.data (e : Event) : List Int :=
  [ (BitVec.ofNat 32 (e.sequence.toNat * 65536 + e.cycle.toNat)).toInt,
    (BitVec.ofNat 32 (e.kind.code * 16777216 + e.detail * 65536 + absent255 (e.inSection.map Fin.val) * 256 +
      (if e.value.isSome then 2 else 0) + (if e.overflowAfter then 1 else 0))).toInt,
    (BitVec.ofNat 32 (absent255 (e.node.map nodeNumber) * 256 + absent255 (e.position.map Fin.val))).toInt,
    e.value.getD 0 ]

/-- The oldest records, as many as the count asks and the queue holds (R168). -/
def State.oldest (s : State) (count : Int) : List Event := s.events.take count.toNat

/-- The work of READ EVENTS: the records returned leave the queue (R168). -/
def readEventsBody (s : State) (_ : Level) (ops : List Int) : Answer :=
  match ops with
  | [count] =>
    if count < 1 ∨ 4 < count then s.refuse .badValue []
    else State.answerOk { s with events := s.events.drop count.toNat } ((s.oldest count).flatMap Event.data)
  | _ => s.refuse .badCommand []

/-- The work of PEEK EVENTS: the queue stays as it stands (R168). -/
def peekEventsBody (s : State) (_ : Level) (ops : List Int) : Answer :=
  match ops with
  | [count] =>
    if count < 1 ∨ 4 < count then s.refuse .badValue []
    else s.answerOk ((s.oldest count).flatMap Event.data)
  | _ => s.refuse .badCommand []

/-! ## RESTART (R170) -/

/-- Step 1 of RESTART for one section: a section not in BYPASS enters BYPASS with cause RESTART (R48). -/
def State.restartSection (s : State) (i : SecId) : State :=
  if (s.sec i).state = .bypass then s else s.enterPassing i .bypass .restart none none

/-- Step 2: the capture enters IDLE; the buffer stays readable (R141). -/
def State.restartCapture (s : State) : State :=
  s.modCapture fun c => { c with state := .idle, nextItem := 0, remaining := 0 }

/-- Step 3: the Event Queue is emptied and a START_UP record with detail RESTART is appended (R170). -/
def State.restartEvents (s : State) : State :=
  State.post { s with events := [] } .startUp none none none s.cycle none 1

/-- Steps 5 and 7 for one section: the latch is emptied, the limits become INSIDE and 0 (R115, R138). -/
def State.restartRecords (s : State) (i : SecId) : State := (s.modSec i fun x => { x with snapshot := none }).clearLimits i

/-- The effects of RESTART in their order (R170). -/
def State.restartWork (s : State) : State :=
  let s := s.forSections State.restartSection
  let s := s.restartCapture
  let s := s.restartEvents
  let s := { s with observeCursor := Cursor.powerOn, commissionCursor := Cursor.powerOn }
  let s := s.forSections State.restartRecords
  watchIds.foldl (fun t w => t.modWatch w WatchPoint.rewritten) s

/-! ## The rows -/

/-- READ, code 1 (R162). -/
def rowRead : CommandRow := ⟨1, .observe, 4, 4⟩
/-- WRITE, code 2 (R162). -/
def rowWrite : CommandRow := ⟨2, .commission, 4, 16⟩
/-- READ INDEXED, code 3 (R162). -/
def rowReadIndexed : CommandRow := ⟨3, .observe, 5, 5⟩
/-- SET CURSOR, code 4 (R162). -/
def rowSetCursor : CommandRow := ⟨4, .observe, 3, 3⟩
/-- READ NEXT, code 5 (R162). -/
def rowReadNext : CommandRow := ⟨5, .observe, 1, 1⟩
/-- WRITE NEXT, code 6 (R162). -/
def rowWriteNext : CommandRow := ⟨6, .commission, 1, 16⟩
/-- READ EVENTS, code 7 (R162). -/
def rowReadEvents : CommandRow := ⟨7, .observe, 1, 1⟩
/-- PEEK EVENTS, code 8 (R162). -/
def rowPeekEvents : CommandRow := ⟨8, .observe, 1, 1⟩
/-- RESTART, code 9 (R162). -/
def rowRestart : CommandRow := ⟨9, .commission, 0, 0⟩

/-- READ (R164). -/
def execRead (s : State) : Out := s.whenPowered fun s => s.serve rowRead readBody'

/-- WRITE (R165). -/
def execWrite (s : State) : Out := s.whenPowered fun s => s.serve rowWrite writeBody

/-- READ INDEXED (R164). -/
def execReadIndexed (s : State) : Out := s.whenPowered fun s => s.serve rowReadIndexed readIndexedBody

/-- SET CURSOR (R166). -/
def execSetCursor (s : State) : Out := s.whenPowered fun s => s.serve rowSetCursor setCursorBody

/-- READ NEXT (R166). -/
def execReadNext (s : State) : Out := s.whenPowered fun s => s.serve rowReadNext readNextBody

/-- WRITE NEXT (R166). -/
def execWriteNext (s : State) : Out := s.whenPowered fun s => s.serve rowWriteNext writeNextBody

/-- READ EVENTS (R168). -/
def execReadEvents (s : State) : Out := s.whenPowered fun s => s.serve rowReadEvents readEventsBody

/-- PEEK EVENTS (R168). -/
def execPeekEvents (s : State) : Out := s.whenPowered fun s => s.serve rowPeekEvents peekEventsBody

/-- RESTART: its reply, OK with no data, is posted before anything else (R170). -/
def execRestart (s : State) : Out :=
  s.whenPowered fun s =>
    match s.requestFor rowRestart.code with
    | none => s
    | some (r, level) =>
      let s := s.dropRequest
      match s.admission rowRestart level r.operands.length with
      | some code => (s.refuse code []).post r.tag
      | none => ((s.answerOk []).post r.tag).restartWork

/-- A request with an unknown command code or level code is answered BAD_COMMAND (R162 check 1). -/
def execUnknownCommandCode (s : State) : Out :=
  s.whenPowered fun s =>
    match s.headRequest with
    | none => s
    | some r =>
      if r.code.toNat ∈ knownCodes ∧ (Level.ofCode r.level.toNat).isSome then s
      else (s.dropRequest.refuse .badCommand []).post r.tag

end Sys2Proof.Machine
end

