-- ==== Sys2Proof/Machine/Commands.lean ====
section
/-! DEFINITION. The commissioning commands (R27 to R38), the membership commands (R12 to R14), INJECT FEEDBACK (R85), the snapshot
commands (R138, R139) and the capture commands (R145 to R147). -/

namespace Sys2Proof.Machine

/-! ## The shared checks of R27 -/

/-- Checks 3 and 4 of R27: the section number is 0..15, and the state is one listed for the command; a WRONG_STATE reply carries the
state code. -/
def State.onSection (s : State) (ops : List Int) (takenIn : SectionState → Bool) (body : SecId → Answer) : Answer :=
  match ops with
  | [n] =>
    match index? 16 n with
    | none => s.refuse .badValue []
    | some i => if takenIn (s.sec i).state then body i else s.refuse .wrongState [(s.sec i).state.code]
  | _ => s.refuse .badCommand []

/-- A WRONG_STATE refusal with data after the state code (R27). -/
def State.wrongState (s : State) (i : SecId) (data : List Int) : Answer := s.refuse .wrongState ((s.sec i).state.code :: data)

/-- The node number of a member, as data. -/
def State.memberNumber (s : State) (r : RecId) : Int := nodeNumber (s.memberNode r)

/-- The node number of the lead, as data; -1 for an empty list. -/
def State.leadNumber (s : State) (i : SecId) : Int :=
  match s.members i with
  | r :: _ => s.memberNumber r
  | [] => -1

/-! ## SELECT, DESELECT, START -/

/-- The work of SELECT (R28). -/
def selectBody (s : State) (_ : Level) (ops : List Int) : Answer :=
  s.onSection ops (· = .bypass) fun i =>
    if (s.members i).isEmpty then s.refuse .badValue [0]
    else
      match s.profileFault (s.sec i).cfg.profileStart (s.sec i).cfg.profileLength with
      | some d => s.refuse .badValue [d]
      | none => ((s.clearLimits i).enterPassing i .selected .command none none).answerOk []

/-- The work of DESELECT (R29). -/
def deselectBody (s : State) (_ : Level) (ops : List Int) : Answer :=
  s.onSection ops (· = .selected) fun i => (s.enterPassing i .bypass .command none none).answerOk []

/-- Check 2 of START: the first member whose status lacks RUNNING or has FAULT (R30). -/
def State.notReady (s : State) (i : SecId) : Option RecId :=
  (s.members i).find? fun r => !(statusRunning (s.memberFeedback r).status) || statusFault (s.memberFeedback r).status

/-- Check 3 of START: the node to name where the last evaluated set was not complete; the lead where there is none (R30). -/
def State.notFresh (s : State) (i : SecId) : Option Int :=
  match (s.sec i).lastSet with
  | none => some (s.leadNumber i)
  | some t => if t.complete then none else some (optNode t.firstMissing)

/-- Check 4 of START: the lead's held drive command is RUN or CRAWL (R30). -/
def Section.leadRuns (x : Section) : Bool := x.leadCommand = .run || x.leadCommand = .crawl

/-- What START sets when its checks pass (R30, R101, R124). -/
def State.startTrial (s : State) (i : SecId) : State :=
  let s := s.modMembers i fun r => { r with trim := 0, clamp := .none }
  let s := s.modSec i fun x => { x with
    state := .trial
    startPending := true
    profile := ProfilePosition.atStart x.cfg.profileLength
    monitor := { x.monitor with zeroCross := 0, sign := .none, fired := false } }
  let s := s.postStateChange i .trial .command none none
  s.signal .sectionStart i.val

/-- The work of START (R30). -/
def startBody (s : State) (_ : Level) (ops : List Int) : Answer :=
  s.onSection ops (· = .selected) fun i =>
    match s.profileFault (s.sec i).cfg.profileStart (s.sec i).cfg.profileLength with
    | some d => s.refuse .badValue [d]
    | none =>
      match s.notReady i with
      | some r => s.wrongState i [2, s.memberNumber r]
      | none =>
        match s.notFresh i with
        | some n => s.wrongState i [3, n]
        | none =>
          if (s.sec i).leadRuns then (s.startTrial i).answerOk []
          else s.wrongState i [4, s.leadNumber i]

/-! ## FREEZE to CLEAR FAULT -/

/-- The work of FREEZE (R31). -/
def freezeBody (s : State) (_ : Level) (ops : List Int) : Answer :=
  s.onSection ops (· = .trial) fun i => (s.enterFrozen i .command none none none).answerOk []

/-- The work of CONTINUE (R32). -/
def continueBody (s : State) (_ : Level) (ops : List Int) : Answer :=
  s.onSection ops (· = .frozen) fun i => (s.resumeTrial i false).answerOk []

/-- The work of STEP (R33). -/
def stepBody (s : State) (_ : Level) (ops : List Int) : Answer :=
  s.onSection ops (· = .frozen) fun i =>
    if (s.sec i).profile.finished then s.wrongState i [] else (s.resumeTrial i true).answerOk []

/-- The work of STOP (R34). -/
def stopBody (s : State) (_ : Level) (ops : List Int) : Answer :=
  s.onSection ops (fun st => st = .trial || st = .frozen) fun i =>
    (s.enterReleasing i .selected .command (.abandoned .abort) none none).answerOk []

/-- The work of ABORT (R35). -/
def abortBody (s : State) (_ : Level) (ops : List Int) : Answer :=
  s.onSection ops SectionState.rewriting fun i => (s.enterPassing i .bypass .command none none).answerOk []

/-- The work of CALIBRATE: six checks in order (R36). -/
def calibrateBody (s : State) (_ : Level) (ops : List Int) : Answer :=
  s.onSection ops (· = .selected) fun i =>
    let c := (s.sec i).cfg
    let b := (s.sec i).lineReference
    if (s.members i).length < 2 then s.refuse .badValue [1]
    else if c.calHigh ≤ c.calLow then s.refuse .badValue [2]
    else if c.calHigh - c.calLow < 10000 then s.refuse .badValue [3]
    else if c.absoluteLimit < c.calHigh then s.refuse .badValue [4]
    else if c.crawlLimit < (b.natAbs : Int) then s.wrongState i [b]
    else
      match s.engine.holder with
      | some j => s.refuse .busy [(j.val : Int)]
      | none => (s.enterCalibrating i).answerOk []

/-- TRIGGER has a STEP segment to restart (R37, R111). -/
def State.triggers (s : State) (i : SecId) : Bool :=
  (s.currentSegment i).kind = .step && !(s.sec i).profile.finished && !(s.sec i).startPending

/-- The work of TRIGGER (R37, R111). -/
def triggerBody (s : State) (_ : Level) (ops : List Int) : Answer :=
  s.onSection ops (· = .trial) fun i =>
    if s.triggers i then (s.modProfile i fun q => { q with cycleCount := 0 }).answerOk [] else s.refuse .ignored []

/-- The first member whose last status has FAULT (R38). -/
def State.faultedMember (s : State) (i : SecId) : Option RecId :=
  (s.members i).find? fun r => statusFault (s.memberFeedback r).status

/-- The work of CLEAR FAULT (R38). -/
def clearFaultBody (s : State) (_ : Level) (ops : List Int) : Answer :=
  s.onSection ops (· = .faulted) fun i =>
    match s.faultedMember i with
    | some r => s.wrongState i [s.memberNumber r]
    | none => (s.enterPassing i .bypass .command none none).answerOk []

/-! ## Membership (R12 to R14) -/

/-- All record numbers, 0 to 47. -/
def recordIds : List RecId := (List.range 48).map (Fin.ofNat 48)

/-- The lowest-numbered free pool record (R12). -/
def State.freeRecord (s : State) : Option RecId := recordIds.find? fun r => !(s.member r).inUse

/-- Replace the member list of section i; its last evaluated set becomes absent (R9, R78). -/
def State.setMembers (s : State) (i : SecId) (ms : List RecId) : State :=
  s.modSec i fun x => { x with members := ms, lastSet := none }

/-- Write the position fields of a member list from its order (R10). -/
def State.renumber (s : State) (ms : List RecId) : State :=
  ms.zipIdx.foldl (fun t p => t.modRec p.1 fun r => { r with position := some (Fin.ofNat 4 p.2) }) s

/-- Allocate record r to node n at the end of section i's list (R10, R12). -/
def State.addMember (s : State) (i : SecId) (n : NodeId) (weight : Nat) (r : RecId) : State :=
  let pos := Fin.ofNat 4 (s.members i).length
  let s := s.modRec r fun _ =>
    { PoolRecord.free with inUse := true, inSection := some i, node := some n, position := some pos, weight := weight }
  let s := s.setMembers i (s.members i ++ [r])
  s.modDrive n fun d => { d with inSection := some i }

/-- The work of ADD MEMBER: six checks in order (R12). -/
def addMemberBody (s : State) (_ : Level) (ops : List Int) : Answer :=
  match ops with
  | [a, b, w] =>
    match index? 16 a with
    | none => s.refuse .badValue []
    | some i =>
      match nodeOf b.toNat with
      | none => s.refuse .badValue []
      | some n =>
        if n = s.station ∨ w < 1 ∨ 255 < w then s.refuse .badValue []
        else if (s.sec i).state ≠ .bypass then s.refuse .sectionActive []
        else if (s.drive n).inSection.isSome then s.refuse .inUse []
        else if 4 ≤ (s.members i).length then s.refuse .tableFull []
        else
          match s.freeRecord with
          | none => s.refuse .tableFull []
          | some r => (s.addMember i n w.toNat r).answerOk [(r.val : Int), ((s.members i).length : Int)]
  | _ => s.refuse .badCommand []

/-- The checks that REMOVE MEMBER and MAKE LEAD share: section, state, membership (R13, R14). -/
def State.onMember (s : State) (ops : List Int) (body : SecId → NodeId → RecId → Answer) : Answer :=
  match ops with
  | [a, b] =>
    match index? 16 a with
    | none => s.refuse .badValue []
    | some i =>
      if (s.sec i).state ≠ .bypass then s.refuse .sectionActive []
      else
        match nodeOf b.toNat with
        | none => s.refuse .badValue []
        | some n =>
          match (s.members i).find? fun r => (s.member r).node = some n with
          | none => s.refuse .badValue []
          | some r => body i n r
  | _ => s.refuse .badCommand []

/-- Take record r out of section i's list: the members behind it move up, the record is freed, the node's assigned section becomes
absent (R13). -/
def State.removeMember (s : State) (i : SecId) (n : NodeId) (r : RecId) : State :=
  let ms := (s.members i).filter (· ≠ r)
  let s := s.setMembers i ms
  let s := s.renumber ms
  let s := s.modRec r fun _ => PoolRecord.free
  s.modDrive n fun d => { d with inSection := none }

/-- The work of REMOVE MEMBER (R13). -/
def removeMemberBody (s : State) (_ : Level) (ops : List Int) : Answer :=
  s.onMember ops fun i n r => (s.removeMember i n r).answerOk [(r.val : Int)]

/-- Move record r to position 0 of section i (R14). -/
def State.makeLead (s : State) (i : SecId) (r : RecId) : State :=
  let ms := r :: (s.members i).filter (· ≠ r)
  (s.setMembers i ms).renumber ms

/-- The work of MAKE LEAD; of the member that is the lead already, it changes nothing (R14). -/
def makeLeadBody (s : State) (_ : Level) (ops : List Int) : Answer :=
  s.onMember ops fun i _ r => if (s.members i).head? = some r then s.answerOk [] else (s.makeLead i r).answerOk []

/-! ## INJECT FEEDBACK (R85, R86) -/

/-- The work of INJECT FEEDBACK: checks 3 to 9, then the injection as a used return; the data value says whether it caused the set to
be evaluated as complete (R85, R86). -/
def injectBody (s : State) (_ : Level) (ops : List Int) : Answer :=
  match ops with
  | [node, raw, load, status] =>
    match nodeOf node.toNat with
    | none => s.refuse .badValue [1]
    | some n =>
      match (s.drive n).inSection with
      | none => s.refuse .badValue [2]
      | some i =>
        if (s.sec i).state ≠ .selected then s.refuse .wrongState [(s.sec i).state.code]
        else if s.cycleOpen = false then s.refuse .wrongState [1, -1]
        else if raw < -8388608 ∨ 8388607 < raw then s.refuse .badValue [3]
        else if load < -32768 ∨ 32767 < load then s.refuse .badValue [4]
        else if status < 0 ∨ 31 < status then s.refuse .badValue [5]
        else
          let t := s.takeFeedback n raw load (BitVec.ofNat 5 status.toNat) .injected
          t.answerOk [flagCode (!(s.sec i).evaluated && (t.sec i).evaluated)]
  | _ => s.refuse .badCommand []

/-! ## Snapshots (R138, R139) -/

/-- The seven values of a position past the end of the list (R138). -/
def SnapshotMember.absent : SnapshotMember := ⟨none, 0, 0, 0, 0, 0, .none⟩

/-- The seven values of a member (R138). -/
def State.snapshotMember (s : State) (r : RecId) : SnapshotMember :=
  let p := s.member r
  let fb := s.memberFeedback r
  ⟨p.node, p.issued, fb.calibratedSpeed, fb.signedLoad, p.trim, p.imbalance, p.clamp⟩

/-- The live view of section i (R138). -/
def State.liveView (s : State) (i : SecId) : Snapshot where
  cycle := s.cycle
  state := (s.sec i).state
  lineReference := (s.sec i).lineReference
  offset := (s.sec i).profile.offset
  memberCount := (s.members i).length
  members := [0, 1, 2, 3].map fun k =>
    match (s.members i)[k]? with
    | some r => s.snapshotMember r
    | none => SnapshotMember.absent

/-- The seven data values of a position (R139). -/
def SnapshotMember.data (m : SnapshotMember) : List Int :=
  [optNode m.node, m.issued, m.calibratedSpeed, m.signedLoad, m.trim, m.imbalance, (m.clamp.code : Int)]

/-- Position k of a view. -/
def Snapshot.position (v : Snapshot) (k : Nat) : List Int := (v.members.getD k SnapshotMember.absent).data

/-- The data of a part of a view, with its origin (R139). -/
def Snapshot.part (v : Snapshot) (origin : Int) (part : Int) : List Int :=
  if part = 0 then
    [origin, (v.cycle.toNat : Int), (v.state.code : Int), v.lineReference, v.offset, (v.memberCount : Int)] ++ v.position 0
  else if part = 1 then v.position 1 ++ v.position 2
  else v.position 3

/-- Set the snapshot latch of section i. -/
def State.setLatch (s : State) (i : SecId) (v : Option Snapshot) : State := s.modSec i fun x => { x with snapshot := v }

/-- The work of LATCH SNAPSHOT (R138). -/
def latchBody (s : State) (_ : Level) (ops : List Int) : Answer :=
  match ops with
  | [a] =>
    match index? 16 a with
    | none => s.refuse .badValue []
    | some i =>
      match (s.sec i).snapshot with
      | some _ => s.refuse .ignored []
      | none => (s.setLatch i (some (s.liveView i))).answerOk []
  | _ => s.refuse .badCommand []

/-- The work of READ SNAPSHOT (R139). -/
def readSnapshotBody (s : State) (_ : Level) (ops : List Int) : Answer :=
  match ops with
  | [a, part] =>
    match index? 16 a with
    | none => s.refuse .badValue []
    | some i =>
      if part < 0 ∨ 2 < part then s.refuse .badValue []
      else
        match (s.sec i).snapshot with
        | some v => State.answerOk (if part = 2 then s.setLatch i none else s) (v.part 1 part)
        | none => s.answerOk ((s.liveView i).part 0 part)
  | _ => s.refuse .badCommand []

/-! ## Capture commands (R145 to R147) -/

/-- The number of the first active item whose pairing is not allowed (R145 check 3). -/
def State.badItem (s : State) : Option Nat := s.activeList.findIdx? fun c => !c.allowed

/-- Clear the buffer and its counts and enter the mode's first state (R145). -/
def State.beginCapture (s : State) : State :=
  { s with
    buffer := []
    capture := { s.capture with
      recordCount := 0, writeIndex := 0, wrapped := false, nextItem := 0, remaining := 0
      state := if s.capture.mode = .triggered then .waiting else .running } }

/-- The work of CAPTURE START: four checks in order (R145). -/
def captureStartBody (s : State) (_ : Level) (ops : List Int) : Answer :=
  match ops with
  | [] =>
    if s.capture.state.stopped then
      if s.activeList.isEmpty then s.refuse .badValue [-1]
      else
        match s.badItem with
        | some k => s.refuse .badValue [(k : Int)]
        | none =>
          if s.capture.mode ≠ .once ∧ s.capture.triggerKind = .watch ∧ 3 < s.capture.triggerIndex then s.refuse .badValue [8]
          else s.beginCapture.answerOk []
    else s.refuse .wrongState [s.capture.state.code]
  | _ => s.refuse .badCommand []

/-- The work of CAPTURE STOP (R146). -/
def captureStopBody (s : State) (_ : Level) (ops : List Int) : Answer :=
  match ops with
  | [] =>
    match s.capture.state with
    | .running => (s.modCapture fun c => { c with state := .done, remaining := 0 }).answerOk []
    | .post => (s.modCapture fun c => { c with state := .done, remaining := 0 }).answerOk []
    | .waiting => (s.modCapture fun c => { c with state := .idle }).answerOk []
    | .idle => s.refuse .ignored []
    | .done => s.refuse .ignored []
  | _ => s.refuse .badCommand []

/-- The work of TRIGGER CAPTURE (R147). -/
def triggerCaptureBody (s : State) (_ : Level) (ops : List Int) : Answer :=
  match ops with
  | [] =>
    let t := s.takeTrigger .command 0
    if t.2 then t.1.answerOk [] else s.refuse .ignored []
  | _ => s.refuse .badCommand []

/-! ## The rows of R162 -/

/-- SELECT, code 16. -/
def rowSelect : CommandRow := ⟨16, .commission, 1, 1⟩
/-- DESELECT, code 17. -/
def rowDeselect : CommandRow := ⟨17, .commission, 1, 1⟩
/-- START, code 18. -/
def rowStart : CommandRow := ⟨18, .commission, 1, 1⟩
/-- FREEZE, code 19. -/
def rowFreeze : CommandRow := ⟨19, .commission, 1, 1⟩
/-- CONTINUE, code 20. -/
def rowContinue : CommandRow := ⟨20, .commission, 1, 1⟩
/-- STEP, code 21. -/
def rowStep : CommandRow := ⟨21, .commission, 1, 1⟩
/-- STOP, code 22. -/
def rowStop : CommandRow := ⟨22, .commission, 1, 1⟩
/-- ABORT, code 23. -/
def rowAbort : CommandRow := ⟨23, .commission, 1, 1⟩
/-- CALIBRATE, code 24. -/
def rowCalibrate : CommandRow := ⟨24, .commission, 1, 1⟩
/-- TRIGGER, code 25. -/
def rowTrigger : CommandRow := ⟨25, .commission, 1, 1⟩
/-- CLEAR FAULT, code 26. -/
def rowClearFault : CommandRow := ⟨26, .commission, 1, 1⟩
/-- ADD MEMBER, code 32. -/
def rowAddMember : CommandRow := ⟨32, .commission, 3, 3⟩
/-- REMOVE MEMBER, code 33. -/
def rowRemoveMember : CommandRow := ⟨33, .commission, 2, 2⟩
/-- MAKE LEAD, code 34. -/
def rowMakeLead : CommandRow := ⟨34, .commission, 2, 2⟩
/-- INJECT FEEDBACK, code 35. -/
def rowInject : CommandRow := ⟨35, .commission, 4, 4⟩
/-- LATCH SNAPSHOT, code 40. -/
def rowLatch : CommandRow := ⟨40, .observe, 1, 1⟩
/-- READ SNAPSHOT, code 41. -/
def rowReadSnapshot : CommandRow := ⟨41, .observe, 2, 2⟩
/-- CAPTURE START, code 48. -/
def rowCaptureStart : CommandRow := ⟨48, .observe, 0, 0⟩
/-- CAPTURE STOP, code 49. -/
def rowCaptureStop : CommandRow := ⟨49, .observe, 0, 0⟩
/-- TRIGGER CAPTURE, code 50. -/
def rowTriggerCapture : CommandRow := ⟨50, .observe, 0, 0⟩

/-- SELECT (R28). -/
def execSelect (s : State) : Out := s.whenPowered fun s => s.serve rowSelect selectBody
/-- DESELECT (R29). -/
def execDeselect (s : State) : Out := s.whenPowered fun s => s.serve rowDeselect deselectBody
/-- START (R30). -/
def execStart (s : State) : Out := s.whenPowered fun s => s.serve rowStart startBody
/-- FREEZE (R31). -/
def execFreeze (s : State) : Out := s.whenPowered fun s => s.serve rowFreeze freezeBody
/-- CONTINUE (R32). -/
def execContinue (s : State) : Out := s.whenPowered fun s => s.serve rowContinue continueBody
/-- STEP (R33). -/
def execStepRun (s : State) : Out := s.whenPowered fun s => s.serve rowStep stepBody
/-- STOP (R34). -/
def execStop (s : State) : Out := s.whenPowered fun s => s.serve rowStop stopBody
/-- ABORT (R35). -/
def execAbort (s : State) : Out := s.whenPowered fun s => s.serve rowAbort abortBody
/-- CALIBRATE (R36). -/
def execCalibrate (s : State) : Out := s.whenPowered fun s => s.serve rowCalibrate calibrateBody
/-- TRIGGER (R37). -/
def execTrigger (s : State) : Out := s.whenPowered fun s => s.serve rowTrigger triggerBody
/-- CLEAR FAULT (R38). -/
def execClearFault (s : State) : Out := s.whenPowered fun s => s.serve rowClearFault clearFaultBody
/-- ADD MEMBER (R12). -/
def execAddMember (s : State) : Out := s.whenPowered fun s => s.serve rowAddMember addMemberBody
/-- REMOVE MEMBER (R13). -/
def execRemoveMember (s : State) : Out := s.whenPowered fun s => s.serve rowRemoveMember removeMemberBody
/-- MAKE LEAD (R14). -/
def execMakeLead (s : State) : Out := s.whenPowered fun s => s.serve rowMakeLead makeLeadBody
/-- INJECT FEEDBACK (R85). -/
def execInjectFeedback (s : State) : Out := s.whenPowered fun s => s.serve rowInject injectBody
/-- LATCH SNAPSHOT (R138). -/
def execLatchSnapshot (s : State) : Out := s.whenPowered fun s => s.serve rowLatch latchBody
/-- READ SNAPSHOT (R139). -/
def execReadSnapshot (s : State) : Out := s.whenPowered fun s => s.serve rowReadSnapshot readSnapshotBody
/-- CAPTURE START (R145). -/
def execCaptureStart (s : State) : Out := s.whenPowered fun s => s.serve rowCaptureStart captureStartBody
/-- CAPTURE STOP (R146). -/
def execCaptureStop (s : State) : Out := s.whenPowered fun s => s.serve rowCaptureStop captureStopBody
/-- TRIGGER CAPTURE (R147). -/
def execTriggerCapture (s : State) : Out := s.whenPowered fun s => s.serve rowTriggerCapture triggerCaptureBody

end Sys2Proof.Machine
end

