-- ==== Sys2Proof/Machine/Link.lean ====
section
/-! DEFINITION. Power, the reset line, the permit line, the line timer and the frames of the link (R20, R39, R43, R79, R152 to R160,
R169). -/

namespace Sys2Proof.Machine

/-! ## Power and reset (R160) -/

/-- Every piece of state at its power-on value, the straps read and the permit level taken without an event (R20, R160, R169). What is
the model's own, the commands waiting and the number of free values drawn, stays. -/
def State.powerUp (s : State) (straps : BitVec 6) (permit : Bool) : State :=
  { State.reset with station := stationOfStraps straps, permit := permit, pending := s.pending, freeDraws := s.freeDraws }

/-- POWER_ON (R160). -/
def execPowerOn (straps : BitVec 6) (permit : Bool) (s : State) : Out := .next (s.powerUp straps permit)

/-- RESET_LINE, from activation to release: no frame is taken or sent meanwhile, and on release every piece of state takes its power-on
value (R160). -/
def execResetLine (straps : BitVec 6) (permit : Bool) (s : State) : Out := s.whenPowered fun s => s.powerUp straps permit

/-- POWER_LOSS: the bridge stops taking and sending frames until power returns (R160). -/
def execPowerLoss (s : State) : Out := s.whenPowered fun s => { s with powered := false }

/-! ## The permit line (R39) -/

/-- The permit line goes inactive: its effect on one section (R39). -/
def State.permitLost (s : State) (i : SecId) : State :=
  match (s.sec i).state with
  | .trial => s.enterReleasing i .bypass .permit (.abandoned .permit) none none
  | .frozen => s.enterReleasing i .bypass .permit (.abandoned .permit) none none
  | .calibrating => s.enterReleasing i .bypass .permit (.abandoned .permit) none none
  | .releasing => s.modSec i fun x => { x with releaseTarget := some .bypass }
  | .bypass => s
  | .selected => s
  | .faulted => s

/-- A change of the permit line: the sections in turn, then one PERMIT event (R39). -/
def State.permitChange (s : State) (active : Bool) : State :=
  let s := { s with permit := active }
  let s := if active then s else s.forSections State.permitLost
  s.post .permit none none none s.cycle (some (flagCode active)) 0

/-- PERMIT_LINE_CHANGE: a level that the line has already is no change (R39, log entry 19). -/
def execPermitLineChange (active : Bool) (s : State) : Out :=
  s.whenPowered fun s => if s.permit = active then s else s.permitChange active

/-! ## The line timer (R43, R158) -/

/-- LINE_TIMER_EXPIRY: a running timer expires and every section takes the line-lost condition; a timer that is not running does not
expire (R43, R158). -/
def execLineTimerExpiry (s : State) : Out :=
  s.whenPowered fun s =>
    if s.timer = .running then
      State.forSections { s with timer := .expired } fun t i => t.faultCondition i .lineLost none none
    else s

/-! ## Frames -/

/-- DISPATCH: an accepted DISPATCH frame. A frame that breaks the bounds of R152 is bad and changes nothing. -/
def execDispatch (f : DispatchFrame) (s : State) : Out := s.whenPowered fun s => if f.wf then s.dispatchWork f else s

/-- The intake of an accepted return: stale and foreign ones change nothing (R79, R80). -/
def State.intake (s : State) (f : ReturnFrame) : State :=
  match s.usedNode f with
  | some n => s.takeFeedback n f.speed.toInt f.load.toInt (statusOfByte f.status) .link
  | none => s

/-- RETURN: forwarded upstream unchanged and, if used, taken by the Feedback Intake (R79, R155). -/
def execReturnFrame (f : ReturnFrame) (s : State) : Out := s.whenPowered fun s => (s.forwardUp (.ret f)).intake f

/-- A request for this station waits in the request queue; one accepted while 4 wait is discarded (R154). -/
def State.queueRequest (s : State) (f : RequestFrame) : State :=
  if s.requests.length < Config.requestQueueSize then { s with requests := s.requests ++ [f] } else s

/-- SERVICE_REQUEST: for this station into the request queue, for any other downstream unchanged (R154). -/
def execServiceRequest (f : RequestFrame) (s : State) : Out :=
  s.whenPowered fun s =>
    if f.wf then (if f.station = s.stationByte then s.queueRequest f else s.forwardDown (.request f)) else s

/-- OTHER_STATION_FRAME: forwarded upstream unchanged and not otherwise taken (R155). -/
def execOtherStationFrame (f : ForeignFrame) (s : State) : Out :=
  s.whenPowered fun s => if f.frame.wf then s.forwardUp f.frame else s

/-- BAD_FRAME: discarded at the port; it changes no state of the bridge (R152). -/
def execBadFrame (_port : Port) (_bytes : List Byte) (s : State) : Out := .next s

/-! ## Sending -/

/-- The three places that the upstream port sends from (R156). -/
inductive UpPlace where
  | through | reply | slot
  deriving DecidableEq, Repr

/-- The station frame that may be sent: the one in the slot, while the line timer runs. Before the first dispatch and while the timer
stands expired the bridge sends none (R157). A frame unsent at the expiry stays in the slot until the next dispatch replaces it: DEDUCED,
log entry 31. -/
def State.stationToSend (s : State) : Option ReadyFrame := if s.timer = .running then s.stationSlot else none

/-- The frames that may be sent next: the head of each queue and the station frame, with their places (R156, R157). -/
def State.upstreamHeads (s : State) : List (UpPlace × ReadyFrame) :=
  (s.throughQueue.head?.toList.map fun f => (UpPlace.through, f)) ++
    (s.replyQueue.head?.toList.map fun f => (UpPlace.reply, f)) ++
    (s.stationToSend.toList.map fun f => (UpPlace.slot, f))

/-- The least order number among some frames. -/
def earliest : List (UpPlace × ReadyFrame) → Nat
  | [] => 0
  | [x] => x.2.ready
  | x :: xs => min x.2.ready (earliest xs)

/-- The frames that became ready first, all together (R156). -/
def firstReady (xs : List (UpPlace × ReadyFrame)) : List (UpPlace × ReadyFrame) := xs.filter fun x => x.2.ready = earliest xs

/-- Take the frame of a place out of it and send it. -/
def State.sendUp (s : State) (x : UpPlace × ReadyFrame) : State :=
  let s := { s with upstreamSent := some x.2.frame }
  match x.1 with
  | .through => { s with throughQueue := s.throughQueue.tail }
  | .reply => { s with replyQueue := s.replyQueue.tail }
  | .slot => { s with stationSlot := none }

/-- The arbiter: the frame that became ready first; frames that became ready together in either order, a free value (R156, log entry
5). -/
def State.arbitrate (s : State) : State :=
  match firstReady s.upstreamHeads with
  | [] => s
  | [x] => s.sendUp x
  | x :: xs =>
    let k := Config.upstreamTie s.freeDraws % (x :: xs).length
    State.sendUp { s with freeDraws := s.freeDraws + 1 } ((x :: xs).getD k x)

/-- UPSTREAM_SEND (R156, R157). -/
def execUpstreamSend (s : State) : Out := s.whenPowered State.arbitrate

/-- The head of the downstream queue is sent whole (R154). -/
def State.sendDown (s : State) : State :=
  match s.downstreamQueue with
  | [] => s
  | f :: fs => { s with downstreamQueue := fs, downstreamSent := some f }

/-- DOWNSTREAM_SEND (R154). -/
def execDownstreamSend (s : State) : Out := s.whenPowered State.sendDown

end Sys2Proof.Machine
end

