-- ==== Sys2Proof/Machine/Dispatch.lean ====
section
/-! DEFINITION. The dispatch of commands to their meanings: one arm per constructor of Instr. -/

namespace Sys2Proof.Machine

def exec (i : Instr) (s : State) : Host.Outcome State Fault Refusal :=
  match i with
  | .powerOn straps permit => Sys2Proof.Machine.execPowerOn straps permit s
  | .resetLine straps permit => Sys2Proof.Machine.execResetLine straps permit s
  | .permitLineChange active => Sys2Proof.Machine.execPermitLineChange active s
  | .lineTimerExpiry => Sys2Proof.Machine.execLineTimerExpiry s
  | .dispatch f => Sys2Proof.Machine.execDispatch f s
  | .returnFrame f => Sys2Proof.Machine.execReturnFrame f s
  | .serviceRequest f => Sys2Proof.Machine.execServiceRequest f s
  | .otherStationFrame f => Sys2Proof.Machine.execOtherStationFrame f s
  | .badFrame port bytes => Sys2Proof.Machine.execBadFrame port bytes s
  | .upstreamSend => Sys2Proof.Machine.execUpstreamSend s
  | .downstreamSend => Sys2Proof.Machine.execDownstreamSend s
  | .read => Sys2Proof.Machine.execRead s
  | .write => Sys2Proof.Machine.execWrite s
  | .readIndexed => Sys2Proof.Machine.execReadIndexed s
  | .setCursor => Sys2Proof.Machine.execSetCursor s
  | .readNext => Sys2Proof.Machine.execReadNext s
  | .writeNext => Sys2Proof.Machine.execWriteNext s
  | .readEvents => Sys2Proof.Machine.execReadEvents s
  | .peekEvents => Sys2Proof.Machine.execPeekEvents s
  | .restart => Sys2Proof.Machine.execRestart s
  | .select => Sys2Proof.Machine.execSelect s
  | .deselect => Sys2Proof.Machine.execDeselect s
  | .start => Sys2Proof.Machine.execStart s
  | .freeze => Sys2Proof.Machine.execFreeze s
  | .continueTrial => Sys2Proof.Machine.execContinue s
  | .stepRun => Sys2Proof.Machine.execStepRun s
  | .stopTrial => Sys2Proof.Machine.execStop s
  | .abort => Sys2Proof.Machine.execAbort s
  | .calibrate => Sys2Proof.Machine.execCalibrate s
  | .trigger => Sys2Proof.Machine.execTrigger s
  | .clearFault => Sys2Proof.Machine.execClearFault s
  | .addMember => Sys2Proof.Machine.execAddMember s
  | .removeMember => Sys2Proof.Machine.execRemoveMember s
  | .makeLead => Sys2Proof.Machine.execMakeLead s
  | .injectFeedback => Sys2Proof.Machine.execInjectFeedback s
  | .latchSnapshot => Sys2Proof.Machine.execLatchSnapshot s
  | .readSnapshot => Sys2Proof.Machine.execReadSnapshot s
  | .captureStart => Sys2Proof.Machine.execCaptureStart s
  | .captureStop => Sys2Proof.Machine.execCaptureStop s
  | .triggerCapture => Sys2Proof.Machine.execTriggerCapture s
  | .powerLoss => Sys2Proof.Machine.execPowerLoss s
  | .unknownCommandCode => Sys2Proof.Machine.execUnknownCommandCode s

end Sys2Proof.Machine
end

