-- ==== Sys2Proof/Safety.lean ====
section
/-! DEFINITION. What a good state of the bridge is: the properties that rules say hold at all times, each a predicate on one state,
and the words in which statements about a request are made. -/

namespace Sys2Proof.Machine

/-! ## Properties that rules say hold at all times -/

/-- The Event Queue holds at most 32 records, and counting back from the next sequence number their numbers run consecutively
modulo 65,536 (R167). -/
def EventsInOrder (s : State) : Prop :=
  s.events.length ≤ 32 ∧
    ∀ (k : Nat) (e : Event), s.events[k]? = some e → e.sequence + BitVec.ofNat 16 (s.events.length - k) = s.nextSequence

/-- The section in CALIBRATING is the one that holds the engine, so at most one is (R36); a free engine has no phase, and every
count and sum of it is 0 (R87). -/
def EngineHeld (s : State) : Prop :=
  (∀ i : SecId, (s.sec i).state = .calibrating ↔ s.engine.holder = some i) ∧ (s.engine.holder = none → s.engine = Engine.free)

/-- While the permit line is inactive, no section is in TRIAL, FROZEN or CALIBRATING (R39). -/
def PermitRespected (s : State) : Prop :=
  s.permit = false → ∀ i : SecId, (s.sec i).state ≠ .trial ∧ (s.sec i).state ≠ .frozen ∧ (s.sec i).state ≠ .calibrating

/-- Every Drive Map entry holds a gain in 12,288..20,480 and an offset in -100,000..+100,000 (R18). -/
def CalibrationInRange (s : State) : Prop :=
  ∀ n : NodeId, (12288 ≤ (s.drive n).gain ∧ (s.drive n).gain ≤ 20480) ∧
    (-100000 ≤ (s.drive n).offset ∧ (s.drive n).offset ≤ 100000)

/-- Member lists, pool records and Drive Map agree: a list holds at most 4 records, no record twice and no node twice; the record
at place k of section i's list is in use, names section i, position k and a node whose entry names section i; a node whose entry
names section i has a record in that list; a record in use stands in a list, and a record not in use holds the free values (R9,
R10). -/
def MembersConsistent (s : State) : Prop :=
  (∀ i : SecId, (s.members i).length ≤ 4 ∧ ((s.members i).map fun r => (s.member r).node).Nodup) ∧
  (∀ (i : SecId) (k : Nat) (r : RecId), (s.members i)[k]? = some r →
    (s.member r).inUse = true ∧ (s.member r).inSection = some i ∧ (s.member r).position.map Fin.val = some k ∧
      ∃ n, (s.member r).node = some n ∧ (s.drive n).inSection = some i) ∧
  (∀ (n : NodeId) (i : SecId), (s.drive n).inSection = some i → ∃ r ∈ s.members i, (s.member r).node = some n) ∧
  (∀ r : RecId, if (s.member r).inUse then ∃ i, r ∈ s.members i else s.member r = PoolRecord.free)

/-- The configuration fields of every section lie within their ranges (R4). -/
def ConfigInRange (s : State) : Prop :=
  ∀ i : SecId, let c := (s.sec i).cfg
    (-50000 ≤ c.drawOffset ∧ c.drawOffset ≤ 50000) ∧ (0 ≤ c.trimWindow ∧ c.trimWindow ≤ 100000) ∧
    (10000 ≤ c.absoluteLimit ∧ c.absoluteLimit ≤ 2000000) ∧ (0 ≤ c.shareGain ∧ c.shareGain ≤ 255) ∧
    (0 ≤ c.trimLimit ∧ c.trimLimit ≤ 20000) ∧ c.profileStart ≤ 127 ∧ c.profileLength ≤ 32 ∧ c.repeatCount ≤ 255 ∧
    c.gateHoldLimit ≤ 1000 ∧ (10 ≤ c.releaseRate ∧ c.releaseRate ≤ 10000) ∧ (1 ≤ c.missLimit ∧ c.missLimit ≤ 15) ∧
    (0 ≤ c.crawlLimit ∧ c.crawlLimit ≤ 300000) ∧ (0 ≤ c.calLow ∧ c.calLow ≤ 300000) ∧
    (0 ≤ c.calHigh ∧ c.calHigh ≤ 300000) ∧ (1 ≤ c.settleCycles ∧ c.settleCycles ≤ 1000) ∧
    (2 ≤ c.sampleExponent ∧ c.sampleExponent ≤ 8)

/-- The share trim of every member lies within ±Tlim of its section (R71). -/
def TrimsInLimit (s : State) : Prop :=
  ∀ (i : SecId) (r : RecId), r ∈ s.members i →
    -(s.sec i).cfg.trimLimit ≤ (s.member r).trim ∧ (s.member r).trim ≤ (s.sec i).cfg.trimLimit

/-- In BYPASS, SELECTED and FAULTED every member's trim and held offset are 0 and its clamp flag is NONE (R25, R61, R74). -/
def PassingMembersClean (s : State) : Prop :=
  ∀ (i : SecId) (r : RecId), (s.sec i).state.rewriting = false → r ∈ s.members i →
    (s.member r).trim = 0 ∧ (s.member r).held = 0 ∧ (s.member r).clamp = .none

/-- Segment records lie within their ranges, and a SQUARE has a length of at least 2 (R97). -/
def SegmentsInRange (s : State) : Prop :=
  ∀ k : Fin 128, (1 ≤ (s.segments[k]).length ∧ (s.segments[k]).length ≤ 65535) ∧
    (-200000 ≤ (s.segments[k]).level ∧ (s.segments[k]).level ≤ 200000) ∧
    ((s.segments[k]).kind = .square → 2 ≤ (s.segments[k]).length)

/-- The profile offset of every section lies within ±200,000, and so does the offset its segment started from (R100, R105). -/
def ProfileInRange (s : State) : Prop :=
  ∀ i : SecId, (-200000 ≤ (s.sec i).profile.offset ∧ (s.sec i).profile.offset ≤ 200000) ∧
    (-200000 ≤ (s.sec i).profile.startOffset ∧ (s.sec i).profile.startOffset ≤ 200000)

/-- The queues hold no more than their sizes (R154, R156). -/
def QueuesBounded (s : State) : Prop :=
  s.requests.length ≤ 4 ∧ s.downstreamQueue.length ≤ 8 ∧ s.throughQueue.length ≤ 8 ∧ s.replyQueue.length ≤ 4

/-- The counts that saturate stay within their ranges (R51, R83, R103, R124, R131). -/
def CountsInRange (s : State) : Prop :=
  (∀ i : SecId, (s.sec i).lineMiss ≤ 15 ∧ (s.sec i).profile.gateClosed ≤ 65535 ∧ (s.sec i).monitor.zeroCross ≤ 255) ∧
    (∀ n : NodeId, (s.drive n).feedback.missing ≤ 15) ∧ ∀ w : WatchId, (s.watch w).hitCount ≤ 65535

/-- The Capture Buffer is in its canonical form within positions 0 to 1,023, its counts are within their ranges, its records stand from
position 0 on while there are fewer than 1,024, and only a ring that has wrapped is full with a write index other than 0 (R141, R142). -/
def BufferWithinBounds (s : State) : Prop :=
  Memory.wf s.buffer = true ∧ (∀ p ∈ s.buffer, p.1 < 1024) ∧ s.capture.recordCount ≤ 1024 ∧ s.capture.writeIndex < 1024 ∧
    (s.capture.wrapped = true → s.capture.recordCount = 1024) ∧
    (s.capture.recordCount < 1024 → s.capture.writeIndex = s.capture.recordCount) ∧
    (s.capture.recordCount = 1024 → s.capture.wrapped = true ∨ s.capture.writeIndex = 0)

/-- A section has a release target exactly in RELEASING, and a fault code, one of the four fault causes, exactly in FAULTED (R7,
R24). -/
def TargetsAndFaultCodes (s : State) : Prop :=
  ∀ i : SecId, ((s.sec i).releaseTarget.isSome ↔ (s.sec i).state = .releasing) ∧
    ((s.sec i).faultCode.isSome ↔ (s.sec i).state = .faulted) ∧
    ∀ c, (s.sec i).faultCode = some c → c = .driveFault ∨ c = .feedbackLost ∨ c = .lineEntryLost ∨ c = .lineLost

/-- A cursor points at a field that exists (R166). -/
def Cursor.exists' (c : Cursor) : Prop := (1 ≤ c.table ∧ c.table ≤ 10) ∧ c.entry < tableEntries c.table ∧ c.field < tableFields c.table

/-- Both cursors point at fields that exist (R166). -/
def CursorsExist (s : State) : Prop := s.observeCursor.exists' ∧ s.commissionCursor.exists'

/-- Every step from a state with this property leads to a state with it. -/
def KeptByStep (P : State → Prop) : Prop := ∀ s t : State, P s → step s = .next t → P t

/-! ## Requests in statements -/

/-- The Service Handler takes request r: the supply is up, fewer than 4 replies wait, r stands at the head of the request queue, its
command code is `code`, and its level code is that of `level` (R161, R162). -/
structure Takes (s : State) (r : RequestFrame) (code : Nat) (level : Level) : Prop where
  powered : s.powered = true
  room : s.replyQueue.length < 4
  head : s.requests.head? = some r
  code : r.code.toNat = code
  level : Level.ofCode r.level.toNat = some level

/-- A COMMISSION request that the permit line allows (R162, checks 2 and 3). -/
structure TakesCommission (s : State) (r : RequestFrame) (code : Nat) : Prop where
  takes : Takes s r code .commission
  permit : s.permit = true

/-- A request of either level for a command whose least level is OBSERVE, permitted as R162 asks. -/
structure TakesObserve (s : State) (r : RequestFrame) (code : Nat) (level : Level) : Prop where
  takes : Takes s r code level
  permit : level = .commission → s.permit = true

/-- s after its head request r has been taken and answered, with no other effect (R161). -/
def State.answered (s : State) (r : RequestFrame) (result : ResultCode) (wrapped : Bool) (data : List Int) : State :=
  s.dropRequest.postReply r.tag result wrapped data

/-- t's Event Queue is s's with this one event posted (R167). -/
def Posted (s t : State) (kind : EventKind) (sec : Option SecId) (node : Option NodeId) (pos : Option Pos) (value : Option Int)
    (detail : Nat) : Prop :=
  t.events = (s.post kind sec node pos s.cycle value detail).events ∧
    t.nextSequence = (s.post kind sec node pos s.cycle value detail).nextSequence

/-- t's Event Queue is u's with the CLAMP events of one issue to section i posted: in position order, one for every member whose clamp flag
is NONE in s and HIGH or LOW in t, with the value before any clamp (R55). -/
def ClampsPosted (s u t : State) (i : SecId) (value : RecId → Int) : Prop :=
  let v := (s.members i).foldl (fun v r =>
    if (s.member r).clamp = .none ∧ (t.member r).clamp ≠ .none then
      v.post .clamp (some i) (s.member r).node (s.member r).position s.cycle (some (value r))
        (if (t.member r).clamp = .high then 1 else 2)
    else v) u
  t.events = v.events ∧ t.nextSequence = v.nextSequence

/-- Section i of s enters BYPASS, SELECTED or FAULTED, and t is the state after it (R24, R25): fault code, release target, the start-pending
and step-pending marks, trims, held offsets and clamp flags as R25 leaves them, a held engine freed with CAL_RESULT of this abandonment
detail, STATE_CHANGE with this state code and cause code, and nothing else. -/
def EntersPassing (s t : State) (i : SecId) (st : SectionState) (fault : Option Cause) (code cause abandon : Nat)
    (node : Option NodeId) (pos : Option Pos) : Prop :=
  t.sec i = { s.sec i with
    state := st, faultCode := fault, releaseTarget := none, startPending := false
    profile := { (s.sec i).profile with stepPending := false } } ∧
  (∀ j, j ≠ i → t.sec j = s.sec j) ∧
  (∀ r ∈ s.members i, t.member r = { s.member r with trim := 0, held := 0, clamp := .none }) ∧
  (∀ r, r ∉ s.members i → t.member r = s.member r) ∧
  t.engine = (if s.engine.holder = some i then Engine.free else s.engine) ∧
  Posted (if s.engine.holder = some i then s.post .calResult (some i) none none s.cycle (some (abandon : Int)) 3 else s) t
    .stateChange (some i) node pos (some (code : Int)) cause ∧
  t = { s with
    sections := t.sections, pool := t.pool, engine := t.engine, events := t.events, nextSequence := t.nextSequence }

/-- Section i of s enters FROZEN from TRIAL, and t is the state after it (R26, R44): the held offsets of R57, the start-pending and
step-pending marks 0, the freeze record of this cause and source index, STATE_CHANGE with this cause code, and nothing else. -/
def EntersFrozen (s t : State) (i : SecId) (cause : Cause) (source : Option Nat) (causeCode : Nat) (node : Option NodeId)
    (pos : Option Pos) : Prop :=
  let q := (s.sec i).profile
  t.sec i = { s.sec i with
    state := .frozen, startPending := false, profile := { q with stepPending := false }
    freeze := ⟨some cause, source, s.cycle, q.segmentIndex, q.cycleCount, q.pass, q.offset⟩ } ∧
  (∀ j, j ≠ i → t.sec j = s.sec j) ∧
  (∀ r ∈ s.members i, t.member r = { s.member r with held := (s.member r).issued - (s.sec i).issueBase }) ∧
  (∀ r, r ∉ s.members i → t.member r = s.member r) ∧
  Posted s t .stateChange (some i) node pos (some 3) causeCode ∧
  t = { s with sections := t.sections, pool := t.pool, events := t.events, nextSequence := t.nextSequence }

/-- Section i of s enters RELEASING with this target, and t is the state after it (R24, R26): the held offsets of R57, the start-pending
and step-pending marks 0, a held engine freed with CAL_RESULT of this abandonment detail, STATE_CHANGE with this cause code, and nothing
else. -/
def EntersReleasing (s t : State) (i : SecId) (target : ReleaseTarget) (causeCode abandon : Nat) (node : Option NodeId)
    (pos : Option Pos) : Prop :=
  t.sec i = { s.sec i with
    state := .releasing, releaseTarget := some target, startPending := false
    profile := { (s.sec i).profile with stepPending := false } } ∧
  (∀ j, j ≠ i → t.sec j = s.sec j) ∧
  (∀ r ∈ s.members i, t.member r = { s.member r with held := (s.member r).issued - (s.sec i).issueBase }) ∧
  (∀ r, r ∉ s.members i → t.member r = s.member r) ∧
  t.engine = (if s.engine.holder = some i then Engine.free else s.engine) ∧
  Posted (if s.engine.holder = some i then s.post .calResult (some i) none none s.cycle (some (abandon : Int)) 3 else s) t
    .stateChange (some i) node pos (some 5) causeCode ∧
  t = { s with
    sections := t.sections, pool := t.pool, engine := t.engine, events := t.events, nextSequence := t.nextSequence }

/-! ## Feedback sets in statements -/

/-- The set of section i of s is evaluated for a cycle, and t is the state after it: the evaluated flag is set and the last evaluated set
recorded; in SELECTED and the rewriting states the set is handed to the Share Balancer, the Section Monitor and the engine in turn (R82,
R83). That only the state found counts, whatever let the set become complete, is the model's choice (log entry 33). -/
def SetEvaluated (s t : State) (i : SecId) (setCycle : Word16) (complete : Bool) : Prop :=
  let u := s.modSec i fun x => { x with
    evaluated := true
    lastSet := some ⟨setCycle, complete,
      if complete then none else ((s.members i).find? fun r => !(s.memberFeedback r).fresh).map s.memberNode⟩ }
  ((s.sec i).state = .bypass ∨ (s.sec i).state = .faulted → t = u) ∧
    ((s.sec i).state ≠ .bypass → (s.sec i).state ≠ .faulted →
      t = ((u.balance i complete).monitorSet i setCycle).engineTakes i complete)

/-- t is s after the work that follows a feedback value just written for node n (R81). A member's FAULT flag faults its section with
DRIVE_FAULT where the section can fault (R41), then the set is evaluated as complete where every member is fresh and it was not evaluated
before (R82), and then the watch points see the value. -/
def FeedbackFollowed (s t : State) (n : NodeId) (src : OccurrenceSource) : Prop :=
  ∃ u v : State,
    ((s.drive n).inSection = none → v = s) ∧
    (∀ i, (s.drive n).inSection = some i →
      let faults : Prop :=
        (s.drive n).feedback.status.getLsbD 4 = true ∧ (s.sec i).state ≠ .bypass ∧ (s.sec i).state ≠ .faulted
      let completes : Prop := (u.sec i).evaluated = false ∧ ∀ r ∈ u.members i, (u.memberFeedback r).fresh = true
      (faults → EntersPassing s u i .faulted (some .driveFault) 6 12 2 (some n) (s.positionOf n)) ∧ (¬ faults → u = s) ∧
      (completes → SetEvaluated u v i s.cycle true) ∧ (¬ completes → v = u)) ∧
    t = v.feedbackSeen n src

/-- A table, entry and field that exist: the first three checks of R164. -/
def Addressed (table entry field : Int) : Prop :=
  (1 ≤ table ∧ table ≤ 10) ∧ (0 ≤ entry ∧ entry < tableEntries table.toNat) ∧ 0 ≤ field ∧ field < tableFields table.toNat

/-- The profile range of section i meets the condition of SELECT: start plus length at most 128, and no segment of it of kind NONE
(R28, R99). -/
def ProfileValid (s : State) (i : SecId) : Prop :=
  (s.sec i).cfg.profileStart + (s.sec i).cfg.profileLength ≤ 128 ∧
    ∀ k, (s.sec i).cfg.profileStart ≤ k → k < (s.sec i).cfg.profileStart + (s.sec i).cfg.profileLength →
      (s.segment k).kind ≠ .none

/-! ## Tables of the service commands -/

/-- A service command as R162 lists it. -/
structure ServiceRow where
  command : Instr
  code : Nat
  least : Level
  fewest : Nat
  most : Nat

/-- The table of R162: command, code, least level, the operand counts it accepts. -/
def serviceRows : List ServiceRow :=
  [⟨.read, 1, .observe, 4, 4⟩, ⟨.write, 2, .commission, 4, 16⟩, ⟨.readIndexed, 3, .observe, 5, 5⟩,
    ⟨.setCursor, 4, .observe, 3, 3⟩, ⟨.readNext, 5, .observe, 1, 1⟩, ⟨.writeNext, 6, .commission, 1, 16⟩,
    ⟨.readEvents, 7, .observe, 1, 1⟩, ⟨.peekEvents, 8, .observe, 1, 1⟩, ⟨.restart, 9, .commission, 0, 0⟩] ++
  [⟨.select, 16, .commission, 1, 1⟩, ⟨.deselect, 17, .commission, 1, 1⟩, ⟨.start, 18, .commission, 1, 1⟩,
    ⟨.freeze, 19, .commission, 1, 1⟩, ⟨.continueTrial, 20, .commission, 1, 1⟩, ⟨.stepRun, 21, .commission, 1, 1⟩,
    ⟨.stopTrial, 22, .commission, 1, 1⟩, ⟨.abort, 23, .commission, 1, 1⟩, ⟨.calibrate, 24, .commission, 1, 1⟩,
    ⟨.trigger, 25, .commission, 1, 1⟩, ⟨.clearFault, 26, .commission, 1, 1⟩] ++
  [⟨.addMember, 32, .commission, 3, 3⟩, ⟨.removeMember, 33, .commission, 2, 2⟩, ⟨.makeLead, 34, .commission, 2, 2⟩,
    ⟨.injectFeedback, 35, .commission, 4, 4⟩, ⟨.latchSnapshot, 40, .observe, 1, 1⟩, ⟨.readSnapshot, 41, .observe, 2, 2⟩,
    ⟨.captureStart, 48, .observe, 0, 0⟩, ⟨.captureStop, 49, .observe, 0, 0⟩, ⟨.triggerCapture, 50, .observe, 0, 0⟩]

/-- A commissioning command and the states it is taken in (section 2.4). -/
structure CommissioningRow where
  command : Instr
  code : Nat
  takenIn : List SectionState

/-- The table of section 2.4: command, code, states it is taken in. -/
def commissioningRows : List CommissioningRow :=
  [⟨.select, 16, [.bypass]⟩, ⟨.deselect, 17, [.selected]⟩, ⟨.start, 18, [.selected]⟩, ⟨.freeze, 19, [.trial]⟩,
    ⟨.continueTrial, 20, [.frozen]⟩, ⟨.stepRun, 21, [.frozen]⟩, ⟨.stopTrial, 22, [.trial, .frozen]⟩,
    ⟨.abort, 23, [.trial, .frozen, .calibrating, .releasing]⟩, ⟨.calibrate, 24, [.selected]⟩, ⟨.trigger, 25, [.trial]⟩,
    ⟨.clearFault, 26, [.faulted]⟩]

end Sys2Proof.Machine
end

