-- ==== Sys2Proof/Certificates/Slice0/Obligations.lean ====
section
/-! DEFINITION. The statements about the model, for the provers. -/

open Sys2Proof Sys2Proof.Machine

/-! ## The block -/

/-- A step runs the command at the front of the queue with the queue's rest, and idles on an empty queue (log entry 2). -/
def Obligations.StepRunsFrontCommandOrIdles : Prop :=
  (∀ (c : Instr) (rest : List Instr) (s : State), step { s with pending := c :: rest } = exec c { s with pending := rest }) ∧
    ∀ s : State, s.pending = [] → step s = .next s

/-- No command ends in a fault or a refusal, and none touches the queue of commands. That no command stops the block is the model's reading
(log entry 21); the queue of commands is the model's own (log entries 2 and 14). -/
def Obligations.EveryCommandAnswersNext : Prop :=
  ∀ (c : Instr) (s : State), ∃ t, exec c s = .next t ∧ t.pending = s.pending

/-! ## Power, permit, line timer -/

/-- After POWER_ON and after RESET_LINE every table reads its defaults, and the state that no table shows has its starting values
(R4, R8, R10, R16, R17, R20, R49, R78, R87, R97, R115, R128, R138, R140, R141, R142, R153, R154, R156, R158, R163, R166, R169). -/
def Obligations.PowerUpGivesStartingValues : Prop :=
  ∀ (straps : BitVec 6) (permit : Bool) (s : State), ∃ t,
    exec (.powerOn straps permit) s = .next t ∧
    (s.powered = true → exec (.resetLine straps permit) s = .next t) ∧
    (∀ i : SecId, (List.range 42).map (t.readField 1 i.val) =
      [0, 0, -1, -1, -1, -1, 0, 20000, 1100000, 0, 5000, 0, 0, 0, 0, 0, 500, 3, 100000, 50000, 150000, 200, 6, 0, 0, -1, -1,
        -1, -1, 0, 0, 0, 0, 0, 0, 0, 0, 0, 0, 0, 0, 0]) ∧
    (∀ r : RecId, (List.range 10).map (t.readField 2 r.val) = [0, -1, -1, -1, 1, 0, 0, 0, 0, 0]) ∧
    (∀ n : NodeId, (List.range 15).map (t.readField 3 n.val) =
      [(n.val : Int) + 1, 1, 16384, 0, -1, 0, 0, 0, 0, 0, 0, -1, 0, 0, 0]) ∧
    (∀ k : Fin 128, (List.range 3).map (t.readField 4 k.val) = [1, 0, 0]) ∧
    (∀ i : SecId, (List.range 21).map (t.readField 5 i.val) =
      [0, 5, 0, 0, 5, 0, 0, 5, 0, 500, 0, 0, 0, 0, 0, 0, 0, 0, 0, 0, 0]) ∧
    (∀ w : WatchId, (List.range 12).map (t.readField 6 w.val) = [0, 1, 0, 0, 0, 0, 0, 0, -1, 0, 0, 0]) ∧
    (∀ k : Fin 8, (List.range 4).map (t.readField 7 k.val) = [0, 1, 0, 0]) ∧
    (List.range 12).map (t.readField 8 0) = [0, 0, 0, 0, 64, 512, 0, 0, 0, 0, 0, 0] ∧
    (∀ e : Fin 1024, (List.range 4).map (t.readField 9 e.val) = [0, -1, 0, 0]) ∧
    (List.range 5).map (t.readField 10 0) =
      [if 1 ≤ straps.toNat ∧ straps.toNat ≤ 62 then (straps.toNat : Int) else 62, if permit then 1 else 0, 50, 1, 0] ∧
    (∀ i : SecId, (t.sec i).startPending = false ∧ (t.sec i).leadCommand = .idle ∧ (t.sec i).issueBase = 0 ∧
      (t.sec i).evaluated = false ∧ (t.sec i).lastSet = none ∧ (t.sec i).snapshot = none) ∧
    t.powered = true ∧ t.timer = .notStarted ∧ t.cycleOpen = false ∧ t.engine = Engine.free ∧
    t.events = [⟨0, .startUp, none, none, none, 0, none, 0, false⟩] ∧ t.nextSequence = 1 ∧
    t.observeCursor = ⟨1, 0, 0⟩ ∧ t.commissionCursor = ⟨1, 0, 0⟩ ∧
    t.requests = [] ∧ t.downstreamQueue = [] ∧ t.throughQueue = [] ∧ t.replyQueue = [] ∧ t.stationSlot = none

/-- POWER_LOSS takes the supply away and nothing else, and until power returns no command but POWER_ON changes anything (R160; that the
rest of the state is kept until then is the model's reading, log entry 15). -/
def Obligations.PowerLossStopsEverything : Prop :=
  (∀ s : State, s.powered = true → exec .powerLoss s = .next { s with powered := false }) ∧
    ∀ (c : Instr) (s : State), s.powered = false → (∀ straps permit, c ≠ .powerOn straps permit) → exec c s = .next s

/-- The permit line going inactive releases TRIAL, FROZEN and CALIBRATING sections with target BYPASS, retargets RELEASING sections,
leaves the others, frees the engine and queues a PERMIT event of value 0; going active it queues a PERMIT event of value 1 and
changes no section (R39, R57). The premises are the invariants of R36 and R9. -/
def Obligations.PermitChangeReleasesSections : Prop :=
  (∀ s : State, s.powered = true → s.permit = true → EngineHeld s → MembersConsistent s → ∃ t,
    exec (.permitLineChange false) s = .next t ∧
    (∀ i : SecId, (s.sec i).state = .trial ∨ (s.sec i).state = .frozen ∨ (s.sec i).state = .calibrating →
      t.sec i = { s.sec i with
        state := .releasing, releaseTarget := some .bypass, startPending := false
        profile := { (s.sec i).profile with stepPending := false } } ∧
      ∀ r ∈ s.members i, t.member r = { s.member r with held := (s.member r).issued - (s.sec i).issueBase }) ∧
    (∀ i : SecId, (s.sec i).state = .releasing → t.sec i = { s.sec i with releaseTarget := some .bypass }) ∧
    (∀ i : SecId, (s.sec i).state = .bypass ∨ (s.sec i).state = .selected ∨ (s.sec i).state = .faulted → t.sec i = s.sec i) ∧
    (∀ i : SecId, (s.sec i).state = .bypass ∨ (s.sec i).state = .selected ∨ (s.sec i).state = .faulted ∨
      (s.sec i).state = .releasing → ∀ r ∈ s.members i, t.member r = s.member r) ∧
    t.engine = Engine.free ∧
    (s.events.length ≤ 14 → ∃ e, t.events.getLast? = some e ∧
      (e.kind, e.inSection, e.node, e.position, e.cycle, e.value, e.detail) =
        (.permit, none, none, none, s.cycle, some 0, 0)) ∧
    t = { s with
      permit := false, sections := t.sections, pool := t.pool, engine := t.engine, events := t.events
      nextSequence := t.nextSequence }) ∧
  ∀ s : State, s.powered = true → s.permit = false →
    exec (.permitLineChange true) s =
      .next (State.post { s with permit := true } .permit none none none s.cycle (some 1) 0)

/-- A running line timer that expires faults every section in SELECTED or a rewriting state with LINE_LOST, with the entry effects of
R25, and leaves the others (R43, R158); a timer that is not running does not expire (the model's reading, log entry 19). The premise is the
invariant of R36. -/
def Obligations.LineTimerExpiryFaultsSections : Prop :=
  (∀ s : State, s.powered = true → s.timer = .running → EngineHeld s → ∃ t,
    exec .lineTimerExpiry s = .next t ∧ t.timer = .expired ∧
    (∀ i : SecId, (s.sec i).state ≠ .bypass → (s.sec i).state ≠ .faulted →
      t.sec i = { s.sec i with
        state := .faulted, faultCode := some .lineLost, releaseTarget := none, startPending := false
        profile := { (s.sec i).profile with stepPending := false } } ∧
      ∀ r ∈ s.members i, t.member r = { s.member r with trim := 0, held := 0, clamp := .none }) ∧
    (∀ i : SecId, (s.sec i).state = .bypass ∨ (s.sec i).state = .faulted → t.sec i = s.sec i) ∧
    (∀ r : RecId, (∀ i : SecId, r ∈ s.members i → (s.sec i).state = .bypass ∨ (s.sec i).state = .faulted) →
      t.member r = s.member r) ∧
    t.engine = Engine.free ∧
    t = { s with
      timer := .expired, sections := t.sections, pool := t.pool, engine := t.engine, events := t.events
      nextSequence := t.nextSequence }) ∧
  ∀ s : State, s.timer ≠ .running → exec .lineTimerExpiry s = .next s

/-! ## Frames of the link -/

/-- A used return is forwarded upstream while the through queue has room (R155, R156), writes its node's feedback record as R80 gives it,
leaves every other record, and does the work of R81: a FAULT flag faults the member's section where it can fault (R41), a set that all
members have completed is evaluated and handed on by the state found (R82), and the watch points see the value with source DRIVE. It touches
nothing of the link but the through queue. That a set which a membership change of the same cycle let become complete is handed on like any
other, once the section is in SELECTED, is the model's choice (log entry 33). -/
def Obligations.UsedReturnWritesFeedback : Prop :=
  ∀ (s : State) (f : ReturnFrame) (n : NodeId), s.powered = true → s.cycleOpen = true → f.cycle = s.cycle →
    f.node.toNat = n.val + 1 → n ≠ s.station → ∃ t,
    let written : Feedback :=
      { rawSpeed := f.speed.toInt
        rawLoad := f.load.toInt
        status := f.status.setWidth 5
        calibratedSpeed := clampTo (-8388607) 8388607
          (roundDiv (((s.drive n).direction.sign * f.speed.toInt - (s.drive n).offset) * (s.drive n).gain) 16384)
        signedLoad := clampTo (-32768) 32767 ((s.drive n).direction.sign * f.load.toInt)
        cycle := s.cycle
        source := some .link
        fresh := true
        missing := (s.drive n).feedback.missing
        ever := true }
    exec (.returnFrame f) s = .next t ∧
    (t.drive n).feedback = written ∧
    FeedbackFollowed (State.modDrive { s with throughQueue := t.throughQueue, readyCount := t.readyCount } n
      fun d => { d with feedback := written }) t n .drive ∧
    (∀ m : NodeId, m ≠ n → (t.drive m).feedback = (s.drive m).feedback) ∧
    (∀ m : NodeId, (t.drive m).direction = (s.drive m).direction ∧ (t.drive m).inSection = (s.drive m).inSection) ∧
    t.throughQueue =
      (if s.throughQueue.length < 8 then s.throughQueue ++ [⟨s.readyCount, .ret f⟩] else s.throughQueue) ∧
    t.readyCount = (if s.throughQueue.length < 8 then s.readyCount + 1 else s.readyCount) ∧
    (∀ i : SecId, t.members i = s.members i ∧ (t.sec i).cfg = (s.sec i).cfg) ∧
    t = { s with
      throughQueue := t.throughQueue, readyCount := t.readyCount, drives := t.drives, sections := t.sections, pool := t.pool
      engine := t.engine, watches := t.watches, capture := t.capture, events := t.events, nextSequence := t.nextSequence }

/-- A stale or foreign return, and another station's reply or station frame, are forwarded upstream unchanged while the through queue
has room, and change nothing else; a bad frame is discarded at the port and changes no state of the bridge (R79, R152, R155, R156). -/
def Obligations.UnusedAndBadFramesChangeNoState : Prop :=
  (∀ (p : Port) (bytes : List Byte) (s : State), exec (.badFrame p bytes) s = .next s) ∧
  (∀ (s : State) (f : ReturnFrame), s.powered = true →
    s.cycleOpen = false ∨ f.cycle ≠ s.cycle ∨ f.node.toNat = 0 ∨ 62 < f.node.toNat ∨ f.node.toNat = s.station.val + 1 →
    exec (.returnFrame f) s =
      .next (if s.throughQueue.length < 8 then
        { s with throughQueue := s.throughQueue ++ [⟨s.readyCount, .ret f⟩], readyCount := s.readyCount + 1 } else s)) ∧
  ∀ (s : State) (f : ForeignFrame), s.powered = true → f.frame.wf = true →
    exec (.otherStationFrame f) s =
      .next (if s.throughQueue.length < 8 then
        { s with throughQueue := s.throughQueue ++ [⟨s.readyCount, f.frame⟩], readyCount := s.readyCount + 1 } else s)

/-- A request for this station waits in the request queue, or is discarded while 4 wait; a request for another station goes to the
downstream queue unchanged, or is discarded from forwarding while 8 wait (R154). -/
def Obligations.ServiceRequestIsQueuedOrForwarded : Prop :=
  ∀ (s : State) (f : RequestFrame), s.powered = true → f.operands.length ≤ 16 →
    (f.station.toNat = s.station.val + 1 →
      exec (.serviceRequest f) s =
        .next (if s.requests.length < 4 then { s with requests := s.requests ++ [f] } else s)) ∧
    (f.station.toNat ≠ s.station.val + 1 →
      exec (.serviceRequest f) s =
        .next (if s.downstreamQueue.length < 8 then { s with downstreamQueue := s.downstreamQueue ++ [.request f] } else s))

/-- The upstream port sends the frame that became ready first among the heads of its two queues and, while the line timer runs, the station
frame, either of two that became ready together (whatever the free value is), and nothing where none waits (R156); while the timer does not
run it sends no station frame (R157), and one left in the slot stays there (the model's reading, log entry 31). The downstream port sends the
head of its queue (R154). -/
def Obligations.PortsSendEarliestFrame : Prop :=
  (∀ (s : State) (x : ReadyFrame), s.powered = true → s.throughQueue.head? = some x →
    (∀ y, s.replyQueue.head? = some y → x.ready < y.ready) →
    (s.timer = .running → ∀ y, s.stationSlot = some y → x.ready < y.ready) →
    exec .upstreamSend s = .next { s with upstreamSent := some x.frame, throughQueue := s.throughQueue.tail }) ∧
  (∀ (s : State) (x : ReadyFrame), s.powered = true → s.replyQueue.head? = some x →
    (∀ y, s.throughQueue.head? = some y → x.ready < y.ready) →
    (s.timer = .running → ∀ y, s.stationSlot = some y → x.ready < y.ready) →
    exec .upstreamSend s = .next { s with upstreamSent := some x.frame, replyQueue := s.replyQueue.tail }) ∧
  (∀ (s : State) (x : ReadyFrame), s.powered = true → s.timer = .running → s.stationSlot = some x →
    (∀ y, s.throughQueue.head? = some y → x.ready < y.ready) → (∀ y, s.replyQueue.head? = some y → x.ready < y.ready) →
    exec .upstreamSend s = .next { s with upstreamSent := some x.frame, stationSlot := none }) ∧
  (∀ s : State, s.powered = true → s.throughQueue = [] → s.replyQueue = [] → s.timer ≠ .running ∨ s.stationSlot = none →
    exec .upstreamSend s = .next s) ∧
  (∀ s : State, s.powered = true → s.throughQueue ≠ [] ∨ s.replyQueue ≠ [] ∨ s.timer = .running ∧ s.stationSlot ≠ none → ∃ t x,
    exec .upstreamSend s = .next t ∧ t.upstreamSent = some x.frame ∧
    (s.throughQueue.head? = some x ∨ s.replyQueue.head? = some x ∨ s.timer = .running ∧ s.stationSlot = some x) ∧
    (∀ y, s.throughQueue.head? = some y ∨ s.replyQueue.head? = some y ∨ s.timer = .running ∧ s.stationSlot = some y →
      x.ready ≤ y.ready) ∧
    (s.timer ≠ .running → t.stationSlot = s.stationSlot)) ∧
  (∀ (s : State) (f : Frame) (rest : List Frame), s.powered = true → s.downstreamQueue = f :: rest →
    exec .downstreamSend s = .next { s with downstreamQueue := rest, downstreamSent := some f }) ∧
  ∀ s : State, s.powered = true → s.downstreamQueue = [] → exec .downstreamSend s = .next s

/-! ## The dispatch -/

/-- An accepted DISPATCH does its work in this order (R40, R52, R102, R130, R134, R144, R153): cycle number and line timer; the line-override check
of each section; the LINE occurrences; the close of the sets; the line references; the engine; the profiles; the references; the forwarded
entries; the ISSUED occurrences; the requests left for after the references; the frame downstream while there is room; the sweep; the station frame
into the slot (R154, R157, R158). In the forwarded frame every entry of a node whose reference was formed, a repeated one too, carries that node's
speed, and all else is as received (R56, R154). A freeze request taken late enters FROZEN in TRIAL and a release request RELEASING in TRIAL and
FROZEN; in another state they move nothing (R44, R45, R102, R132). The model's choices: the engine's work after the line references (log entry
7), and the ISSUED occurrences before the late requests (log entry 32); of the two kinds of late request either may come first (log entry 6). -/
def Obligations.DispatchCompletes : Prop :=
  (∀ (u : State) (i : SecId) (source : Option Nat) (node : Option NodeId) (pos : Option Pos),
    (∀ row ∈ [(Cause.watch, 1), (Cause.gate, 4), (Cause.stepDone, 5)],
      let v := u.takeLate (.freeze i row.1 source node pos)
      ((u.sec i).state = .trial → EntersFrozen u v i row.1 source row.2 node pos) ∧ ((u.sec i).state ≠ .trial → v = u)) ∧
    let v := u.takeLate (.release i .profileEnd)
    ((u.sec i).state = .trial ∨ (u.sec i).state = .frozen → EntersReleasing u v i .selected 7 0 none none) ∧
    ((u.sec i).state ≠ .trial → (u.sec i).state ≠ .frozen → v = u)) ∧
  ∀ (s : State) (f : DispatchFrame), s.powered = true → f.entries.length ≤ 62 →
    let sections : List SecId := [0, 1, 2, 3, 4, 5, 6, 7, 8, 9, 10, 11, 12, 13, 14, 15]
    let previous := if s.cycleOpen then some s.cycle else none
    let overridden := sections.foldl (State.overrideStep f.entries)
      { s with cycle := f.cycle, timer := .running, timerPeriod := s.timeout }
    let line := f.entries.foldl Watched.lineEntry ⟨overridden, []⟩
    let referred := sections.foldl (State.lineStep f.entries) (line.state.closeSets previous)
    let profiles := sections.foldl (fun (a : Advanced) i =>
      ⟨(a.state.advanceProfile i).state, a.late ++ (a.state.advanceProfile i).late⟩) ⟨referred.engineDispatch, []⟩
    let formed := sections.foldl (Formed.takeSection f.entries) ⟨profiles.state, [], []⟩
    let g : DispatchFrame := { f with entries := f.entries.map (Entry.rewrite formed.rewrites) }
    let issued := g.entries.zipIdx.foldl (Watched.issuedEntry formed.skips) ⟨formed.state, []⟩
    let watch := line.late ++ issued.late
    (∀ (k : Nat) (e e' : Entry), f.entries[k]? = some e → g.entries[k]? = some e' →
      ((∀ w ∈ formed.rewrites, e.node.toNat ≠ w.node.val + 1) → e' = e) ∧
      (MembersConsistent s → ∀ w ∈ formed.rewrites, e.node.toNat = w.node.val + 1 → e' = { e with speed := w.speed })) ∧
    ∃ t requested : State,
    exec (.dispatch f) s = .next t ∧
    (profiles.late = [] ∨ watch = [] → requested = (profiles.late ++ watch).foldl State.takeLate issued.state) ∧
    (let drawn := { issued.state with freeDraws := s.freeDraws + 1 }
     profiles.late ≠ [] → watch ≠ [] → requested = (profiles.late ++ watch).foldl State.takeLate drawn ∨
      requested = (watch ++ profiles.late).foldl State.takeLate drawn) ∧
    (let queued := { requested with
      downstreamQueue := if s.downstreamQueue.length < 8 then s.downstreamQueue ++ [Frame.dispatch g] else s.downstreamQueue }
     let swept := queued.takeSweep ⟨f.entries, g.entries, previous⟩
     t = { swept with stationSlot := some ⟨s.readyCount, .station swept.stationFrame⟩, readyCount := s.readyCount + 1 }) ∧
    t.cycle = f.cycle ∧ t.timer = .running ∧ t.timerPeriod = s.timeout ∧ t.cycleOpen = true ∧
    t.downstreamQueue = (if s.downstreamQueue.length < 8 then s.downstreamQueue ++ [.dispatch g] else s.downstreamQueue) ∧
    g.headerNode = f.headerNode ∧ g.cycle = f.cycle ∧
    g.entries.map (fun e => (e.node, e.command)) = f.entries.map (fun e => (e.node, e.command)) ∧
    t.stationSlot = some ⟨s.readyCount, .station t.stationFrame⟩ ∧ t.readyCount = s.readyCount + 1 ∧
    (s.cycleOpen = true → (∀ n : NodeId, (t.drive n).feedback.fresh = false) ∧ ∀ i : SecId, (t.sec i).evaluated = false) ∧
    (∀ i : SecId, t.members i = s.members i ∧ (t.sec i).cfg = (s.sec i).cfg ∧ (t.sec i).snapshot = (s.sec i).snapshot) ∧
    (∀ n : NodeId, (t.drive n).direction = (s.drive n).direction ∧ (t.drive n).inSection = (s.drive n).inSection) ∧
    t = { s with
      cycle := t.cycle, timer := t.timer, timerPeriod := t.timerPeriod, cycleOpen := t.cycleOpen, sections := t.sections
      pool := t.pool, drives := t.drives, watches := t.watches, engine := t.engine, capture := t.capture, buffer := t.buffer
      events := t.events, nextSequence := t.nextSequence, downstreamQueue := t.downstreamQueue, stationSlot := t.stationSlot
      readyCount := t.readyCount, freeDraws := t.freeDraws }

/-- While no section is in a rewriting state, a DISPATCH is forwarded exactly as it was received (R61, R154); in every state a dispatch entry
carrying QUICK_STOP or COAST leaves the part with the speed reference that the line controller gave it, and a section in a rewriting state with
such an entry for a member ends the dispatch in BYPASS (R40). The check of one section: with no such entry, or outside the rewriting states, it
changes nothing; else the section enters BYPASS with cause LINE_OVERRIDE, naming the node and position of the first such entry, and a held engine
is freed with detail OVERRIDE (R25, R40). The premises are the invariants of R36 and R9. -/
def Obligations.QuickStopAndCoastPassUnchanged : Prop :=
  (∀ (s : State) (f : DispatchFrame), s.powered = true → f.entries.length ≤ 62 → s.downstreamQueue.length < 8 → EngineHeld s →
    MembersConsistent s → ∃ (t : State) (g : DispatchFrame),
    exec (.dispatch f) s = .next t ∧ t.downstreamQueue = s.downstreamQueue ++ [.dispatch g] ∧
    ((∀ i : SecId, (s.sec i).state.rewriting = false) → g = f) ∧
    ∀ (k : Nat) (e : Entry), f.entries[k]? = some e → e.command = .quickStop ∨ e.command = .coast →
      g.entries[k]? = some e ∧
      ∀ (i : SecId) (r : RecId) (n : NodeId), (s.sec i).state.rewriting = true → r ∈ s.members i → (s.member r).node = some n →
        e.node.toNat = n.val + 1 → (t.sec i).state = .bypass) ∧
  ∀ (s : State) (entries : List Entry) (i : SecId), MembersConsistent s →
    let t := State.overrideStep entries s i
    let overrides (e : Entry) (r : RecId) (n : NodeId) : Prop := (e.command = .quickStop ∨ e.command = .coast) ∧
      r ∈ s.members i ∧ (s.member r).node = some n ∧ e.node.toNat = n.val + 1
    ((s.sec i).state.rewriting = false ∨ (∀ e ∈ entries, ∀ r n, ¬ overrides e r n) → t = s) ∧
    ∀ (k : Nat) (e : Entry) (r : RecId) (n : NodeId), (s.sec i).state.rewriting = true → entries[k]? = some e → overrides e r n →
      (∀ (j : Nat) (e' : Entry), j < k → entries[j]? = some e' → ∀ r' n', ¬ overrides e' r' n') →
      EntersPassing s t i .bypass none 0 9 1 (some n) (s.member r).position

/-- Every entry of a forwarded DISPATCH is as received, or names a member of a section and carries a reference that, taken before the
direction sign, lies within ±Vmax of that section (R54, R56, R154). The premises are the invariants of R9 and R4. -/
def Obligations.WrittenReferencesWithinAbsoluteLimit : Prop :=
  ∀ (s : State) (f : DispatchFrame), s.powered = true → f.entries.length ≤ 62 → s.downstreamQueue.length < 8 →
    MembersConsistent s → ConfigInRange s → ∃ (t : State) (g : DispatchFrame),
    exec (.dispatch f) s = .next t ∧ t.downstreamQueue = s.downstreamQueue ++ [.dispatch g] ∧
    ∀ (k : Nat) (e e' : Entry), f.entries[k]? = some e → g.entries[k]? = some e' → e' = e ∨
      ∃ (i : SecId) (r : RecId) (n : NodeId), r ∈ s.members i ∧ (s.member r).node = some n ∧ e.node.toNat = n.val + 1 ∧
        -(s.sec i).cfg.absoluteLimit ≤ (s.drive n).direction.sign * e'.speed.toInt ∧
        (s.drive n).direction.sign * e'.speed.toInt ≤ (s.sec i).cfg.absoluteLimit

/-- A section found in TRIAL. Where no entry of a member stops a watch point, every member gets B + d + P + T clamped to the window and then to
±Vmax, with its clamp flag, and the start-pending mark is cleared (R30, R53, R54). Where one does, the first REFERENCE point in the order of
members, of their entries and then of points takes the candidate as a hit, WATCH_HIT is posted and the WATCH trigger signalled, the section enters
FROZEN with the offsets of the previous dispatch, and every member gets B + O clamped to ±Vmax (R57, R58, R62, R133, R135). Where no REFERENCE
point stops, the first COMMAND point in that order does the same with the drive command: R133 asks for its freeze before the entry is written, and
that it is found so is the model's choice (log entry 10). That the trigger is signalled after WATCH_HIT and before the freeze, so that a
CAPTURE_DONE stands before the STATE_CHANGE, is too (log entry 7). A CLAMP event is posted for each flag that leaves NONE (R55), and every
entry of a member carries its reference times its direction (R56). The premise is the invariant of R9. -/
def Obligations.TrialIssuesTrialReferences : Prop :=
  ∀ (s : State) (i : SecId) (entries : List Entry) (ws : List Rewrite) (ks : List (WatchId × Nat)),
    (s.sec i).state = .trial → MembersConsistent s →
    let x := s.sec i
    let a := Formed.takeSection entries ⟨s, ws, ks⟩ i
    let t := a.state
    let sum (r : RecId) : Int :=
      x.lineReference + roundDiv (x.lineReference * x.cfg.drawOffset) 1000000 + x.profile.offset + (s.member r).trim
    let window (r : RecId) : Int := clampTo (x.lineReference - x.cfg.trimWindow) (x.lineReference + x.cfg.trimWindow) (sum r)
    let candidate (r : RecId) : Int := clampTo (-x.cfg.absoluteLimit) x.cfg.absoluteLimit (window r)
    let stops (f : WatchField) (r : RecId) (k : Nat) (w : WatchId) (v : Int) : Prop :=
      let p := s.watch w
      p.action = .stopOnMatch ∧ (s.member r).node = some p.node ∧ p.field = f ∧ (p.source = .any ∨ p.source = .only .issued) ∧
        (∃ e, entries[k]? = some e ∧ e.node.toNat = p.node.val + 1 ∧
          (f = .reference ∧ v = candidate r ∨ f = .command ∧ v = e.command.code)) ∧
        ((p.mode = .equal ∧ v = p.value) ∨ (p.mode = .above ∧ p.value < v) ∨ (p.mode = .below ∧ v < p.value))
    (∀ r, r ∉ s.members i → t.member r = s.member r) ∧
    a.rewrites = ws ++ ((s.members i).map fun r =>
      ⟨s.memberNode r, BitVec.ofInt 24 ((s.memberDirection r).sign * (t.member r).issued)⟩) ∧
    ((∀ f, ∀ r ∈ s.members i, ∀ k w v, ¬ stops f r k w v) →
      (∀ r ∈ s.members i, t.member r = { s.member r with
        issued := candidate r
        clamp :=
          if window r < -x.cfg.absoluteLimit then .low else if x.cfg.absoluteLimit < window r then .high
          else if sum r < x.lineReference - x.cfg.trimWindow then .low
          else if x.lineReference + x.cfg.trimWindow < sum r then .high else .none }) ∧
      t.sec i = { x with startPending := false, issueBase := x.lineReference } ∧ t.watches = s.watches ∧ a.skips = ks ∧
      ClampsPosted s s t i sum) ∧
    ∀ (f : WatchField) (m : Nat) (r : RecId) (k : Nat) (w : WatchId) (v : Int), (s.members i)[m]? = some r → stops f r k w v →
      (∀ w' v', w' < w → ¬ stops f r k w' v') → (∀ k' w' v', k' < k → ¬ stops f r k' w' v') →
      (∀ (j : Nat) (q : RecId), j < m → (s.members i)[j]? = some q → ∀ k' w' v', ¬ stops f q k' w' v') →
      (f = .command → ∀ q ∈ s.members i, ∀ k' w' v', ¬ stops .reference q k' w' v') →
      let p := s.watch w
      let held (q : RecId) : Int := (s.member q).issued - x.issueBase
      let value (q : RecId) : Int := x.lineReference + held q
      let u := (s.post .watchHit (some i) (some p.node) (s.member r).position s.cycle (some v) w.val).signal .watch w.val
      (∀ q ∈ s.members i, t.member q = { s.member q with
        held := held q, issued := clampTo (-x.cfg.absoluteLimit) x.cfg.absoluteLimit (value q)
        clamp :=
          if value q < -x.cfg.absoluteLimit then .low else if x.cfg.absoluteLimit < value q then .high else .none }) ∧
      t.sec i = { x with
        state := .frozen, startPending := false, issueBase := x.lineReference
        profile := { x.profile with stepPending := false }
        freeze := ⟨some .watch, some w.val, s.cycle, x.profile.segmentIndex, x.profile.cycleCount, x.profile.pass,
          x.profile.offset⟩ } ∧
      t.watch w = { p with
        lastSeen := v, lastSeenFlag := true, hitCount := if p.hitCount < 65535 then p.hitCount + 1 else 65535
        latchValue := v, latchCycle := s.cycle, latchSource := some .issued } ∧
      (∀ w', w' ≠ w → t.watch w' = s.watch w') ∧ a.skips = ks ++ [(w, k)] ∧ t.capture = u.capture ∧
      ClampsPosted s (u.post .stateChange (some i) (some p.node) (s.member r).position s.cycle (some 3) 1) t i value

/-- A section found in FROZEN issues B + O and one found in CALIBRATING the set point of the engine's phase, both clamped to ±Vmax, with the
clamp flags, a CLAMP event for each flag that leaves NONE, and every entry of a member carrying its reference times its direction; a section
found in BYPASS, SELECTED or FAULTED writes nothing and records for each member with an entry the line's value divided by the direction (R54,
R55, R56, R58, R60, R61). The premise of the events is the invariant of R9. -/
def Obligations.OtherStatesIssueTheirReferences : Prop :=
  ∀ (s : State) (i : SecId) (entries : List Entry) (ws : List Rewrite) (ks : List (WatchId × Nat)),
    let x := s.sec i
    let a := Formed.takeSection entries ⟨s, ws, ks⟩ i
    let t := a.state
    let issues (value : RecId → Int) : Prop :=
      (∀ r ∈ s.members i, t.member r = { s.member r with
        issued := clampTo (-x.cfg.absoluteLimit) x.cfg.absoluteLimit (value r)
        clamp := if value r < -x.cfg.absoluteLimit then .low else if x.cfg.absoluteLimit < value r then .high else .none }) ∧
      (∀ r, r ∉ s.members i → t.member r = s.member r) ∧
      a.rewrites = ws ++ ((s.members i).map fun r =>
        ⟨s.memberNode r, BitVec.ofInt 24 ((s.memberDirection r).sign * (t.member r).issued)⟩) ∧
      (MembersConsistent s → ClampsPosted s s t i value)
    (x.state = .frozen → issues fun r => x.lineReference + (s.member r).held) ∧
    (x.state = .calibrating → issues fun _ =>
      if s.engine.phase = some .settleHigh ∨ s.engine.phase = some .sampleHigh ∨ s.engine.phase = some .compute
        then x.cfg.calHigh else x.cfg.calLow) ∧
    (x.state.rewriting = false → a.rewrites = ws ∧ ∀ r ∈ s.members i,
      t.member r = { s.member r with
        issued := match firstEntry entries (s.memberNode r) with
          | some e => clampTo (-8388608) 8388607 ((s.memberDirection r).sign * e.speed.toInt)
          | none => (s.member r).issued }) ∧
    (x.state ≠ .releasing → x.state ≠ .trial → t.sec i = { x with issueBase := x.lineReference } ∧ a.skips = ks)

/-- A section found in RELEASING moves every held offset toward 0 by the release rate and issues B + O clamped to ±Vmax, with the clamp flags, a
CLAMP event for each flag that leaves NONE, and every entry of a member carrying its reference times its direction; where every offset is then 0
it enters its release target with RELEASE_DONE, else it stays (R47, R54, R55, R56, R59). That it enters it right after its own entries is the
model's choice (log entry 7). The premises are the invariants of R9 and R36. -/
def Obligations.ReleasingDecaysAndEnds : Prop :=
  ∀ (s : State) (i : SecId) (entries : List Entry) (ws : List Rewrite) (ks : List (WatchId × Nat)),
    MembersConsistent s → EngineHeld s → (s.sec i).state = .releasing →
    let x := s.sec i
    let a := Formed.takeSection entries ⟨s, ws, ks⟩ i
    let t := a.state
    let moved (r : RecId) : Int :=
      let o := (s.member r).held
      if -x.cfg.releaseRate ≤ o ∧ o ≤ x.cfg.releaseRate then 0
      else if 0 < o then o - x.cfg.releaseRate else o + x.cfg.releaseRate
    let value (r : RecId) : Int := x.lineReference + moved r
    ∃ u : State,
      (∀ r ∈ s.members i, u.member r = { s.member r with
        held := moved r, issued := clampTo (-x.cfg.absoluteLimit) x.cfg.absoluteLimit (value r)
        clamp := if value r < -x.cfg.absoluteLimit then .low else if x.cfg.absoluteLimit < value r then .high else .none }) ∧
      (∀ r, r ∉ s.members i → u.member r = s.member r) ∧
      u.sec i = { x with issueBase := x.lineReference } ∧ (∀ j, j ≠ i → u.sec j = s.sec j) ∧
      ClampsPosted s s u i value ∧
      u = { s with sections := u.sections, pool := u.pool, events := u.events, nextSequence := u.nextSequence } ∧
      a.rewrites = ws ++ ((s.members i).map fun r =>
        ⟨s.memberNode r, BitVec.ofInt 24 ((s.memberDirection r).sign * (u.member r).issued)⟩) ∧ a.skips = ks ∧
      ((∃ r ∈ s.members i, moved r ≠ 0) → t = u) ∧
      ((∀ r ∈ s.members i, moved r = 0) → ∀ target, x.releaseTarget = some target →
        EntersPassing u t i target.state none (match target with | .bypass => 0 | .selected => 1) 11 0 none none)

/-- At a dispatch a section takes B, the held lead command and a line miss count of 0 from the first entry of its lead; without one it holds
them and raises the count, up to 15, and a monitored section whose count reaches the miss limit is faulted with LINE_ENTRY_LOST, giving up
the engine if it holds it; an empty section changes nothing (R25, R42, R50, R51). That a count which stands at 15 and is raised again counts
as raised is the model's reading (log entry 8). -/
def Obligations.LineReferenceIsTakenOrMissed : Prop :=
  ∀ (s : State) (i : SecId) (entries : List Entry),
    (s.members i = [] → State.lineStep entries s i = s) ∧
    ∀ (lead : RecId) (rest : List RecId), s.members i = lead :: rest →
      (∀ e, entries.find? (fun e => e.node.toNat = (s.memberNode lead).val + 1) = some e →
        (State.lineStep entries s i).sec i = { s.sec i with
          lineReference := clampTo (-8388608) 8388607 ((s.memberDirection lead).sign * e.speed.toInt)
          leadCommand := e.command, lineMiss := 0 } ∧
        State.lineStep entries s i = { s with sections := (State.lineStep entries s i).sections }) ∧
      (entries.find? (fun e => e.node.toNat = (s.memberNode lead).val + 1) = none →
        let miss := if (s.sec i).lineMiss < 15 then (s.sec i).lineMiss + 1 else 15
        let t := State.lineStep entries s i
        if (s.sec i).state ≠ .bypass ∧ (s.sec i).state ≠ .faulted ∧ (s.sec i).cfg.missLimit ≤ miss then
          t.sec i = { s.sec i with
            lineMiss := miss, state := .faulted, faultCode := some .lineEntryLost, releaseTarget := none, startPending := false
            profile := { (s.sec i).profile with stepPending := false } } ∧
          (∀ r ∈ s.members i, t.member r = { s.member r with trim := 0, held := 0, clamp := .none }) ∧
          t.engine = (if s.engine.holder = some i then Engine.free else s.engine) ∧
          Posted (if s.engine.holder = some i then s.post .calResult (some i) none none s.cycle (some 2) 3 else s) t
            .stateChange (some i) (s.member lead).node (s.member lead).position (some 6) 14
        else t.sec i = { s.sec i with lineMiss := miss } ∧ t = { s with sections := t.sections })

/-- The close of the sets at a dispatch: the missing count of a member becomes 0 if it was fresh and else rises, up to 15; other nodes keep
theirs; a set that was not evaluated is recorded as the last evaluated set; and then every fresh flag and evaluated flag is clear (R78,
R83). One section's close: a set not yet evaluated is evaluated now and handed on; then the counts; then the first member whose raised count is
at or above the miss limit faults a section that can fault with FEEDBACK_LOST, naming it (R42); then the engine counts a set closed incomplete
as skipped. That a count which stands at 15 counts as raised is the model's reading (log entry 8); that a set which a membership change of the
same cycle let become complete is handed on by the state found, like any other, is its choice (log entry 33). The first dispatch closes nothing.
The premise is the invariant of R9. -/
def Obligations.CloseCountsMissingAndOpensSets : Prop :=
  (∀ (s : State) (c : Word16), MembersConsistent s →
    let t := s.closeSets (some c)
    (∀ (n : NodeId) (i : SecId), (s.drive n).inSection = some i → (t.drive n).feedback =
      { (s.drive n).feedback with
        fresh := false
        missing := if (s.drive n).feedback.fresh then 0
          else if (s.drive n).feedback.missing < 15 then (s.drive n).feedback.missing + 1 else 15 }) ∧
    (∀ n : NodeId, (s.drive n).inSection = none → (t.drive n).feedback = { (s.drive n).feedback with fresh := false }) ∧
    (∀ i : SecId, (t.sec i).evaluated = false) ∧
    (∀ i : SecId, s.members i ≠ [] → (s.sec i).evaluated = false → (t.sec i).lastSet =
      some ⟨c, (s.members i).all fun r => (s.memberFeedback r).fresh,
        ((s.members i).find? fun r => !(s.memberFeedback r).fresh).map s.memberNode⟩) ∧
    (∀ i : SecId, s.members i = [] ∨ (s.sec i).evaluated = true → (t.sec i).lastSet = (s.sec i).lastSet) ∧
    t = (([0, 1, 2, 3, 4, 5, 6, 7, 8, 9, 10, 11, 12, 13, 14, 15] : List SecId).foldl (State.closeSet c) s).openSets) ∧
  (∀ s : State, s.closeSets none = { s with cycleOpen := true }) ∧
  (∀ (s : State) (c : Word16) (i : SecId), s.members i = [] → State.closeSet c s i = s) ∧
  ∀ (s : State) (c : Word16) (i : SecId), MembersConsistent s → s.members i ≠ [] → ∃ u v w : State,
    let complete := (s.members i).all fun r => (s.memberFeedback r).fresh
    let raised (r : RecId) : Nat := if (u.memberFeedback r).missing < 15 then (u.memberFeedback r).missing + 1 else 15
    let lost (r : RecId) : Prop := (u.memberFeedback r).fresh = false ∧ (s.sec i).cfg.missLimit ≤ raised r
    let faults : Prop := (u.sec i).state ≠ .bypass ∧ (u.sec i).state ≠ .faulted
    ((s.sec i).evaluated = true → u = s) ∧ ((s.sec i).evaluated = false → SetEvaluated s u i c complete) ∧
    v = { u with drives := v.drives } ∧
    (∀ r ∈ s.members i, v.drive (s.memberNode r) = { u.drive (s.memberNode r) with
      feedback := { u.memberFeedback r with missing := if (u.memberFeedback r).fresh then 0 else raised r } }) ∧
    (∀ n : NodeId, (∀ r ∈ s.members i, s.memberNode r ≠ n) → v.drive n = u.drive n) ∧
    (∀ (k : Nat) (r : RecId), (s.members i)[k]? = some r → lost r →
      (∀ (j : Nat) (q : RecId), j < k → (s.members i)[j]? = some q → ¬ lost q) → faults →
      EntersPassing v w i .faulted (some .feedbackLost) 6 13 2 (s.member r).node (s.member r).position) ∧
    (¬ faults ∨ (∀ r ∈ s.members i, ¬ lost r) → w = v) ∧
    State.closeSet c s i = if (s.sec i).evaluated = false ∧ complete = false then w.engineSkip i else w

/-- The profile offset at cycle k of a segment of length n: the level in HOLD and STEP; in RAMP the integer nearest to
Ps + (level - Ps) × k / n, halves away from zero, which at k = n is the level; in SQUARE Ps + level for the first half, rounded up, and
Ps - level after it; each clamped to ±200,000 (R104, R105). -/
def Obligations.ProfileOffsetOfEachSegmentKind : Prop :=
  ∀ (g : Segment) (ps : Int) (k : Nat), 1 ≤ k → k ≤ g.length →
    (g.kind = .hold ∨ g.kind = .step → g.offsetAt ps k = clampTo (-200000) 200000 g.level) ∧
    (g.kind = .ramp → ∃ q : Int,
      let exact : Int := ps * g.length + (g.level - ps) * k
      g.offsetAt ps k = clampTo (-200000) 200000 q ∧ 2 * (q * g.length - exact).natAbs ≤ g.length ∧
      (2 * (q * g.length - exact).natAbs = g.length → exact.natAbs < (q * g.length).natAbs) ∧ (k = g.length → q = g.level)) ∧
    (g.kind = .square → g.offsetAt ps k =
      clampTo (-200000) 200000 (if 2 * k ≤ g.length + 1 then ps + g.level else ps - g.level))

/-- The gate is open exactly where every member's last status has RUNNING and not AT_LIMIT (R103). The Profile Generator at a dispatch that
finds section i in TRIAL with its profile not finished: a closed gate holds the position, raises
the gate-closed count and asks for a GATE freeze at the gate hold limit; an open gate clears the count and either goes one cycle on, or, at
the last cycle, ends the segment: STEP and SQUARE return P to Ps, the zero-cross count and the fired flag become 0, the SEGMENT_BOUNDARY trigger
of the section is signalled, and the next segment begins at cycle 1, or stops at count 0 with a STEP_DONE request where a step run ends (R102,
R103, R106, R110, R124, R147). Nothing else changes, and a section in another state or with a finished profile is not advanced. -/
def Obligations.ProfileAdvancesOneCycle : Prop :=
  (∀ (s : State) (i : SecId), (s.sec i).state ≠ .trial ∨ (s.sec i).profile.finished = true →
    (s.advanceProfile i).state = s ∧ (s.advanceProfile i).late = []) ∧
  ∀ (s : State) (i : SecId), (s.sec i).state = .trial → (s.sec i).profile.finished = false →
    let x := s.sec i
    let q := x.profile
    let g := s.segment (x.cfg.profileStart + q.segmentIndex)
    let a := s.advanceProfile i
    let ended := if g.kind = .step ∨ g.kind = .square then q.startOffset else q.offset
    let ends : Prop := s.gateOpen i = true ∧ g.length ≤ q.cycleCount ∧ q.segmentIndex + 1 < x.cfg.profileLength
    (∀ j, j ≠ i → a.state.sec j = s.sec j) ∧
    (s.gateOpen i = false ∨ q.cycleCount < g.length → a.state = { s with sections := a.state.sections }) ∧
    (ends → a.state = { s.signal .segmentBoundary i.val with sections := a.state.sections }) ∧
    (s.gateOpen i = true ↔ ∀ r ∈ s.members i,
      (s.memberFeedback r).status.getLsbD 1 = true ∧ (s.memberFeedback r).status.getLsbD 2 = false) ∧
    (s.gateOpen i = false →
      a.state.sec i = { x with profile := { q with gateClosed := min 65535 (q.gateClosed + 1) } } ∧
      a.late = (if x.cfg.gateHoldLimit ≠ 0 ∧ x.cfg.gateHoldLimit ≤ min 65535 (q.gateClosed + 1)
        then [.freeze i .gate none none none] else [])) ∧
    (s.gateOpen i = true → q.cycleCount < g.length →
      a.state.sec i = { x with
        profile := { q with
          gateClosed := 0, cycleCount := q.cycleCount + 1, offset := g.offsetAt q.startOffset (q.cycleCount + 1) } } ∧
      a.late = []) ∧
    (s.gateOpen i = true → g.length ≤ q.cycleCount → q.segmentIndex + 1 < x.cfg.profileLength → q.stepPending = false →
      a.state.sec i = { x with
        monitor := { x.monitor with zeroCross := 0, fired := false }
        profile := { q with
          gateClosed := 0, segmentIndex := q.segmentIndex + 1, startOffset := ended, cycleCount := 1
          offset := (s.segment (x.cfg.profileStart + (q.segmentIndex + 1))).offsetAt ended 1 } } ∧
      a.late = []) ∧
    (s.gateOpen i = true → g.length ≤ q.cycleCount → q.segmentIndex + 1 < x.cfg.profileLength → q.stepPending = true →
      a.state.sec i = { x with
        monitor := { x.monitor with zeroCross := 0, fired := false }
        profile := { q with
          gateClosed := 0, segmentIndex := q.segmentIndex + 1, startOffset := ended, cycleCount := 0, offset := ended } } ∧
      a.late = [.freeze i .stepDone none none none])

/-- The end of the last segment of a pass: the zero-cross count and the fired flag become 0 and the SEGMENT_BOUNDARY trigger of the section is
signalled; a further pass begins at segment 0; after the last pass PROFILE_END is posted behind the trigger, HOLD and RELEASE finish the profile
with P held, RELEASE with a release request, and RELOAD begins pass 0 again; nothing else changes (R106, R107, R108, R109, R110, R124, R147).
That the PROFILE_END of RELOAD carries the P it ended
at is the model's reading (log entry 9). -/
def Obligations.ProfileEndAction : Prop :=
  ∀ (s : State) (i : SecId), (s.sec i).state = .trial → (s.sec i).profile.finished = false → s.gateOpen i = true →
    let x := s.sec i
    let q := x.profile
    let g := s.segment (x.cfg.profileStart + q.segmentIndex)
    let first := s.segment x.cfg.profileStart
    let a := s.advanceProfile i
    let ended := if g.kind = .step ∨ g.kind = .square then q.startOffset else q.offset
    let begins (pass : Nat) : ProfilePosition := { q with
      gateClosed := 0, segmentIndex := 0, pass := pass, startOffset := ended
      cycleCount := if q.stepPending then 0 else 1, offset := if q.stepPending then ended else first.offsetAt ended 1 }
    let stepDone : List LateRequest := if q.stepPending then [.freeze i .stepDone none none none] else []
    g.length ≤ q.cycleCount → x.cfg.profileLength ≤ q.segmentIndex + 1 →
    let finished : ProfilePosition := { q with gateClosed := 0, finished := true, offset := ended }
    let stands (p : ProfilePosition) : Prop :=
      a.state.sec i = { x with monitor := { x.monitor with zeroCross := 0, fired := false }, profile := p }
    let signalled := s.signal .segmentBoundary i.val
    (∀ j, j ≠ i → a.state.sec j = s.sec j) ∧
    (q.pass < x.cfg.repeatCount → stands (begins (q.pass + 1)) ∧ a.late = stepDone ∧
      a.state = { signalled with sections := a.state.sections }) ∧
    (x.cfg.repeatCount ≤ q.pass →
      (x.cfg.endAction = .hold → stands finished ∧ a.late = stepDone) ∧
      (x.cfg.endAction = .reload → stands (begins 0) ∧ a.late = stepDone) ∧
      (x.cfg.endAction = .release → stands finished ∧ a.late = [.release i .profileEnd]) ∧
      let code : Nat := match x.cfg.endAction with | .hold => 0 | .reload => 1 | .release => 2
      a.state = { signalled.post .profileEnd (some i) none none s.cycle (some ended) code with sections := a.state.sections })

/-- The engine of a holder. At a dispatch that finds it in CALIBRATING: above the crawl limit it abandons the calibration; within it a settle
phase counts up to the settle cycles and then samples (R88, R89). A complete set of the holder in a sample phase adds its members' speeds to
the point's sums and counts; the 2^k-th begins SETTLE_HIGH or computes (R90). R90 also asks that the dispatch that opened the set's cycle was
taken in that same phase; that the phase at the set's completion is enough to judge this is the model's reading (log entry 12, DEDUCED). A set
of it closed incomplete in a sample phase is skipped, and more than 2^k skips of a point abandon the calibration (R91). Abandoned, the section
enters RELEASING, the engine is free, no calibration value is written and CAL_RESULT is posted before STATE_CHANGE (R94). -/
def Obligations.EngineSettlesOrAbandons : Prop :=
  ∀ (s : State) (i : SecId), s.engine.holder = some i →
    let x := s.sec i
    let e := s.engine
    let points : Nat := 2 ^ x.cfg.sampleExponent
    let abandoned (t : State) (detail : Int) : Prop :=
      (t.sec i).state = .releasing ∧ (t.sec i).releaseTarget = some .selected ∧ t.engine = Engine.free ∧ t.drives = s.drives ∧
      (∀ r ∈ s.members i, t.member r = { s.member r with held := (s.member r).issued - x.issueBase }) ∧
      Posted (s.post .calResult (some i) none none s.cycle (some detail) 3) t .stateChange (some i) none none (some 5) 8
    let leadSpeed : Int := match s.members i with
      | r :: _ => (s.memberFeedback r).calibratedSpeed
      | [] => 0
    let followerSpeed (j : Nat) : Int := match (s.members i)[j + 1]? with
      | some r => (s.memberDirection r).sign * (s.memberFeedback r).rawSpeed
      | none => 0
    let added (sums : Vector Int 3) : Vector Int 3 :=
      #v[sums[0] + followerSpeed 0, sums[1] + followerSpeed 1, sums[2] + followerSpeed 2]
    let low : Engine := { e with
      leadLow := e.leadLow + leadSpeed, followerLow := added e.followerLow, sampleCount := e.sampleCount + 1 }
    let high : Engine := { e with
      leadHigh := e.leadHigh + leadSpeed, followerHigh := added e.followerHigh, sampleCount := e.sampleCount + 1 }
    (x.state = .calibrating → x.cfg.crawlLimit < (x.lineReference.natAbs : Int) → abandoned s.engineDispatch 4) ∧
    (x.state = .calibrating → (x.lineReference.natAbs : Int) ≤ x.cfg.crawlLimit →
      (e.phase = some .settleLow ∨ e.phase = some .settleHigh → e.settleCount < x.cfg.settleCycles →
        s.engineDispatch = { s with engine := { e with settleCount := e.settleCount + 1 } }) ∧
      (e.phase = some .settleLow → x.cfg.settleCycles ≤ e.settleCount →
        s.engineDispatch = { s with engine := { e with phase := some .sampleLow, sampleCount := 0, skipCount := 0 } }) ∧
      (e.phase = some .settleHigh → x.cfg.settleCycles ≤ e.settleCount →
        s.engineDispatch = { s with engine := { e with phase := some .sampleHigh, sampleCount := 0, skipCount := 0 } }) ∧
      (e.phase = some .sampleLow ∨ e.phase = some .sampleHigh → s.engineDispatch = s)) ∧
    (e.phase = some .sampleLow → e.sampleCount + 1 < points → s.engineTakes i true = { s with engine := low }) ∧
    (e.phase = some .sampleLow → points ≤ e.sampleCount + 1 →
      s.engineTakes i true = { s with engine := { low with phase := some .settleHigh, settleCount := 0 } }) ∧
    (e.phase = some .sampleHigh → e.sampleCount + 1 < points → s.engineTakes i true = { s with engine := high }) ∧
    (e.phase = some .sampleHigh → points ≤ e.sampleCount + 1 →
      s.engineTakes i true = State.finishCal { s with engine := { high with phase := some .compute } } i) ∧
    (e.phase ≠ some .sampleLow → e.phase ≠ some .sampleHigh → s.engineTakes i true = s ∧ s.engineSkip i = s) ∧
    (s.engineTakes i false = s ∧ ∀ j complete, j ≠ i → s.engineTakes j complete = s ∧ s.engineSkip j = s) ∧
    (x.state = .calibrating → e.phase = some .sampleLow ∨ e.phase = some .sampleHigh →
      (e.skipCount + 1 ≤ points → s.engineSkip i = { s with engine := { e with skipCount := e.skipCount + 1 } }) ∧
      (points < e.skipCount + 1 → abandoned (s.engineSkip i) 5))

/-- The end of a calibration. Its result comes from the averages of the sums: a lead spread below 1,000 fails it, and so does the first follower
in position order whose spread, gain or offset is out of range; else every follower gets the gain and offset of R92. A result OK writes just
these into the followers' entries and no other; any other result writes nothing (R93). Then CAL_RESULT is posted, the section enters RELEASING
with target SELECTED, and the engine is free (R87, R92, R93, R94). The premise is the invariant of R9. -/
def Obligations.CalibrationWritesAllOrNothing : Prop :=
  (∀ (s : State) (i : SecId), s.engine.holder = some i → MembersConsistent s →
    let t := s.finishCal i
    ((t.sec i).state = .releasing ∧ (t.sec i).releaseTarget = some .selected ∧ t.engine = Engine.free) ∧
    (∀ why, s.computeCal i = .error why → t.drives = s.drives ∧
      Posted (s.postCalResult i why) t .stateChange (some i) none none (some 5) 8) ∧
    (∀ vs, s.computeCal i = .ok vs →
      vs.map CalValues.node = (s.members i).tail.map s.memberNode ∧
      (∀ v ∈ vs, t.drive v.node = { s.drive v.node with gain := v.gain, offset := v.offset }) ∧
      (∀ n : NodeId, (∀ v ∈ vs, v.node ≠ n) → t.drive n = s.drive n) ∧
      Posted (s.post .calResult (some i) none none s.cycle (some (vs.length : Int)) 0) t .stateChange (some i) none none
        (some 5) 8)) ∧
  (∀ (s : State) (i : SecId) (lead : RecId) (followers : List RecId), s.members i = lead :: followers → followers.length ≤ 3 →
    let average (total : Int) : Int := roundDiv total (2 ^ (s.sec i).cfg.sampleExponent)
    let yl := average s.engine.leadLow
    let yh := average s.engine.leadHigh
    let follower (j : Fin 3) (r : RecId) : Except CalResult CalValues := followerCal (s.memberNode r) (s.member r).position
      (average s.engine.followerLow[j]) (average s.engine.followerHigh[j]) yl yh
    (yh - yl < 1000 → s.computeCal i = .error (.spread (s.memberNode lead) (s.member lead).position (yh - yl))) ∧
    (1000 ≤ yh - yl → ∀ (j : Fin 3) (r : RecId) (why : CalResult), followers[j.val]? = some r → follower j r = .error why →
      (∀ (j' : Fin 3) (r' : RecId), j' < j → followers[j'.val]? = some r' → ∃ v, follower j' r' = .ok v) →
      s.computeCal i = .error why) ∧
    (1000 ≤ yh - yl → ∀ vs : List CalValues, vs.length = followers.length →
      (∀ (j : Fin 3) (r : RecId), followers[j.val]? = some r → ∃ v, vs[j.val]? = some v ∧ follower j r = .ok v) →
      s.computeCal i = .ok vs)) ∧
  ∀ (n : NodeId) (p : Option Pos) (xl xh yl yh : Int),
    let gain := roundDiv (16384 * (yh - yl)) (xh - xl)
    let offset := xl - roundDiv (yl * 16384) gain
    followerCal n p xl xh yl yh =
      if xh - xl < 1000 then .error (.spread n p (xh - xl))
      else if gain < 12288 ∨ 20480 < gain ∨ offset < -100000 ∨ 100000 < offset then .error (.range n p gain)
      else .ok ⟨n, gain, offset⟩

/-- The Share Balancer stores every member's imbalance, load minus weighted target, at every set; it updates the trims at a complete set in
TRIAL that is not start-pending with Kb above 0, by the step of R69 after the anti-windup of R70, less the mean, clamped to ±Tlim (R71), and
leaves them otherwise (R66, R67, R68). The premise is the invariant of R9. -/
def Obligations.BalancerStoresImbalancesAndTrims : Prop :=
  ∀ (s : State) (i : SecId) (complete : Bool), MembersConsistent s →
    let x := s.sec i
    let load (r : RecId) : Int := (s.memberFeedback r).signedLoad
    let total : Int := ((s.members i).map load).sum
    let weights : Int := ((s.members i).map fun r => ((s.member r).weight : Int)).sum
    let imbalance (r : RecId) : Int := load r - roundDiv (total * (s.member r).weight) weights
    let raw (r : RecId) : Int := (-(imbalance r * x.cfg.shareGain)).tdiv 16
    let used (r : RecId) : Int :=
      if ((s.member r).clamp = .high ∧ 0 < raw r) ∨ ((s.member r).clamp = .low ∧ raw r < 0) then 0 else raw r
    let provisional (r : RecId) : Int := (s.member r).trim + used r
    let mean : Int := (((s.members i).map provisional).sum).tdiv (s.members i).length
    let updates : Prop := complete = true ∧ x.state = .trial ∧ x.startPending = false ∧ 0 < x.cfg.shareGain
    (∀ r ∈ s.members i, (s.balance i complete).member r = { s.member r with
      imbalance := imbalance r
      trim := if updates then clampTo (-x.cfg.trimLimit) x.cfg.trimLimit (provisional r - mean) else (s.member r).trim }) ∧
    (∀ r, r ∉ s.members i → (s.balance i complete).member r = s.member r) ∧
    s.balance i complete = { s with pool := (s.balance i complete).pool }

/-! ## Monitors, watch points, capture -/

/-- One evaluation of a limit follows the table of R119, and one zero-cross step the table of R124, the count saturating at 255. The Section
Monitor takes the three limits and then the zero-cross step (R117), which is taken on the lead's speed error in TRIAL and not start-pending
alone; a crossing whose count reaches the oscillation limit while the fired flag is 0 sets the flag, posts OSCILLATION and makes the action's
request, which enters FROZEN, RELEASING or BYPASS, or moves nothing for EVENT (R44, R45, R46, R125). -/
def Obligations.LimitAndZeroCrossTables : Prop :=
  (∀ (l : Limit) (v : Int),
    let exceeds : Prop := l.threshold ≠ 0 ∧ l.threshold < v
    (l.state = .inside → exceeds → l.counter + 1 < l.dwell → l.evaluate v = ({ l with counter := l.counter + 1 }, .stays)) ∧
    (l.state = .inside → exceeds → l.dwell ≤ l.counter + 1 →
      l.evaluate v = ({ l with counter := l.counter + 1, state := .outside }, .out)) ∧
    (l.state = .inside → ¬ exceeds → l.evaluate v = ({ l with counter := 0 }, .stays)) ∧
    (l.state = .outside → exceeds → l.evaluate v = (l, .stays)) ∧
    (l.state = .outside → ¬ exceeds → l.evaluate v = ({ l with state := .inside, counter := 0 }, .back))) ∧
  (∀ (m : Monitor) (e : Int), 0 ≤ m.band → m.zeroCross ≤ 255 →
    let raised := if m.zeroCross = 255 then 255 else m.zeroCross + 1
    (m.band < e → m.sign = .none → m.crossing e = ({ m with sign := .positive }, false)) ∧
    (m.band < e → m.sign = .negative → m.crossing e = ({ m with sign := .positive, zeroCross := raised }, true)) ∧
    (e < -m.band → m.sign = .none → m.crossing e = ({ m with sign := .negative }, false)) ∧
    (e < -m.band → m.sign = .positive → m.crossing e = ({ m with sign := .negative, zeroCross := raised }, true)) ∧
    (m.band < e → m.sign = .positive → m.crossing e = (m, false)) ∧
    (e < -m.band → m.sign = .negative → m.crossing e = (m, false)) ∧
    (-m.band ≤ e → e ≤ m.band → m.crossing e = (m, false))) ∧
  (∀ (s : State) (i : SecId) (c : Word16), s.monitorSet i c =
    ((((s.evaluateLimit i c .speedError).evaluateLimit i c .imbalance).evaluateLimit i c .loadHigh).zeroCrossStep i c)) ∧
  ∀ (s : State) (i : SecId) (c : Word16),
    let x := s.sec i
    let t := s.zeroCrossStep i c
    (s.members i = [] ∨ x.state ≠ .trial ∨ x.startPending = true → t = s) ∧
    ∀ (lead : RecId) (rest : List RecId), s.members i = lead :: rest → x.state = .trial → x.startPending = false →
      let step := x.monitor.crossing ((s.memberFeedback lead).calibratedSpeed - (s.member lead).issued)
      let m := step.1
      let node := (s.member lead).node
      let fires : Prop := step.2 = true ∧ m.oscillationLimit ≠ 0 ∧ m.oscillationLimit ≤ m.zeroCross ∧ m.fired = false
      (¬ fires → t.sec i = { x with monitor := m } ∧ t = { s with sections := t.sections }) ∧
      (fires →
        let code : Nat := match m.oscillationAction with | .event => 0 | .freeze => 1 | .release => 2 | .abort => 3
        let u := (s.modSec i fun x => { x with monitor := { m with fired := true } }).post .oscillation (some i) node (some 0) c
          (some (m.zeroCross : Int)) code
        (m.oscillationAction = .event → t = u) ∧
        (m.oscillationAction = .freeze → EntersFrozen u t i .oscillation none 3 node (some 0)) ∧
        (m.oscillationAction = .release → EntersReleasing u t i .selected 3 0 node (some 0)) ∧
        (m.oscillationAction = .abort → EntersPassing u t i .bypass none 0 10 0 none none))

/-- A limit of any of the three kinds whose compared value, the largest over the members, takes it OUTSIDE posts LIMIT_OUT for the first member
that gives the value, signals the LIMIT trigger of its section, and then makes its action's request: FREEZE in TRIAL enters FROZEN, RELEASE in
TRIAL and FROZEN enters RELEASING with target SELECTED, ABORT in a rewriting state enters BYPASS, each with all its entry effects (R25, R26, R44,
R45, R46, R57), and EVENT, or a request in another state, moves nothing; a limit that comes back INSIDE posts LIMIT_IN and makes no request; any
other evaluation changes the limit's counter alone (R118, R119, R120, R121, R147). An empty section is not evaluated. That the trigger is
signalled after the event and before the request is the model's choice (log entry 7). -/
def Obligations.LimitOutsidePostsAndRequests : Prop :=
  (∀ (s : State) (i : SecId) (setCycle : Word16) (kind : LimitKind), s.members i = [] → s.evaluateLimit i setCycle kind = s) ∧
  ∀ (s : State) (i : SecId) (setCycle : Word16) (kind : LimitKind) (k : Nat) (r : RecId), (s.members i)[k]? = some r →
    let x := s.sec i
    let compared (q : RecId) : Int := match kind with
      | .speedError => ((s.memberFeedback q).calibratedSpeed - (s.member q).issued).natAbs
      | .imbalance => ((s.member q).imbalance).natAbs
      | .loadHigh => (s.memberFeedback q).signedLoad
    (∀ (j : Nat) (q : RecId), (s.members i)[j]? = some q → compared q ≤ compared r ∧ (j < k → compared q < compared r)) →
    let code : Nat := match kind with | .speedError => 0 | .imbalance => 1 | .loadHigh => 2
    let l := x.monitor.limit kind
    let t := s.evaluateLimit i setCycle kind
    let exceeds : Prop := l.threshold ≠ 0 ∧ l.threshold < compared r
    let limitBecomes (l' : Limit) : State := s.modSec i fun x => { x with monitor := x.monitor.setLimit kind l' }
    (l.state = .inside → exceeds → l.counter + 1 < l.dwell → t = limitBecomes { l with counter := l.counter + 1 }) ∧
    (l.state = .inside → ¬ exceeds → t = limitBecomes { l with counter := 0 }) ∧
    (l.state = .outside → exceeds → t = s) ∧
    (l.state = .outside → ¬ exceeds →
      t = (limitBecomes { l with state := .inside, counter := 0 }).post .limitIn (some i) (s.member r).node (s.member r).position
        setCycle (some (compared r)) code) ∧
    (l.state = .inside → exceeds → l.dwell ≤ l.counter + 1 →
      let u := ((limitBecomes { l with counter := l.counter + 1, state := .outside }).post .limitOut (some i) (s.member r).node
        (s.member r).position setCycle (some (compared r)) code).signal .limit i.val
      (l.action = .event → t = u) ∧
      (l.action = .freeze → x.state = .trial → EntersFrozen u t i .limit (some code) 2 none none) ∧
      (l.action = .freeze → x.state ≠ .trial → t = u) ∧
      (l.action = .release → x.state = .trial ∨ x.state = .frozen → EntersReleasing u t i .selected 2 0 none none) ∧
      (l.action = .release → x.state ≠ .trial → x.state ≠ .frozen → t = u) ∧
      (l.action = .abort → x.state.rewriting = true → EntersPassing u t i .bypass none 0 10 0 none none) ∧
      (l.action = .abort → x.state.rewriting = false → t = u))

/-- A watch point sees the values that an event presents of its node and field, from a source it accepts, unless it is OFF (R130, R131). Every
occurrence becomes its last-seen value. MONITOR hits at each, STOP_ON_CHANGE where the value differs from one seen before, STOP_ON_MATCH where the
comparison is true; a hit counts and fills the display latch. A stopping hit posts WATCH_HIT, signals the WATCH trigger and asks for a freeze of
the node's section if that is in TRIAL: taken at once, but for a STOP_ON_CHANGE hit on a LINE or ISSUED value, whose request is left until the
references are formed (R132, R133, R136). A point does not see the written value of the entry it stopped on (R135). The model's choices: the
trigger is signalled after WATCH_HIT and before the freeze request, so that a CAPTURE_DONE stands before the STATE_CHANGE (log entry 7); each
point looks once at an entry, in the order 0 to 3, whichever field it watches (log entry 11); an ISSUED match in TRIAL has been taken by the stop
test before, for COMMAND points too, so no dispatch comes here with one (log entry 10). -/
def Obligations.WatchOccurrenceHitsAndLatches : Prop :=
  (∀ (a : Watched) (n : NodeId) (src : OccurrenceSource) (values : List (WatchField × Int)) (change : ChangeStop) (w : WatchId),
    let p := a.state.watch w
    let sees : Prop := p.action ≠ .off ∧ p.node = n ∧ (p.source = .any ∨ p.source = .only src)
    (¬ sees ∨ values.find? (fun x => x.1 = p.field) = none → a.point n src values change w = a) ∧
    ∀ f v, sees → values.find? (fun x => x.1 = p.field) = some (f, v) → a.point n src values change w =
      ⟨(a.state.occurrence w v src change).1, a.late ++ (a.state.occurrence w v src change).2⟩) ∧
  (∀ (s : State) (w : WatchId) (v : Int) (src : OccurrenceSource) (change : ChangeStop), (s.watch w).action ≠ .off →
    let p := s.watch w
    let a := s.occurrence w v src change
    let t := a.1
    let stopping : Prop := (p.action = .stopOnChange ∧ p.lastSeenFlag = true ∧ v ≠ p.lastSeen) ∨
      (p.action = .stopOnMatch ∧ ((p.mode = .equal ∧ v = p.value) ∨ (p.mode = .above ∧ p.value < v) ∨
        (p.mode = .below ∧ v < p.value)))
    let hit : Prop := p.action = .monitor ∨ stopping
    let u := (s.post .watchHit (s.drive p.node).inSection (some p.node) (s.positionOf p.node) s.cycle (some v) w.val).signal
      .watch w.val
    (hit → t.watch w = { p with
      lastSeen := v, lastSeenFlag := true, hitCount := if p.hitCount < 65535 then p.hitCount + 1 else 65535
      latchValue := v, latchCycle := s.cycle, latchSource := some src }) ∧
    (¬ hit → t.watch w = { p with lastSeen := v, lastSeenFlag := true }) ∧
    (∀ w', w' ≠ w → t.watch w' = s.watch w') ∧
    (¬ stopping → a.2 = [] ∧ t = { s with watches := t.watches }) ∧
    (stopping → t.capture = u.capture ∧
      ((∀ i, (s.drive p.node).inSection = some i → (s.sec i).state ≠ .trial) →
        a.2 = [] ∧ t = { u with watches := t.watches }) ∧
      ∀ i, (s.drive p.node).inSection = some i → (s.sec i).state = .trial →
        (p.action = .stopOnChange → change = .late →
          a.2 = [.freeze i .watch (some w.val) (some p.node) (s.positionOf p.node)] ∧ t = { u with watches := t.watches }) ∧
        (p.action = .stopOnMatch ∨ change = .now → a.2 = [] ∧
          EntersFrozen { u with watches := t.watches } t i .watch (some w.val) 1 (some p.node) (s.positionOf p.node)))) ∧
  (∀ (a : Watched) (e : Entry) (n : NodeId), e.node.toNat = n.val + 1 → a.lineEntry e = ([0, 1, 2, 3] : List WatchId).foldl
    (fun b w => b.point n .line [(.reference, clampTo (-8388607) 8388607 ((a.state.drive n).direction.sign * e.speed.toInt)),
      (.command, e.command.code)] .late w) a) ∧
  (∀ (a : Watched) (skips : List (WatchId × Nat)) (e : Entry) (k : Nat) (n : NodeId), e.node.toNat = n.val + 1 → ∃ v : Int,
    (a.state.recordOf n = none → v = (a.state.drive n).direction.sign * e.speed.toInt) ∧
    (∀ r, a.state.recordOf n = some r → v = (a.state.member r).issued) ∧
    a.issuedEntry skips (e, k) = ([0, 1, 2, 3] : List WatchId).foldl
      (fun b w => if skips.find? (fun x => x.2 = k) = some (w, k) then b
        else b.point n .issued [(.reference, v), (.command, e.command.code)] .late w) a) ∧
  (∀ (a : Watched) (skips : List (WatchId × Nat)) (e : Entry) (k : Nat), (∀ n : NodeId, e.node.toNat ≠ n.val + 1) →
    a.lineEntry e = a ∧ a.issuedEntry skips (e, k) = a) ∧
  ∀ (s : State) (n : NodeId) (src : OccurrenceSource), s.feedbackSeen n src = (([0, 1, 2, 3] : List WatchId).foldl
    (fun (b : Watched) w => b.point n src [(.actualSpeed, (s.drive n).feedback.calibratedSpeed), (.load, (s.drive n).feedback.signedLoad),
      (.status, (s.drive n).feedback.status.toNat)] .now w) (⟨s, []⟩ : Watched)).state

/-- The capture. A record written reads back as the newest logical entry and the entries before it keep their records, in a full LOOP ring one
place earlier; a full buffer in ONCE and TRIGGERED mode takes none (R142, R144). A sweep is taken in RUNNING and POST alone: a record of every
active item, or of the next sequential one, each with the value and stale flag of R143, and it ends the run or the capture by mode (R144, R148,
R149, R150). A matching trigger follows the table of R147. Which feedback is current where cycle numbers repeat is the model's choice (log
entry 29), that a trigger to DONE within a dispatch leaves its sweep out too (log entry 28), and what sweeps remaining holds at a FULL end its
reading (log entry 18). The premises are the invariants of R9 and R142. -/
def Obligations.CaptureBufferReadsBackWhatIsWritten : Prop :=
  (∀ (s : State) (r : CaptureRecord), BufferWithinBounds s →
    let t := s.writeRecord r
    (s.capture.recordCount < 1024 →
      t.logicalRecord s.capture.recordCount = r ∧ t.capture.recordCount = s.capture.recordCount + 1 ∧
      ∀ e, e < 1024 → e ≠ s.capture.recordCount → t.logicalRecord e = s.logicalRecord e) ∧
    (s.capture.recordCount = 1024 → s.capture.mode = .loop →
      t.logicalRecord 1023 = r ∧ t.capture.wrapped = true ∧ ∀ e, e < 1023 → t.logicalRecord e = s.logicalRecord (e + 1)) ∧
    (s.capture.recordCount = 1024 → s.capture.mode ≠ .loop → t = s) ∧
    t = { s with buffer := t.buffer, capture := t.capture }) ∧
  (∀ (s : State) (v : FrameView), (s.capture.state ≠ .running → s.capture.state ≠ .post → s.takeSweep v = s) ∧
    (s.capture.state = .running ∨ s.capture.state = .post → ∃ records : List CaptureRecord,
      let record (item : Nat) (c : CaptureItem) : CaptureRecord :=
        ⟨s.cycle, some item, (s.captureValue v c).1, (s.captureValue v c).2⟩
      let active := s.captureList.toList.takeWhile (·.enable)
      (s.capture.sweep = .simultaneous → records.length = active.length ∧
        ∀ (item : Nat) (c : CaptureItem), active[item]? = some c → records[item]? = some (record item c)) ∧
      (s.capture.sweep = .sequential → ∀ c, active[s.capture.nextItem]? = some c → records = [record s.capture.nextItem c]) ∧
      let w := records.foldl State.writeRecord s
      let swept : CaptureControl := { w.capture with
        nextItem := match s.capture.sweep with
          | .simultaneous => s.capture.nextItem
          | .sequential => if s.capture.nextItem + 1 < active.length then s.capture.nextItem + 1 else 0 }
      let counted : CaptureControl := { swept with remaining := s.capture.remaining - 1 }
      let t := s.takeSweep v
      let finished (c : CaptureControl) (detail : Nat) : Prop := t.capture = { c with state := .done } ∧
        Posted s t .captureDone none none none (some w.capture.recordCount) detail
      let goesOn (c : CaptureControl) : Prop := t.capture = c ∧ t.events = s.events ∧ t.nextSequence = s.nextSequence
      t = { s with buffer := w.buffer, capture := t.capture, events := t.events, nextSequence := t.nextSequence } ∧
      (s.capture.mode = .once → w.capture.recordCount = 1024 → finished swept 0) ∧
      (s.capture.mode = .once → w.capture.recordCount ≠ 1024 → goesOn swept) ∧
      (s.capture.mode = .triggered → w.capture.recordCount = 1024 → finished counted 0) ∧
      (s.capture.mode = .triggered → w.capture.recordCount ≠ 1024 →
        goesOn (if s.capture.remaining - 1 = 0 then { counted with state := .waiting } else counted)) ∧
      (s.capture.mode = .loop → s.capture.state = .running → goesOn swept) ∧
      (s.capture.mode = .loop → s.capture.state = .post → s.capture.remaining - 1 ≠ 0 → goesOn counted) ∧
      (s.capture.mode = .loop → s.capture.state = .post → s.capture.remaining - 1 = 0 → finished counted 1))) ∧
  (∀ (s : State) (v : FrameView) (c : CaptureItem), MembersConsistent s →
    let d := s.drive c.node
    let fb := d.feedback
    let value := s.captureValue v c
    let stale : Bool := decide (¬ (fb.ever = true ∧ v.previous = some fb.cycle))
    let first (entries : List Entry) : Option Entry := entries.find? fun e => e.node.toNat = c.node.val + 1
    let isMember (i : SecId) (r : RecId) : Prop := r ∈ s.members i ∧ (s.member r).node = some c.node
    let fed : Prop := c.source = .drive ∨ c.source = .calibrated
    (c.field = .reference → c.source = .line →
      (∀ e, first v.received = some e → value = (clampTo (-8388607) 8388607 (d.direction.sign * e.speed.toInt), false)) ∧
      (first v.received = none →
        (∀ i r, isMember i r → (s.members i).head? = some r → value = ((s.sec i).lineReference, true)) ∧
        ((∀ i r, isMember i r → (s.members i).head? ≠ some r) → value = (0, true)))) ∧
    (c.field = .reference → c.source = .issued →
      (∀ i r, isMember i r → value = ((s.member r).issued, false)) ∧
      (d.inSection = none →
        (∀ e, first v.forwarded = some e → value = (d.direction.sign * e.speed.toInt, false)) ∧
        (first v.forwarded = none → value = (0, true)))) ∧
    (c.field = .actualSpeed → c.source = .drive → value = (fb.rawSpeed, stale)) ∧
    (c.field = .actualSpeed → c.source = .calibrated → value = (fb.calibratedSpeed, stale)) ∧
    (c.field = .load → c.source = .drive → value = (fb.rawLoad, stale)) ∧
    (c.field = .load → c.source = .calibrated → value = (fb.signedLoad, stale)) ∧
    (c.field = .status → fed → value = ((fb.status.toNat : Int), stale)) ∧
    (c.field = .imbalance → (∀ i r, isMember i r → value = ((s.member r).imbalance, stale)) ∧
      (d.inSection = none → value = (0, true))) ∧
    (c.field = .trim → (∀ i r, isMember i r → value = ((s.member r).trim, false)) ∧ (d.inSection = none → value = (0, true)))) ∧
  ∀ (s : State) (kind : TriggerKind) (index : Nat),
    let c := s.capture
    let matching : Prop := c.triggerKind = kind ∧ (kind = .command ∨ c.triggerIndex = index)
    let t := s.signal kind index
    (matching → c.mode = .triggered → c.state = .waiting →
      t = { s with capture := { c with state := .running, remaining := c.runLength, nextItem := 0 } }) ∧
    (matching → c.mode = .loop → c.state = .running → c.postCount ≠ 0 →
      t = { s with capture := { c with state := .post, remaining := c.postCount } }) ∧
    (matching → c.mode = .loop → c.state = .running → c.postCount = 0 →
      t.capture = { c with state := .done } ∧ Posted s t .captureDone none none none (some c.recordCount) 1) ∧
    (¬ matching ∨ ¬ (c.mode = .triggered ∧ c.state = .waiting) ∧ ¬ (c.mode = .loop ∧ c.state = .running) → t = s)

/-! ## Events -/

/-- An event posted into a queue of fewer than 32 records becomes the newest record under the next sequence number; into 32 records it is
discarded and the newest record's overflow-after flag is set (R167). -/
def Obligations.PostAppendsOrMarksOverflow : Prop :=
  ∀ (s : State) (kind : EventKind) (sec : Option SecId) (node : Option NodeId) (pos : Option Pos) (cycle : Word16)
    (value : Option Int) (detail : Nat),
    (s.events.length < 32 → s.post kind sec node pos cycle value detail =
      { s with
        events := s.events ++ [⟨s.nextSequence, kind, sec, node, pos, cycle, value, detail, false⟩]
        nextSequence := s.nextSequence + 1 }) ∧
    ∀ (older : List Event) (newest : Event), s.events = older ++ [newest] → 32 ≤ s.events.length →
      s.post kind sec node pos cycle value detail = { s with events := older ++ [{ newest with overflowAfter := true }] }

/-! ## Service requests -/

/-- The checks of R162 in their order, for every command of its table: an unknown command or level code is BAD_COMMAND; COMMISSION without
permit, and OBSERVE for a COMMISSION command, are NOT_PERMITTED; a wrong operand count is BAD_COMMAND; a refused request changes nothing but
the queues of requests and replies (R161, R162). -/
def Obligations.ServiceChecksInOrder : Prop :=
  (∀ (s : State) (r : RequestFrame), s.powered = true → s.replyQueue.length < 4 → s.requests.head? = some r →
    (∀ row ∈ serviceRows, r.code.toNat ≠ row.code) ∨ 1 < r.level.toNat →
    exec .unknownCommandCode s = .next (s.answered r .badCommand false [])) ∧
  ∀ row ∈ serviceRows, ∀ (s : State) (r : RequestFrame) (level : Level), Takes s r row.code level →
    (level = .commission → s.permit = false → exec row.command s = .next (s.answered r .notPermitted false [])) ∧
    (level = .observe → row.least = .commission → exec row.command s = .next (s.answered r .notPermitted false [])) ∧
    ((level = .commission → s.permit = true) → (row.least = .commission → level = .commission) →
      r.operands.length < row.fewest ∨ row.most < r.operands.length →
      exec row.command s = .next (s.answered r .badCommand false []))

/-- READ and READ INDEXED return count values from the starting field on, continuing into the next entry and wrapping within the table, with
the wrapped indication where the run passes the last entry, and change nothing but the queues. A table, entry or field that does not exist is
BAD_ADDRESS, and then a count outside 1 to 16 is BAD_VALUE (R164). -/
def Obligations.ReadsReturnTheRun : Prop :=
  (∀ (s : State) (r : RequestFrame) (level : Level) (table entry field count : Nat), 1 ≤ table → table ≤ 10 →
    field < tableFields table → 1 ≤ count → count ≤ 16 →
    let total := tableEntries table * tableFields table
    let answer (start : Nat) : State := s.answered r .ok (decide (total < start * tableFields table + field + count))
      ((List.range count).map fun j =>
        s.readField table ((start * tableFields table + field + j) % total / tableFields table)
          ((start * tableFields table + field + j) % total % tableFields table))
    (entry < tableEntries table → TakesObserve s r 1 level →
      operandValues r = [(table : Int), (entry : Int), (field : Int), (count : Int)] → exec .read s = .next (answer entry)) ∧
    (∀ index : Int, entry < tableEntries table → TakesObserve s r 3 level →
      operandValues r = [(table : Int), (entry : Int), index, (field : Int), (count : Int)] →
      exec .readIndexed s = .next (answer (((entry : Int) + index) % (tableEntries table : Int)).toNat))) ∧
  ∀ (s : State) (r : RequestFrame) (level : Level) (table entry field count index : Int),
    let refuses (code : ResultCode) : Prop :=
      (TakesObserve s r 1 level → operandValues r = [table, entry, field, count] →
        exec .read s = .next (s.answered r code false [])) ∧
      (TakesObserve s r 3 level → operandValues r = [table, entry, index, field, count] →
        exec .readIndexed s = .next (s.answered r code false []))
    (¬ Addressed table entry field → refuses .badAddress) ∧
    (Addressed table entry field → count < 1 ∨ 16 < count → refuses .badValue)

/-- SET CURSOR moves the cursor of the request's level; READ NEXT reads from it and leaves it at the field after the last one read, wrapped
within its table; the other level's cursor stays (R166). SET CURSOR to a table, entry or field that does not exist is BAD_ADDRESS and READ NEXT
with a count outside 1 to 16 BAD_VALUE, and the cursor keeps its position (R164, R166). The premise for READ NEXT is the invariant that cursors
point at fields that exist. -/
def Obligations.CursorsStepThroughTables : Prop :=
  (∀ (s : State) (r : RequestFrame) (level : Level) (table entry field : Nat), TakesObserve s r 4 level →
    1 ≤ table → table ≤ 10 → entry < tableEntries table → field < tableFields table →
    operandValues r = [(table : Int), (entry : Int), (field : Int)] →
    exec .setCursor s = .next (match level with
      | .observe => { s.answered r .ok false [] with observeCursor := ⟨table, entry, field⟩ }
      | .commission => { s.answered r .ok false [] with commissionCursor := ⟨table, entry, field⟩ })) ∧
  (∀ (s : State) (r : RequestFrame) (level : Level) (table entry field : Int), TakesObserve s r 4 level →
    operandValues r = [table, entry, field] → ¬ Addressed table entry field →
    exec .setCursor s = .next (s.answered r .badAddress false [])) ∧
  (∀ (s : State) (r : RequestFrame) (level : Level) (count : Int), TakesObserve s r 5 level → operandValues r = [count] →
    count < 1 ∨ 16 < count → exec .readNext s = .next (s.answered r .badValue false [])) ∧
  ∀ (s : State) (r : RequestFrame) (level : Level) (count : Nat), TakesObserve s r 5 level → CursorsExist s →
    1 ≤ count → count ≤ 16 → operandValues r = [(count : Int)] →
    let c := match level with | .observe => s.observeCursor | .commission => s.commissionCursor
    let total := tableEntries c.table * tableFields c.table
    let start := c.entry * tableFields c.table + c.field
    let after : Cursor :=
      ⟨c.table, (start + count) % total / tableFields c.table, (start + count) % total % tableFields c.table⟩
    let reply := s.answered r .ok (decide (total < start + count)) ((List.range count).map fun j =>
      s.readField c.table ((start + j) % total / tableFields c.table) ((start + j) % total % tableFields c.table))
    exec .readNext s = .next (match level with
      | .observe => { reply with observeCursor := after }
      | .commission => { reply with commissionCursor := after })

/-- WRITE and WRITE NEXT write field by field, on into the next entry and from the last entry back to the first, as a read run goes, each against
the state that the earlier fields left: the field is written, or written clamped, or refused, and the first refusal ends the run and gives the
result; the reply counts the fields written; a WRITE to a table, entry or field that does not exist is BAD_ADDRESS and writes nothing (R164, R165,
R166). That a refused field past the last entry sets the wrapped indication is the model's reading (log entry 27). -/
def Obligations.WritesStopAtFirstRefusal : Prop :=
  ∀ (s : State) (table k : Nat) (v : Int) (vs : List Int) (n : Nat) (c : Option Nat),
    let total := tableEntries table * tableFields table
    let field := s.writeField table (k % total / tableFields table) (k % total % tableFields table) v
    State.writeRun table s k [] n c = ⟨s, n, c, none⟩ ∧
    (∀ t, field = .written t →
      State.writeRun table s k (v :: vs) n c = State.writeRun table t (k + 1) vs (n + 1) c) ∧
    (∀ t, field = .clamped t →
      State.writeRun table s k (v :: vs) n c = State.writeRun table t (k + 1) vs (n + 1) (some (c.getD n))) ∧
    (∀ code data, field = .refused code data →
      State.writeRun table s k (v :: vs) n c = ⟨s, n, c, some (code, data)⟩) ∧
    (∀ (r : RequestFrame) (entry field : Nat), TakesCommission s r 2 → 1 ≤ table → table ≤ 10 →
      entry < tableEntries table → field < tableFields table → k = entry * tableFields table + field → vs.length ≤ 12 →
      operandValues r = (table : Int) :: (entry : Int) :: (field : Int) :: v :: vs →
      ∃ t, exec .write s = .next t ∧
        let w := State.writeRun table s.dropRequest k (v :: vs) 0 none
        let wrapped := decide (total < k + w.written + if w.refusal.isSome then 1 else 0)
        (∀ code data, w.refusal = some (code, data) → t = w.state.postReply r.tag code wrapped ((w.written : Int) :: data)) ∧
        (∀ j, w.refusal = none → w.firstClamped = some j →
          t = w.state.postReply r.tag .clamped wrapped [(w.written : Int), (j : Int)]) ∧
        (w.refusal = none → w.firstClamped = none → t = w.state.postReply r.tag .ok wrapped [(w.written : Int)])) ∧
    (∀ (r : RequestFrame) (table entry field : Int), TakesCommission s r 2 → ¬ Addressed table entry field → vs.length ≤ 12 →
      operandValues r = table :: entry :: field :: v :: vs → exec .write s = .next (s.answered r .badAddress false [])) ∧
    (∀ r : RequestFrame, TakesCommission s r 6 → CursorsExist s → operandValues r = v :: vs → vs.length ≤ 15 →
      let cur := s.commissionCursor
      let from' := cur.entry * tableFields cur.table + cur.field
      let total := tableEntries cur.table * tableFields cur.table
      let w := State.writeRun cur.table s.dropRequest from' (v :: vs) 0 none
      ∃ t u, exec .writeNext s = .next t ∧
        t = { u with commissionCursor :=
          ⟨cur.table, (from' + w.written) % total / tableFields cur.table, (from' + w.written) % total % tableFields cur.table⟩ } ∧
        let wrapped := decide (total < from' + w.written + if w.refusal.isSome then 1 else 0)
        (∀ code data, w.refusal = some (code, data) → u = w.state.postReply r.tag code wrapped ((w.written : Int) :: data)) ∧
        (∀ j, w.refusal = none → w.firstClamped = some j →
          u = w.state.postReply r.tag .clamped wrapped [(w.written : Int), (j : Int)]) ∧
        (w.refusal = none → w.firstClamped = none → u = w.state.postReply r.tag .ok wrapped [(w.written : Int)]))

/-- A write to a configuration field of the Section Table, the Station Record's timeout, a Drive Map entry or a weight in use: an accepted value
reads back, a live value outside its range reads back clamped, a structural value is refused outside BYPASS and SELECTED and outside its range,
and a read-only field is BAD_ADDRESS (R5, R6, R7, R10, R11, R18, R158, R163). A lowered Tlim clamps the trim of every member of its section at once,
and a write of Tlim does nothing else (R72). -/
def Obligations.ConfigurationWritesReadBack : Prop :=
  (∀ (s : State) (i : SecId) (v : Int),
    (∀ row ∈ [(6, (-50000 : Int), (50000 : Int)), (7, 0, 100000), (9, 0, 255), (10, 0, 20000), (16, 10, 10000), (17, 1, 15)],
      ∃ t, s.writeField 1 i.val row.1 v = (if v < row.2.1 ∨ row.2.2 < v then .clamped t else .written t) ∧
        t.readField 1 i.val row.1 = clampTo row.2.1 row.2.2 v ∧
        ∀ f, f ≠ row.1 → t.readField 1 i.val f = s.readField 1 i.val f) ∧
    (∀ row ∈ [(8, (10000 : Int), (2000000 : Int)), (13, 0, 255), (14, 0, 2), (15, 0, 1000), (18, 0, 300000), (19, 0, 300000),
        (20, 0, 300000), (21, 1, 1000), (22, 2, 8)],
      ((s.sec i).state ≠ .bypass → (s.sec i).state ≠ .selected →
        s.writeField 1 i.val row.1 v = .refused .sectionActive []) ∧
      ((s.sec i).state = .bypass ∨ (s.sec i).state = .selected → v < row.2.1 ∨ row.2.2 < v →
        s.writeField 1 i.val row.1 v = .refused .badValue []) ∧
      ((s.sec i).state = .bypass ∨ (s.sec i).state = .selected → row.2.1 ≤ v → v ≤ row.2.2 →
        ∃ t, s.writeField 1 i.val row.1 v = .written t ∧ t.readField 1 i.val row.1 = v ∧
          ∀ f, f ≠ row.1 → t.readField 1 i.val f = s.readField 1 i.val f)) ∧
    (∀ row ∈ [(11, (127 : Int)), (12, 32)],
      let c := (s.sec i).cfg
      let start := if row.1 = 11 then v.toNat else c.profileStart
      let length := if row.1 = 12 then v.toNat else c.profileLength
      let valid : Prop := start + length ≤ 128 ∧ ∀ k, start ≤ k → k < start + length → (s.segment k).kind ≠ .none
      ((s.sec i).state ≠ .bypass → (s.sec i).state ≠ .selected →
        s.writeField 1 i.val row.1 v = .refused .sectionActive []) ∧
      ((s.sec i).state = .bypass ∨ (s.sec i).state = .selected → v < 0 ∨ row.2 < v →
        s.writeField 1 i.val row.1 v = .refused .badValue []) ∧
      ((s.sec i).state = .selected → ¬ valid → s.writeField 1 i.val row.1 v = .refused .badValue []) ∧
      ((s.sec i).state = .bypass ∨ ((s.sec i).state = .selected ∧ valid) → 0 ≤ v → v ≤ row.2 →
        ∃ t, s.writeField 1 i.val row.1 v = .written t ∧ t.readField 1 i.val row.1 = v ∧
          ∀ f, f ≠ row.1 → t.readField 1 i.val f = s.readField 1 i.val f)) ∧
    (∀ f, f < 6 ∨ 22 < f → s.writeField 1 i.val f v = .refused .badAddress []) ∧
    ∃ t, s.writeField 1 i.val 10 v = (if v < 0 ∨ 20000 < v then .clamped t else .written t) ∧
      let limit := clampTo 0 20000 v
      (∀ r ∈ s.members i, t.member r = { s.member r with
        trim := if limit < (s.sec i).cfg.trimLimit then clampTo (-limit) limit (s.member r).trim else (s.member r).trim }) ∧
      (∀ r, r ∉ s.members i → t.member r = s.member r) ∧
      t.sec i = { s.sec i with cfg := { (s.sec i).cfg with trimLimit := limit } } ∧ (∀ j, j ≠ i → t.sec j = s.sec j) ∧
      t = { s with sections := t.sections, pool := t.pool }) ∧
  (∀ (s : State) (v : Int), ∃ t, s.writeField 10 0 2 v = (if v < 5 ∨ 1000 < v then .clamped t else .written t) ∧
    t = { s with timeout := (clampTo 5 1000 v).toNat }) ∧
  (∀ (s : State) (n : NodeId) (f : Nat) (v : Int),
    (n = s.station ∨ f < 1 ∨ 3 < f → s.writeField 3 n.val f v = .refused .badAddress []) ∧
    (n ≠ s.station → 1 ≤ f → f ≤ 3 →
      (∀ i, (s.drive n).inSection = some i → (s.sec i).state ≠ .bypass → (s.sec i).state ≠ .selected →
        s.writeField 3 n.val f v = .refused .sectionActive []) ∧
      ((∀ i, (s.drive n).inSection = some i → (s.sec i).state = .bypass ∨ (s.sec i).state = .selected) →
        if (f = 1 ∧ (v = 1 ∨ v = -1)) ∨ (f = 2 ∧ 12288 ≤ v ∧ v ≤ 20480) ∨ (f = 3 ∧ -100000 ≤ v ∧ v ≤ 100000) then
          ∃ t, s.writeField 3 n.val f v = .written t ∧ t.readField 3 n.val f = v ∧
            ∀ g, g ≠ f → t.readField 3 n.val g = s.readField 3 n.val g
        else s.writeField 3 n.val f v = .refused .badValue []))) ∧
  ∀ (s : State) (r : RecId) (f : Nat) (v : Int),
    (f ≠ 4 → s.writeField 2 r.val f v = .refused .badAddress []) ∧
    ((s.member r).inUse = false → s.writeField 2 r.val 4 v = .refused .badValue []) ∧
    ((s.member r).inUse = true → ∃ t,
      s.writeField 2 r.val 4 v = (if v < 1 ∨ 255 < v then .clamped t else .written t) ∧
        t.member r = { s.member r with weight := (clampTo 1 255 v).toNat })

/-- A write to the Segment, Limit Set, Watch, Capture List and Capture Control tables: an accepted value reads back and the entry's other fields
stay, but for the counts that a write to a watch point clears; values are clamped or refused by the rule that owns the table, a segment in use is
IN_USE, a capture that is not stopped is WRONG_STATE, read-only fields and the Capture Buffer are BAD_ADDRESS (R98, R116, R129, R140, R141, R142).
That a read-only capture field is BAD_ADDRESS in every capture state is the model's reading (log entry 26). -/
def Obligations.TableWritesReadBack : Prop :=
  (∀ (s : State) (k : Fin 128) (v : Int),
    let g := s.segments[k]
    let used : Prop := ∃ i : SecId, ((s.sec i).state = .trial ∨ (s.sec i).state = .frozen) ∧ (s.sec i).cfg.profileStart ≤ k.val ∧
      k.val < (s.sec i).cfg.profileStart + (s.sec i).cfg.profileLength
    let reads (t : State) (f : Nat) (x : Int) : Prop :=
      t.readField 4 k.val f = x ∧ ∀ f', f' ≠ f → t.readField 4 k.val f' = s.readField 4 k.val f'
    (used → ∀ f, f < 3 → s.writeField 4 k.val f v = .refused .inUse []) ∧
    (¬ used →
      (if 1 ≤ v ∧ v ≤ 65535 ∧ (g.kind = .square → 2 ≤ v) then ∃ t, s.writeField 4 k.val 0 v = .written t ∧ reads t 0 v
        else s.writeField 4 k.val 0 v = .refused .badValue []) ∧
      (∃ t, s.writeField 4 k.val 1 v = (if v < -200000 ∨ 200000 < v then .clamped t else .written t) ∧
        reads t 1 (clampTo (-200000) 200000 v)) ∧
      (if 0 ≤ v ∧ v ≤ 4 ∧ (v = 4 → 2 ≤ g.length) then ∃ t, s.writeField 4 k.val 2 v = .written t ∧ reads t 2 v
        else s.writeField 4 k.val 2 v = .refused .badValue []))) ∧
  (∀ (s : State) (i : SecId) (v : Int),
    let reads (t : State) (f : Nat) (x : Int) : Prop :=
      t.readField 5 i.val f = x ∧ ∀ f', f' ≠ f → t.readField 5 i.val f' = s.readField 5 i.val f'
    (∀ row ∈ [(0, (0 : Int), (200000 : Int)), (1, 1, 255), (3, 0, 2000), (4, 1, 255), (6, 0, 3000), (7, 1, 255), (9, 0, 20000),
        (10, 0, 255)],
      ∃ t, s.writeField 5 i.val row.1 v = (if v < row.2.1 ∨ row.2.2 < v then .clamped t else .written t) ∧
        reads t row.1 (clampTo row.2.1 row.2.2 v)) ∧
    (∀ f ∈ [2, 5, 8, 11],
      if 0 ≤ v ∧ v ≤ 3 then ∃ t, s.writeField 5 i.val f v = .written t ∧ reads t f v
      else s.writeField 5 i.val f v = .refused .badValue []) ∧
    ∀ f, 11 < f → s.writeField 5 i.val f v = .refused .badAddress []) ∧
  (∀ (s : State) (w : WatchId) (v : Int),
    let reads (t : State) (f : Nat) (x : Int) : Prop :=
      t.readField 6 w.val f = x ∧ t.readField 6 w.val 9 = 0 ∧ t.readField 6 w.val 10 = 0 ∧ t.readField 6 w.val 11 = 0 ∧
        ∀ f', f' ≠ f → f' ≠ 9 → f' ≠ 10 → f' ≠ 11 → t.readField 6 w.val f' = s.readField 6 w.val f'
    (∀ row ∈ [(0, (0 : Int), (3 : Int)), (1, 1, 62), (2, 0, 4), (3, 0, 4), (4, 0, 2)],
      if row.2.1 ≤ v ∧ v ≤ row.2.2 then ∃ t, s.writeField 6 w.val row.1 v = .written t ∧ reads t row.1 v
      else s.writeField 6 w.val row.1 v = .refused .badValue []) ∧
    (∃ t, s.writeField 6 w.val 5 v = .written t ∧ reads t 5 v) ∧
    ∀ f, 5 < f → s.writeField 6 w.val f v = .refused .badAddress []) ∧
  (∀ (s : State) (k : Fin 8) (v : Int),
    let stopped : Prop := s.capture.state = .idle ∨ s.capture.state = .done
    let reads (t : State) (table e f : Nat) (x : Int) : Prop :=
      t.readField table e f = x ∧ ∀ f', f' ≠ f → t.readField table e f' = s.readField table e f'
    (¬ stopped → (∀ f, f < 4 → s.writeField 7 k.val f v = .refused .wrongState [(s.capture.state.code : Int)]) ∧
      ∀ f, f < 6 → s.writeField 8 0 f v = .refused .wrongState [(s.capture.state.code : Int)]) ∧
    (stopped → ∀ row ∈ [(0, (0 : Int), (1 : Int)), (1, 1, 62), (2, 0, 5), (3, 0, 3)],
      if row.2.1 ≤ v ∧ v ≤ row.2.2 then ∃ t, s.writeField 7 k.val row.1 v = .written t ∧ reads t 7 k.val row.1 v
      else s.writeField 7 k.val row.1 v = .refused .badValue []) ∧
    (stopped → ∀ row ∈ [(0, (2 : Int)), (1, 1), (2, 4)],
      if 0 ≤ v ∧ v ≤ row.2 then ∃ t, s.writeField 8 0 row.1 v = .written t ∧ reads t 8 0 row.1 v
      else s.writeField 8 0 row.1 v = .refused .badValue []) ∧
    (stopped → ∀ row ∈ [(3, (0 : Int), (15 : Int)), (4, 1, 1024), (5, 0, 1024)],
      ∃ t, s.writeField 8 0 row.1 v = (if v < row.2.1 ∨ row.2.2 < v then .clamped t else .written t) ∧
        reads t 8 0 row.1 (clampTo row.2.1 row.2.2 v)) ∧
    ∀ f, 5 < f → s.writeField 8 0 f v = .refused .badAddress []) ∧
  ∀ (s : State) (e f : Nat) (v : Int), s.writeField 9 e f v = .refused .badAddress []

/-- READ EVENTS and PEEK EVENTS return the oldest records, as many as the count asks and the queue holds, in four data values each; READ EVENTS
removes them, PEEK EVENTS leaves them; a count outside 1 to 4 is BAD_VALUE (R168). -/
def Obligations.EventReadsReturnOldest : Prop :=
  (∀ (s : State) (r : RequestFrame) (level : Level) (count : Int), operandValues r = [count] →
    (TakesObserve s r 7 level → 1 ≤ count → count ≤ 4 →
      exec .readEvents s = .next { s.answered r .ok false ((s.events.take count.toNat).flatMap Event.data) with
        events := s.events.drop count.toNat }) ∧
    (TakesObserve s r 8 level → 1 ≤ count → count ≤ 4 →
      exec .peekEvents s = .next (s.answered r .ok false ((s.events.take count.toNat).flatMap Event.data))) ∧
    (count < 1 ∨ 4 < count →
      (TakesObserve s r 7 level → exec .readEvents s = .next (s.answered r .badValue false [])) ∧
      (TakesObserve s r 8 level → exec .peekEvents s = .next (s.answered r .badValue false [])))) ∧
  ∀ e : Event, e.detail ≤ 255 → e.data.map dataWord =
    [ e.sequence ++ e.cycle,
      BitVec.ofNat 8 e.kind.code ++ BitVec.ofNat 8 e.detail ++
        BitVec.ofNat 8 (match e.inSection with | some i => i.val | none => 255) ++
        BitVec.ofNat 8 ((if e.value.isSome then 2 else 0) + if e.overflowAfter then 1 else 0),
      (0 : BitVec 16) ++ BitVec.ofNat 8 (match e.node with | some n => n.val + 1 | none => 255) ++
        BitVec.ofNat 8 (match e.position with | some p => p.val | none => 255),
      BitVec.ofInt 32 (e.value.getD 0) ]

/-- RESTART posts its reply, puts every section in BYPASS with its trims, offsets and clamp flags cleared and the engine free, idles the capture,
leaves one START_UP record with detail RESTART, and resets cursors, latches, watch counts and limit states; what R170 keeps stays (R8, R16, R48,
R170). The premise EngineHeld is the invariant of R36. -/
def Obligations.RestartReturnsEverySectionToBypass : Prop :=
  ∀ (s : State) (r : RequestFrame), TakesCommission s r 9 → r.operands = [] → EngineHeld s → ∃ t,
    exec .restart s = .next t ∧
    (∀ i : SecId,
      let m := (s.sec i).monitor
      let cleared (l : Limit) : Limit := { l with state := .inside, counter := 0 }
      let monitor := { m with
        speedError := cleared m.speedError, imbalance := cleared m.imbalance, loadHigh := cleared m.loadHigh }
      t.sec i = if (s.sec i).state = .bypass then { s.sec i with snapshot := none, monitor := monitor }
        else { s.sec i with
          state := .bypass, faultCode := none, releaseTarget := none, startPending := false
          profile := { (s.sec i).profile with stepPending := false }, snapshot := none, monitor := monitor }) ∧
    (∀ q : RecId, (∃ i, q ∈ s.members i ∧ (s.sec i).state ≠ .bypass) →
      t.member q = { s.member q with trim := 0, held := 0, clamp := .none }) ∧
    (∀ q : RecId, (∀ i, q ∈ s.members i → (s.sec i).state = .bypass) → t.member q = s.member q) ∧
    (∀ w : WatchId, t.watch w = { s.watch w with hitCount := 0, lastSeen := 0, lastSeenFlag := false }) ∧
    t.engine = Engine.free ∧
    t.capture = { s.capture with state := .idle, nextItem := 0, remaining := 0 } ∧
    (∃ e, t.events = [e] ∧ e.sequence + 1 = t.nextSequence ∧
      (e.kind, e.inSection, e.node, e.position, e.cycle, e.value, e.detail, e.overflowAfter) =
        (.startUp, none, none, none, s.cycle, none, 1, false)) ∧
    ((∀ i, (s.sec i).state = .bypass) → t.nextSequence = s.nextSequence + 1) ∧
    t = { s.answered r .ok false [] with
      sections := t.sections, pool := t.pool, engine := t.engine, watches := t.watches, capture := t.capture
      events := t.events, nextSequence := t.nextSequence, observeCursor := ⟨1, 0, 0⟩, commissionCursor := ⟨1, 0, 0⟩ }

/-! ## Commissioning commands -/

/-- The checks that every command of section 2.4 shares: a section number outside 0..15 is BAD_VALUE, and a state not listed for the command is
WRONG_STATE with the state code; a refused command changes nothing but the queues of requests and replies (R27). -/
def Obligations.CommissioningCommandsCheckSectionAndState : Prop :=
  ∀ row ∈ commissioningRows, ∀ (s : State) (r : RequestFrame), TakesCommission s r row.code →
    (∀ v : Int, operandValues r = [v] → v < 0 ∨ 15 < v → exec row.command s = .next (s.answered r .badValue false [])) ∧
    ∀ i : SecId, operandValues r = [(i.val : Int)] → (s.sec i).state ∉ row.takenIn →
      exec row.command s = .next (s.answered r .wrongState false [((s.sec i).state.code : Int)])

/-- SELECT in BYPASS: an empty list, a range past the table and a segment of kind NONE are BAD_VALUE with the data of R28; else the section enters
SELECTED with its limits INSIDE at 0 and the entry effects of R25. The premise on the engine is the invariant of R36. -/
def Obligations.SelectEntersSelected : Prop :=
  ∀ (s : State) (r : RequestFrame) (i : SecId), TakesCommission s r 16 → operandValues r = [(i.val : Int)] →
    (s.sec i).state = .bypass →
    let c := (s.sec i).cfg
    (s.members i = [] → exec .select s = .next (s.answered r .badValue false [0])) ∧
    (s.members i ≠ [] → 128 < c.profileStart + c.profileLength →
      exec .select s = .next (s.answered r .badValue false [-1])) ∧
    (∀ k, s.members i ≠ [] → c.profileStart + c.profileLength ≤ 128 → c.profileStart ≤ k →
      k < c.profileStart + c.profileLength → (s.segment k).kind = .none →
      (∀ j, c.profileStart ≤ j → j < k → (s.segment j).kind ≠ .none) →
      exec .select s = .next (s.answered r .badValue false [(k : Int)])) ∧
    (s.members i ≠ [] → ProfileValid s i → s.engine.holder ≠ some i → ∃ t,
      exec .select s = .next t ∧
      (let m := (s.sec i).monitor
       let cleared (l : Limit) : Limit := { l with state := .inside, counter := 0 }
       t.sec i = { s.sec i with
        state := .selected, faultCode := none, releaseTarget := none, startPending := false
        profile := { (s.sec i).profile with stepPending := false }
        monitor := { m with
          speedError := cleared m.speedError, imbalance := cleared m.imbalance, loadHigh := cleared m.loadHigh } }) ∧
      (∀ j, j ≠ i → t.sec j = s.sec j) ∧
      (∀ q, t.member q = if q ∈ s.members i then { s.member q with trim := 0, held := 0, clamp := .none } else s.member q) ∧
      Posted s t .stateChange (some i) none none (some 1) 0 ∧
      t = { s.answered r .ok false [] with
        sections := t.sections, pool := t.pool, events := t.events, nextSequence := t.nextSequence })

/-- DESELECT in SELECTED, ABORT in a rewriting state and CLEAR FAULT in FAULTED with no member showing FAULT enter BYPASS with the entry effects
of R25; where the section holds the engine, CAL_RESULT with abandonment detail ABORT stands ahead of the STATE_CHANGE and the engine is free (R29,
R35, R38, R94). CLEAR FAULT with a member showing FAULT is WRONG_STATE with that member's node. -/
def Obligations.DeselectAbortClearFaultEnterBypass : Prop :=
  (∀ (s : State) (r : RequestFrame) (i : SecId) (c : Instr), operandValues r = [(i.val : Int)] →
    (c = .deselect ∧ TakesCommission s r 17 ∧ (s.sec i).state = .selected) ∨
      (c = .abort ∧ TakesCommission s r 23 ∧ (s.sec i).state.rewriting = true) ∨
      (c = .clearFault ∧ TakesCommission s r 26 ∧ (s.sec i).state = .faulted ∧
        ∀ q ∈ s.members i, (s.memberFeedback q).status.getLsbD 4 = false) → ∃ t,
    exec c s = .next t ∧
    t.sec i = { s.sec i with
      state := .bypass, faultCode := none, releaseTarget := none, startPending := false
      profile := { (s.sec i).profile with stepPending := false } } ∧
    (∀ j, j ≠ i → t.sec j = s.sec j) ∧
    (∀ q, t.member q = if q ∈ s.members i then { s.member q with trim := 0, held := 0, clamp := .none } else s.member q) ∧
    t.engine = (if s.engine.holder = some i then Engine.free else s.engine) ∧
    Posted (if s.engine.holder = some i then s.post .calResult (some i) none none s.cycle (some 0) 3 else s) t
      .stateChange (some i) none none (some 0) 0 ∧
    t = { s.answered r .ok false [] with
      sections := t.sections, pool := t.pool, engine := t.engine, events := t.events, nextSequence := t.nextSequence }) ∧
  ∀ (s : State) (r : RequestFrame) (i : SecId) (k : Nat) (q : RecId), TakesCommission s r 26 →
    operandValues r = [(i.val : Int)] → (s.sec i).state = .faulted → (s.members i)[k]? = some q →
    (s.memberFeedback q).status.getLsbD 4 = true →
    (∀ (j : Nat) (p : RecId), j < k → (s.members i)[j]? = some p → (s.memberFeedback p).status.getLsbD 4 = false) →
    exec .clearFault s = .next (s.answered r .wrongState false [6, (s.memberNode q).val + 1])

/-- START in SELECTED makes the four checks of R30 in their order, each with its data; where all pass the section enters TRIAL start-pending with
trims 0, clamp flags NONE, the profile position of R101 and the zero-cross state of R124 reset, and signals SECTION_START (R30, R101, R147). -/
def Obligations.StartEntersTrial : Prop :=
  ∀ (s : State) (r : RequestFrame) (i : SecId), TakesCommission s r 18 → operandValues r = [(i.val : Int)] →
    (s.sec i).state = .selected →
    let ready (q : RecId) : Prop :=
      (s.memberFeedback q).status.getLsbD 1 = true ∧ (s.memberFeedback q).status.getLsbD 4 = false
    let runs : Prop := (s.sec i).leadCommand = .run ∨ (s.sec i).leadCommand = .crawl
    (∀ lead rest, s.members i = lead :: rest →
      (128 < (s.sec i).cfg.profileStart + (s.sec i).cfg.profileLength →
        exec .start s = .next (s.answered r .badValue false [-1])) ∧
      (∀ k, (s.sec i).cfg.profileStart + (s.sec i).cfg.profileLength ≤ 128 → (s.sec i).cfg.profileStart ≤ k →
        k < (s.sec i).cfg.profileStart + (s.sec i).cfg.profileLength → (s.segment k).kind = .none →
        (∀ j, (s.sec i).cfg.profileStart ≤ j → j < k → (s.segment j).kind ≠ .none) →
        exec .start s = .next (s.answered r .badValue false [(k : Int)])) ∧
      (∀ (k : Nat) (q : RecId), ProfileValid s i → (s.members i)[k]? = some q → ¬ ready q →
        (∀ (j : Nat) (p : RecId), j < k → (s.members i)[j]? = some p → ready p) →
        exec .start s = .next (s.answered r .wrongState false [1, 2, (s.memberNode q).val + 1])) ∧
      (ProfileValid s i → (∀ q ∈ s.members i, ready q) → (s.sec i).lastSet = none →
        exec .start s = .next (s.answered r .wrongState false [1, 3, (s.memberNode lead).val + 1])) ∧
      (∀ c n, ProfileValid s i → (∀ q ∈ s.members i, ready q) → (s.sec i).lastSet = some ⟨c, false, some n⟩ →
        exec .start s = .next (s.answered r .wrongState false [1, 3, n.val + 1])) ∧
      (∀ c n, ProfileValid s i → (∀ q ∈ s.members i, ready q) → (s.sec i).lastSet = some ⟨c, true, n⟩ → ¬ runs →
        exec .start s = .next (s.answered r .wrongState false [1, 4, (s.memberNode lead).val + 1]))) ∧
    (∀ c n, ProfileValid s i → (∀ q ∈ s.members i, ready q) → (s.sec i).lastSet = some ⟨c, true, n⟩ → runs → ∃ t,
      exec .start s = .next t ∧
      t.sec i = { s.sec i with
        state := .trial, startPending := true
        profile := ⟨0, 0, 0, 0, 0, decide ((s.sec i).cfg.profileLength = 0), false, 0⟩
        monitor := { (s.sec i).monitor with zeroCross := 0, sign := .none, fired := false } } ∧
      (∀ j, j ≠ i → t.sec j = s.sec j) ∧
      (∀ q, t.member q = if q ∈ s.members i then { s.member q with trim := 0, clamp := .none } else s.member q) ∧
      (let u := (s.post .stateChange (some i) none none s.cycle (some 2) 0).signal .sectionStart i.val
       t.events = u.events ∧ t.nextSequence = u.nextSequence ∧ t.capture = u.capture) ∧
      t = { s.answered r .ok false [] with
        sections := t.sections, pool := t.pool, capture := t.capture, events := t.events, nextSequence := t.nextSequence })

/-- FREEZE in TRIAL enters FROZEN with a freeze record of cause COMMAND and source index -1, and STOP in TRIAL and FROZEN enters RELEASING with
release target SELECTED; in both, every held offset is the last issued reference minus the issue base, and the step-pending and start-pending
marks are clear (R26, R31, R34, R44, R57). The premise on the engine is the invariant of R36. -/
def Obligations.FreezeAndStopFormOffsets : Prop :=
  ∀ (s : State) (r : RequestFrame) (i : SecId), operandValues r = [(i.val : Int)] →
    let formed (t : State) : Prop :=
      (∀ j, j ≠ i → t.sec j = s.sec j) ∧
      (∀ q, t.member q = if q ∈ s.members i then
        { s.member q with held := (s.member q).issued - (s.sec i).issueBase } else s.member q) ∧
      t = { s.answered r .ok false [] with
        sections := t.sections, pool := t.pool, events := t.events, nextSequence := t.nextSequence }
    (TakesCommission s r 19 → (s.sec i).state = .trial → ∃ t,
      exec .freeze s = .next t ∧ formed t ∧ Posted s t .stateChange (some i) none none (some 3) 0 ∧
      t.sec i = { s.sec i with
        state := .frozen, startPending := false, profile := { (s.sec i).profile with stepPending := false }
        freeze := ⟨some .command, none, s.cycle, (s.sec i).profile.segmentIndex, (s.sec i).profile.cycleCount,
          (s.sec i).profile.pass, (s.sec i).profile.offset⟩ }) ∧
    (TakesCommission s r 22 → (s.sec i).state = .trial ∨ (s.sec i).state = .frozen → s.engine.holder ≠ some i → ∃ t,
      exec .stopTrial s = .next t ∧ formed t ∧ Posted s t .stateChange (some i) none none (some 5) 0 ∧
      t.sec i = { s.sec i with
        state := .releasing, releaseTarget := some .selected, startPending := false
        profile := { (s.sec i).profile with stepPending := false } })

/-- CONTINUE and STEP in FROZEN enter TRIAL with every held offset 0, STEP with the step-pending flag set; STEP of a finished profile is
WRONG_STATE (R26, R32, R33). -/
def Obligations.ContinueAndStepEnterTrial : Prop :=
  ∀ (s : State) (r : RequestFrame) (i : SecId) (step? : Bool), TakesCommission s r (if step? then 21 else 20) →
    operandValues r = [(i.val : Int)] → (s.sec i).state = .frozen →
    let c : Instr := if step? then .stepRun else .continueTrial
    (step? = true → (s.sec i).profile.finished = true → exec c s = .next (s.answered r .wrongState false [3])) ∧
    (step? = false ∨ (s.sec i).profile.finished = false → ∃ t,
      exec c s = .next t ∧
      t.sec i = { s.sec i with state := .trial, profile := { (s.sec i).profile with stepPending := step? } } ∧
      (∀ j, j ≠ i → t.sec j = s.sec j) ∧
      (∀ q, t.member q = if q ∈ s.members i then { s.member q with held := 0 } else s.member q) ∧
      Posted s t .stateChange (some i) none none (some 2) 0 ∧
      t = { s.answered r .ok false [] with
        sections := t.sections, pool := t.pool, events := t.events, nextSequence := t.nextSequence })

/-- CALIBRATE in SELECTED makes the six checks of R36 in their order, each with its data; where all pass the section takes the engine, in
SETTLE_LOW with every count and sum 0, and enters CALIBRATING (R26, R36, R87). -/
def Obligations.CalibrateTakesEngine : Prop :=
  ∀ (s : State) (r : RequestFrame) (i : SecId), TakesCommission s r 24 → operandValues r = [(i.val : Int)] →
    (s.sec i).state = .selected →
    let c := (s.sec i).cfg
    let b := (s.sec i).lineReference
    let c1 : Prop := 2 ≤ (s.members i).length
    let c4 : Prop := c1 ∧ c.calLow < c.calHigh ∧ 10000 ≤ c.calHigh - c.calLow ∧ c.calHigh ≤ c.absoluteLimit
    let c5 : Prop := c4 ∧ -c.crawlLimit ≤ b ∧ b ≤ c.crawlLimit
    (¬ c1 → exec .calibrate s = .next (s.answered r .badValue false [1])) ∧
    (c1 → ¬ c.calLow < c.calHigh → exec .calibrate s = .next (s.answered r .badValue false [2])) ∧
    (c1 → c.calLow < c.calHigh → ¬ 10000 ≤ c.calHigh - c.calLow →
      exec .calibrate s = .next (s.answered r .badValue false [3])) ∧
    (c1 → c.calLow < c.calHigh → 10000 ≤ c.calHigh - c.calLow → ¬ c.calHigh ≤ c.absoluteLimit →
      exec .calibrate s = .next (s.answered r .badValue false [4])) ∧
    (c4 → b < -c.crawlLimit ∨ c.crawlLimit < b → exec .calibrate s = .next (s.answered r .wrongState false [1, b])) ∧
    (∀ j : SecId, c5 → s.engine.holder = some j → exec .calibrate s = .next (s.answered r .busy false [(j.val : Int)])) ∧
    (c5 → s.engine.holder = none → ∃ t,
      exec .calibrate s = .next t ∧
      t.sec i = { s.sec i with state := .calibrating } ∧ (∀ j, j ≠ i → t.sec j = s.sec j) ∧
      t.engine = { Engine.free with holder := some i, phase := some .settleLow } ∧
      Posted s t .stateChange (some i) none none (some 4) 0 ∧
      t = { s.answered r .ok false [] with
        sections := t.sections, engine := t.engine, events := t.events, nextSequence := t.nextSequence })

/-- TRIGGER in TRIAL sets the cycle count of a running STEP segment to 0 and nothing else, and is IGNORED in every other case; in any other
state it is WRONG_STATE (R37, R111). -/
def Obligations.TriggerRestartsStepSegment : Prop :=
  ∀ (s : State) (r : RequestFrame) (i : SecId), TakesCommission s r 25 → operandValues r = [(i.val : Int)] →
    let runs : Prop :=
      (s.segment ((s.sec i).cfg.profileStart + (s.sec i).profile.segmentIndex)).kind = .step ∧
        (s.sec i).profile.finished = false ∧ (s.sec i).startPending = false
    ((s.sec i).state = .trial → runs → ∃ t,
      exec .trigger s = .next t ∧
      t.sec i = { s.sec i with profile := { (s.sec i).profile with cycleCount := 0 } } ∧
      (∀ j, j ≠ i → t.sec j = s.sec j) ∧ t = { s.answered r .ok false [] with sections := t.sections }) ∧
    ((s.sec i).state = .trial → ¬ runs → exec .trigger s = .next (s.answered r .ignored false [])) ∧
    ((s.sec i).state ≠ .trial → exec .trigger s = .next (s.answered r .wrongState false [((s.sec i).state.code : Int)]))

/-! ## Members -/

/-- ADD MEMBER makes the six checks of R12 in their order; where all pass it takes the lowest free pool record for the node at the end of the
list, names the section in the node's Drive Map entry, and answers with the record number and the position (R9, R10, R12, R78). -/
def Obligations.AddMemberAppends : Prop :=
  ∀ (s : State) (r : RequestFrame) (a b w : Int), TakesCommission s r 32 → operandValues r = [a, b, w] →
    let refused (code : ResultCode) : Prop := exec .addMember s = .next (s.answered r code false [])
    (a < 0 ∨ 15 < a → refused .badValue) ∧
    ∀ i : SecId, a = i.val →
      (b < 1 ∨ 62 < b ∨ b = s.station.val + 1 ∨ w < 1 ∨ 255 < w → refused .badValue) ∧
      ∀ n : NodeId, b = n.val + 1 → n ≠ s.station → 1 ≤ w → w ≤ 255 →
        ((s.sec i).state ≠ .bypass → refused .sectionActive) ∧
        ((s.sec i).state = .bypass → (s.drive n).inSection ≠ none → refused .inUse) ∧
        ((s.sec i).state = .bypass → (s.drive n).inSection = none →
          4 ≤ (s.members i).length ∨ (∀ q : RecId, (s.member q).inUse = true) → refused .tableFull) ∧
        (∀ q : RecId, (s.sec i).state = .bypass → (s.drive n).inSection = none → (s.members i).length < 4 →
          (s.member q).inUse = false → (∀ p : RecId, p < q → (s.member p).inUse = true) → ∃ t,
          exec .addMember s = .next t ∧
          t.sec i = { s.sec i with members := s.members i ++ [q], lastSet := none } ∧ (∀ j, j ≠ i → t.sec j = s.sec j) ∧
          (t.member q).read 0 = 1 ∧ (t.member q).read 1 = i.val ∧ (t.member q).read 2 = b ∧
          (t.member q).read 3 = (s.members i).length ∧ (t.member q).read 4 = w ∧
          (List.range 5).map (fun f => (t.member q).read (5 + f)) = [0, 0, 0, 0, 0] ∧
          (∀ p, p ≠ q → t.member p = s.member p) ∧
          t.drive n = { s.drive n with inSection := some i } ∧ (∀ m, m ≠ n → t.drive m = s.drive m) ∧
          t = { s.answered r .ok false [(q.val : Int), ((s.members i).length : Int)] with
            sections := t.sections, pool := t.pool, drives := t.drives })

/-- REMOVE MEMBER checks the section, its state and the membership in that order; then it takes the node's record out of the list: the members
behind it move up, the record returns to its free values, and the node's assigned section is absent (R9, R10, R13, R78). The premise is the
invariant of R9. -/
def Obligations.RemoveMemberClosesGap : Prop :=
  ∀ (s : State) (r : RequestFrame) (a b : Int), TakesCommission s r 33 → MembersConsistent s → operandValues r = [a, b] →
    let refused (code : ResultCode) : Prop := exec .removeMember s = .next (s.answered r code false [])
    (a < 0 ∨ 15 < a → refused .badValue) ∧
    ∀ i : SecId, a = i.val →
      ((s.sec i).state ≠ .bypass → refused .sectionActive) ∧
      ((s.sec i).state = .bypass → (∀ n : NodeId, b = n.val + 1 → (s.drive n).inSection ≠ some i) → refused .badValue) ∧
      ∀ (n : NodeId) (q : RecId), (s.sec i).state = .bypass → b = n.val + 1 → q ∈ s.members i → (s.member q).node = some n → ∃ t,
        exec .removeMember s = .next t ∧
        t.sec i = { s.sec i with members := (s.members i).filter (· ≠ q), lastSet := none } ∧
        (∀ j, j ≠ i → t.sec j = s.sec j) ∧
        t.member q = PoolRecord.free ∧
        (∀ (k : Nat) (p : RecId), ((s.members i).filter (· ≠ q))[k]? = some p →
          (t.member p).position.map Fin.val = some k ∧
            { t.member p with position := none } = { s.member p with position := none }) ∧
        (∀ p, p ∉ s.members i → t.member p = s.member p) ∧
        t.drive n = { s.drive n with inSection := none } ∧ (∀ m, m ≠ n → t.drive m = s.drive m) ∧
        t = { s.answered r .ok false [(q.val : Int)] with sections := t.sections, pool := t.pool, drives := t.drives }

/-- MAKE LEAD makes the checks of REMOVE MEMBER; then it moves the node's record to position 0 and the records ahead of it back by one; of the lead
it changes nothing (R14, R78). The premise is the invariant of R9. -/
def Obligations.MakeLeadMovesToFront : Prop :=
  ∀ (s : State) (r : RequestFrame) (a b : Int), TakesCommission s r 34 → MembersConsistent s → operandValues r = [a, b] →
    let refused (code : ResultCode) : Prop := exec .makeLead s = .next (s.answered r code false [])
    (a < 0 ∨ 15 < a → refused .badValue) ∧
    ∀ i : SecId, a = i.val →
      ((s.sec i).state ≠ .bypass → refused .sectionActive) ∧
      ((s.sec i).state = .bypass → (∀ n : NodeId, b = n.val + 1 → (s.drive n).inSection ≠ some i) → refused .badValue) ∧
      ∀ (n : NodeId) (q : RecId), (s.sec i).state = .bypass → b = n.val + 1 → q ∈ s.members i → (s.member q).node = some n →
        ((s.members i).head? = some q → exec .makeLead s = .next (s.answered r .ok false [])) ∧
        ((s.members i).head? ≠ some q → ∃ t,
          exec .makeLead s = .next t ∧
          t.sec i = { s.sec i with members := q :: (s.members i).filter (· ≠ q), lastSet := none } ∧
          (∀ j, j ≠ i → t.sec j = s.sec j) ∧
          (∀ (k : Nat) (p : RecId), (q :: (s.members i).filter (· ≠ q))[k]? = some p →
            (t.member p).position.map Fin.val = some k ∧
              { t.member p with position := none } = { s.member p with position := none }) ∧
          (∀ p, p ∉ s.members i → t.member p = s.member p) ∧
          t = { s.answered r .ok false [] with sections := t.sections, pool := t.pool })

/-! ## Injection, snapshots, capture commands -/

/-- INJECT FEEDBACK makes checks 3 to 9 of R85 in their order, each with its data; an accepted one writes the node's record as a used return with
source INJECTED, leaves every other record, and does the work of R81 as a used return does: drive fault, set completion, watch points with source
INJECTED. It answers 1 exactly where it caused the set to be evaluated (R41, R80, R81, R82, R85, R86). That a set which a membership change of
the same cycle let become complete is handed on like any other is the model's choice (log entry 33). -/
def Obligations.InjectionWritesFeedback : Prop :=
  ∀ (s : State) (r : RequestFrame) (node raw load status : Int), TakesCommission s r 35 →
    operandValues r = [node, raw, load, status] →
    let refused (code : ResultCode) (data : List Int) : Prop := exec .injectFeedback s = .next (s.answered r code false data)
    (node < 1 ∨ 62 < node → refused .badValue [1]) ∧
    ∀ n : NodeId, node = n.val + 1 →
      ((s.drive n).inSection = none → refused .badValue [2]) ∧
      ∀ i : SecId, (s.drive n).inSection = some i →
        ((s.sec i).state ≠ .selected → refused .wrongState [((s.sec i).state.code : Int)]) ∧
        ((s.sec i).state = .selected →
          (s.cycleOpen = false → refused .wrongState [1, -1]) ∧
          (s.cycleOpen = true → raw < -8388608 ∨ 8388607 < raw → refused .badValue [3]) ∧
          (s.cycleOpen = true → -8388608 ≤ raw → raw ≤ 8388607 → load < -32768 ∨ 32767 < load → refused .badValue [4]) ∧
          (s.cycleOpen = true → -8388608 ≤ raw → raw ≤ 8388607 → -32768 ≤ load → load ≤ 32767 → status < 0 ∨ 31 < status →
            refused .badValue [5]) ∧
          (s.cycleOpen = true → -8388608 ≤ raw → raw ≤ 8388607 → -32768 ≤ load → load ≤ 32767 → 0 ≤ status → status ≤ 31 →
            s.engine.holder ≠ some i → ∃ t v,
            let written : Feedback :=
              { rawSpeed := raw, rawLoad := load, status := BitVec.ofInt 5 status
                calibratedSpeed := clampTo (-8388607) 8388607
                  (roundDiv (((s.drive n).direction.sign * raw - (s.drive n).offset) * (s.drive n).gain) 16384)
                signedLoad := clampTo (-32768) 32767 ((s.drive n).direction.sign * load)
                cycle := s.cycle, source := some .injected, fresh := true
                missing := (s.drive n).feedback.missing, ever := true }
            let answer : Int := if (s.sec i).evaluated = false ∧ (t.sec i).evaluated = true then 1 else 0
            exec .injectFeedback s = .next t ∧
            (t.drive n).feedback = written ∧
            FeedbackFollowed (s.dropRequest.modDrive n fun d => { d with feedback := written }) v n .injected ∧
            t = v.postReply r.tag .ok false [answer] ∧
            (∀ m, m ≠ n → t.drive m = s.drive m) ∧ (∀ j, j ≠ i → t.sec j = s.sec j) ∧
            (∀ q, q ∉ s.members i → t.member q = s.member q) ∧
            t = { s.answered r .ok false [answer] with
              drives := t.drives, sections := t.sections, pool := t.pool, watches := t.watches, capture := t.capture
              events := t.events, nextSequence := t.nextSequence }))

/-- LATCH SNAPSHOT fills an empty latch with the live view and is IGNORED on a full one; READ SNAPSHOT returns the latch, or the live view where it
is empty, part 2 emptying a full latch; a section outside 0..15 and a part outside 0..2 are BAD_VALUE (R138, R139). -/
def Obligations.SnapshotLatchesAndReads : Prop :=
  ∀ (s : State) (r : RequestFrame) (level : Level),
    (∀ a : Int, TakesObserve s r 40 level → operandValues r = [a] → a < 0 ∨ 15 < a →
      exec .latchSnapshot s = .next (s.answered r .badValue false [])) ∧
    (∀ a part : Int, TakesObserve s r 41 level → operandValues r = [a, part] → a < 0 ∨ 15 < a ∨ part < 0 ∨ 2 < part →
      exec .readSnapshot s = .next (s.answered r .badValue false [])) ∧
    ∀ i : SecId,
      let live (k : Nat) : List Int := match (s.members i)[k]? with
        | some q => [optNode (s.member q).node, (s.member q).issued, (s.memberFeedback q).calibratedSpeed,
            (s.memberFeedback q).signedLoad, (s.member q).trim, (s.member q).imbalance, ((s.member q).clamp.code : Int)]
        | none => [-1, 0, 0, 0, 0, 0, 0]
      let head : List Int := [(s.cycle.toNat : Int), ((s.sec i).state.code : Int), (s.sec i).lineReference,
        (s.sec i).profile.offset, ((s.members i).length : Int)]
      (TakesObserve s r 40 level → operandValues r = [(i.val : Int)] →
        ((s.sec i).snapshot.isSome → exec .latchSnapshot s = .next (s.answered r .ignored false [])) ∧
        ((s.sec i).snapshot = none → ∃ (t : State) (v : Snapshot),
          exec .latchSnapshot s = .next t ∧ t.sec i = { s.sec i with snapshot := some v } ∧
          (∀ j, j ≠ i → t.sec j = s.sec j) ∧ v.part 1 0 = [1] ++ head ++ live 0 ∧ v.part 1 1 = live 1 ++ live 2 ∧
          v.part 1 2 = live 3 ∧ t = { s.answered r .ok false [] with sections := t.sections })) ∧
      (∀ part : Nat, part ≤ 2 → TakesObserve s r 41 level → operandValues r = [(i.val : Int), (part : Int)] →
        ((s.sec i).snapshot = none → exec .readSnapshot s = .next (s.answered r .ok false
          (if part = 0 then [0] ++ head ++ live 0 else if part = 1 then live 1 ++ live 2 else live 3))) ∧
        (∀ v, (s.sec i).snapshot = some v → ∃ t,
          exec .readSnapshot s = .next t ∧
          t.sec i = { s.sec i with snapshot := if part = 2 then none else some v } ∧ (∀ j, j ≠ i → t.sec j = s.sec j) ∧
          t = { s.answered r .ok false (v.part 1 part) with sections := t.sections }))

/-- CAPTURE START makes the checks of R145 in their order, and where all pass clears the buffer and its counts and enters RUNNING, or WAITING in
TRIGGERED mode; the pairings of field and source that the fourth check allows are those of R143. CAPTURE STOP follows the table of R146 and
TRIGGER CAPTURE, the COMMAND trigger, that of R147. -/
def Obligations.CaptureCommandsFollowTheirTables : Prop :=
  (∀ item : CaptureItem, item.allowed = true ↔
    (item.field = .reference ∧ (item.source = .line ∨ item.source = .issued)) ∨
    ((item.field = .actualSpeed ∨ item.field = .load ∨ item.field = .status) ∧
      (item.source = .drive ∨ item.source = .calibrated)) ∨ item.field = .imbalance ∨ item.field = .trim) ∧
  ∀ (s : State) (r : RequestFrame) (level : Level), r.operands = [] →
    (TakesObserve s r 48 level →
      let c := s.capture
      let stopped : Prop := c.state = .idle ∨ c.state = .done
      let watchFault : Prop := c.mode ≠ .once ∧ c.triggerKind = .watch ∧ 3 < c.triggerIndex
      (¬ stopped → exec .captureStart s = .next (s.answered r .wrongState false [(c.state.code : Int)])) ∧
      (stopped → s.activeList = [] → exec .captureStart s = .next (s.answered r .badValue false [-1])) ∧
      (∀ (k : Nat) (item : CaptureItem), stopped → s.activeList[k]? = some item → item.allowed = false →
        (∀ (j : Nat) (other : CaptureItem), j < k → s.activeList[j]? = some other → other.allowed = true) →
        exec .captureStart s = .next (s.answered r .badValue false [(k : Int)])) ∧
      (stopped → s.activeList ≠ [] → (∀ item ∈ s.activeList, item.allowed = true) → watchFault →
        exec .captureStart s = .next (s.answered r .badValue false [8])) ∧
      (stopped → s.activeList ≠ [] → (∀ item ∈ s.activeList, item.allowed = true) → ¬ watchFault →
        exec .captureStart s = .next { s.answered r .ok false [] with
          buffer := []
          capture := { c with
            recordCount := 0, writeIndex := 0, wrapped := false, nextItem := 0, remaining := 0
            state := if c.mode = .triggered then .waiting else .running } })) ∧
    (TakesObserve s r 49 level →
      (s.capture.state = .running ∨ s.capture.state = .post → exec .captureStop s = .next
        { s.answered r .ok false [] with capture := { s.capture with state := .done, remaining := 0 } }) ∧
      (s.capture.state = .waiting → exec .captureStop s = .next
        { s.answered r .ok false [] with capture := { s.capture with state := .idle } }) ∧
      (s.capture.state = .idle ∨ s.capture.state = .done →
        exec .captureStop s = .next (s.answered r .ignored false []))) ∧
    (TakesObserve s r 50 level →
      let begins : Prop := s.capture.mode = .triggered ∧ s.capture.state = .waiting
      let posts : Prop := s.capture.mode = .loop ∧ s.capture.state = .running
      (s.capture.triggerKind = .command → begins → exec .triggerCapture s = .next
        { s.answered r .ok false [] with
          capture := { s.capture with state := .running, remaining := s.capture.runLength, nextItem := 0 } }) ∧
      (s.capture.triggerKind = .command → posts → s.capture.postCount ≠ 0 → exec .triggerCapture s = .next
        { s.answered r .ok false [] with capture := { s.capture with state := .post, remaining := s.capture.postCount } }) ∧
      (s.capture.triggerKind = .command → posts → s.capture.postCount = 0 → ∃ t, exec .triggerCapture s = .next t ∧
        t.capture = { s.capture with state := .done } ∧
        Posted s t .captureDone none none none (some (s.capture.recordCount : Int)) 1 ∧
        t = { s.answered r .ok false [] with capture := t.capture, events := t.events, nextSequence := t.nextSequence }) ∧
      (s.capture.triggerKind ≠ .command ∨ (¬ begins ∧ ¬ posts) →
        exec .triggerCapture s = .next (s.answered r .ignored false [])))

/-! ## Encoding and invariants -/

/-- A frame that the layout of R151 can carry is read back from its bytes at its port with every field, so its check word, length and counts pass
the tests of R152. -/
def Obligations.FrameRoundTrip : Prop :=
  ∀ f : Frame, f.wf = true → receive f.port f.bytes = .ok f

/-- The state after reset has every property that the model's invariants state. -/
def Obligations.InvariantsHoldAtReset : Prop :=
  EventsInOrder State.reset ∧ EngineHeld State.reset ∧ TargetsAndFaultCodes State.reset ∧ PermitRespected State.reset ∧
    CalibrationInRange State.reset ∧ MembersConsistent State.reset ∧ ConfigInRange State.reset ∧ TrimsInLimit State.reset ∧
    PassingMembersClean State.reset ∧ SegmentsInRange State.reset ∧ ProfileInRange State.reset ∧ QueuesBounded State.reset ∧
    CountsInRange State.reset ∧ CursorsExist State.reset ∧ BufferWithinBounds State.reset

/-- The Event Queue holds at most 32 records whose sequence numbers run consecutively modulo 65,536, and every step keeps it so (R167). -/
def Obligations.EventsStayInOrder : Prop := KeptByStep EventsInOrder

/-- The section in CALIBRATING is the one that holds the engine, so at most one is, and the engine is free whenever none is (R36); a section has a
release target exactly in RELEASING and a fault code, one of the four fault causes, exactly in FAULTED (R7, R24). Every step keeps it so. -/
def Obligations.EngineAndTargetsStayConsistent : Prop := KeptByStep fun s => EngineHeld s ∧ TargetsAndFaultCodes s

/-- While the permit line is inactive, no section is in TRIAL, FROZEN or CALIBRATING; every step keeps it so (R39). -/
def Obligations.PermitStaysRespected : Prop := KeptByStep PermitRespected

/-- Member lists, pool records and assigned sections stay consistent (R9, R10). -/
def Obligations.MembersStayConsistent : Prop := KeptByStep MembersConsistent

/-- With consistent lists and configuration in range, every share trim lies within ±Tlim of its section (R71), and in BYPASS, SELECTED and FAULTED
every trim and held offset is 0 and every clamp flag NONE (R25, R61, R74); every step keeps it so. -/
def Obligations.TrimsAndOffsetsStayBounded : Prop :=
  KeptByStep fun s => MembersConsistent s ∧ ConfigInRange s ∧ TrimsInLimit s ∧ PassingMembersClean s

/-- Every Drive Map entry keeps a calibration gain in 12,288..20,480 and an offset in -100,000..+100,000 (R18), segment records stay within their
ranges with every SQUARE at least 2 long (R97), and every profile offset stays within ±200,000 (R105). -/
def Obligations.CalibrationSegmentsAndProfilesStayInRange : Prop :=
  KeptByStep fun s => CalibrationInRange s ∧ SegmentsInRange s ∧ ProfileInRange s

/-- The link queues stay within their sizes (R154, R156), the saturating counts within their ranges (R51, R83, R103, R124, R131), and the cursors
on fields that exist (R166); the Capture Buffer stays within its 1,024 positions, with its counts in range, its records from position 0 on
until it is full and its write index at 0 when full until it wraps (R141, R142), and in canonical form, which is the model's way of storing
it (log entry 16). -/
def Obligations.QueuesCountsCursorsAndBufferStayBounded : Prop :=
  KeptByStep fun s => QueuesBounded s ∧ CountsInRange s ∧ CursorsExist s ∧ BufferWithinBounds s
end

