-- ==== Sys2Proof/Laws/Codec.lean ====
section
/-! SUPPORT. The fields of a frame are read back from the bytes they were written as (R151). -/

namespace Sys2Proof

/-- Two adjoining runs of bits of a word, joined again. -/
theorem extract_append {n a b : Nat} (x : BitVec n) (k : Nat) :
    (x.extractLsb' (k + b) a ++ x.extractLsb' k b : BitVec (a + b)) = x.extractLsb' k (a + b) := by
  apply BitVec.eq_of_getLsbD_eq
  intro i hi
  rw [BitVec.getLsbD_append]
  simp only [BitVec.getLsbD_extractLsb']
  by_cases h : i < b
  · simp [h, show i < a + b by omega]
  · simp [h, hi, show i - b < a by omega, show k + b + (i - b) = k + i by omega]

/-- A 16-bit field from its bytes. -/
theorem word16_extract (x : Word16) : word16 (x.extractLsb' 8 8) (x.extractLsb' 0 8) = x :=
  (extract_append (a := 8) (b := 8) x 0).trans BitVec.extractLsb'_eq_self

/-- A 24-bit field from its bytes. -/
theorem word24_extract (x : Word24) : word24 (x.extractLsb' 16 8) (x.extractLsb' 8 8) (x.extractLsb' 0 8) = x := by
  have h1 := extract_append (a := 8) (b := 8) x 0
  have h2 := extract_append (a := 8) (b := 16) x 0
  unfold word24
  exact (congrArg (fun y : BitVec 16 => (x.extractLsb' 16 8 ++ y : BitVec 24)) h1).trans (h2.trans BitVec.extractLsb'_eq_self)

/-- A 32-bit field from its bytes. -/
theorem word32_extract (x : Word32) :
    word32 (x.extractLsb' 24 8) (x.extractLsb' 16 8) (x.extractLsb' 8 8) (x.extractLsb' 0 8) = x := by
  have h1 := extract_append (a := 8) (b := 8) x 0
  have h2 := extract_append (a := 8) (b := 16) x 0
  have h3 := extract_append (a := 8) (b := 24) x 0
  unfold word32
  refine (congrArg (fun y : BitVec 16 => (x.extractLsb' 24 8 ++ (x.extractLsb' 16 8 ++ y : BitVec 24) : BitVec 32)) h1).trans ?_
  exact (congrArg (fun y : BitVec 24 => (x.extractLsb' 24 8 ++ y : BitVec 32)) h2).trans (h3.trans BitVec.extractLsb'_eq_self)

/-- A drive command from its code. -/
theorem DriveCommand.ofCode_code (c : DriveCommand) : DriveCommand.ofCode c.code = some c := by cases c <;> rfl

/-- A drive command code fits in a byte. -/
theorem DriveCommand.code_lt (c : DriveCommand) : c.code < 256 := by cases c <;> decide

/-- Dispatch entries from their bytes. -/
theorem readEntries_bytes : ∀ es : List Entry, readEntries (es.flatMap Entry.bytes) = some es
  | [] => rfl
  | e :: es => by
    have hc : (BitVec.ofNat 8 e.command.code).toNat = e.command.code := by
      simp [Nat.mod_eq_of_lt e.command.code_lt]
    simp only [List.flatMap_cons, Entry.bytes, bytes24, List.cons_append, List.nil_append]
    unfold readEntries
    rw [hc, DriveCommand.ofCode_code, readEntries_bytes es, word24_extract]

/-- Operand and data words from their bytes. -/
theorem readWords_bytes : ∀ ws : List Word32, readWords (ws.flatMap bytes32) = some ws
  | [] => rfl
  | w :: ws => by
    simp only [List.flatMap_cons, bytes32, List.cons_append, List.nil_append]
    unfold readWords
    rw [readWords_bytes ws, word32_extract]

/-- The bytes of a run of entries. -/
theorem entries_bytes_length (es : List Entry) : (es.flatMap Entry.bytes).length = 5 * es.length := by
  induction es with
  | nil => rfl
  | cons e es ih => simp [Entry.bytes, bytes24, ih]; omega

/-- The bytes of a run of words. -/
theorem words_bytes_length (ws : List Word32) : (ws.flatMap bytes32).length = 4 * ws.length := by
  induction ws with
  | nil => rfl
  | cons w ws ih => simp [bytes32, ih]; omega

end Sys2Proof
end

