-- ==== Sys2Proof/Laws/State.lean ====
section
/-! SUPPORT. What each update of the state leaves of each field, and what a table reads after one entry of it was changed. -/

namespace Sys2Proof.Machine

/-! ## Tables after one entry was changed -/

/-- A section after section i was changed. -/
theorem State.sec_modSec (s : State) (i j : SecId) (f : Section → Section) :
    (s.modSec i f).sec j = if j = i then f (s.sec i) else s.sec j := by
  unfold State.sec State.modSec
  by_cases h : j = i
  · subst h; simp
  · have : i.val ≠ j.val := fun e => h (Fin.ext e.symm)
    simp [h, this]

/-- Section i after it was changed. -/
@[simp] theorem State.sec_modSec_self (s : State) (i : SecId) (f : Section → Section) : (s.modSec i f).sec i = f (s.sec i) := by
  simp [State.sec_modSec]

/-- Another section after section i was changed. -/
theorem State.sec_modSec_ne (s : State) {i j : SecId} (h : j ≠ i) (f : Section → Section) : (s.modSec i f).sec j = s.sec j := by
  simp [State.sec_modSec, h]

/-- A pool record after record r was changed. -/
theorem State.member_modRec (s : State) (r q : RecId) (f : PoolRecord → PoolRecord) :
    (s.modRec r f).member q = if q = r then f (s.member r) else s.member q := by
  unfold State.member State.modRec
  by_cases h : q = r
  · subst h; simp
  · have : r.val ≠ q.val := fun e => h (Fin.ext e.symm)
    simp [h, this]

/-- A Drive Map entry after the entry of node n was changed. -/
theorem State.drive_modDrive (s : State) (n m : NodeId) (f : DriveEntry → DriveEntry) :
    (s.modDrive n f).drive m = if m = n then f (s.drive n) else s.drive m := by
  unfold State.drive State.modDrive
  by_cases h : m = n
  · subst h; simp
  · have : n.val ≠ m.val := fun e => h (Fin.ext e.symm)
    simp [h, this]

/-- A watch point after point w was changed. -/
theorem State.watch_modWatch (s : State) (w x : WatchId) (f : WatchPoint → WatchPoint) :
    (s.modWatch w f).watch x = if x = w then f (s.watch w) else s.watch x := by
  unfold State.watch State.modWatch
  by_cases h : x = w
  · subst h; simp
  · have : w.val ≠ x.val := fun e => h (Fin.ext e.symm)
    simp [h, this]

/-- A segment record after record k was changed. -/
theorem State.segments_modSegment (s : State) (k j : Fin 128) (f : Segment → Segment) :
    (s.modSegment k f).segments[j] = if j = k then f s.segments[k] else s.segments[j] := by
  unfold State.modSegment
  by_cases h : j = k
  · subst h; simp
  · have : k.val ≠ j.val := fun e => h (Fin.ext e.symm)
    simp [h, this]

/-- A capture item after item k was changed. -/
theorem State.captureList_modItem (s : State) (k j : Fin 8) (f : CaptureItem → CaptureItem) :
    (s.modItem k f).captureList[j] = if j = k then f s.captureList[k] else s.captureList[j] := by
  unfold State.modItem
  by_cases h : j = k
  · subst h; simp
  · have : k.val ≠ j.val := fun e => h (Fin.ext e.symm)
    simp [h, this]

/-- The changed field of each update of one record. -/
@[simp] theorem State.capture_modCapture (s : State) (f : CaptureControl → CaptureControl) :
    (s.modCapture f).capture = f s.capture := rfl

/-- The changed field of each update of the engine. -/
@[simp] theorem State.engine_modEngine (s : State) (f : Engine → Engine) : (s.modEngine f).engine = f s.engine := rfl

/-- The request queue after its head was taken. -/
@[simp] theorem State.requests_dropRequest (s : State) : s.dropRequest.requests = s.requests.tail := rfl

/-- The reply queue after a reply was posted. -/
@[simp] theorem State.replyQueue_postReply (s : State) (tag : Byte) (c : ResultCode) (w : Bool) (d : List Int) :
    (s.postReply tag c w d).replyQueue = s.replyQueue ++
      [⟨s.readyCount, .reply ⟨s.stationByte, s.cycle, s.stationByte, tag, resultByte c w, d.map dataWord⟩⟩] := rfl

/-- The order number after a reply was posted. -/
@[simp] theorem State.readyCount_postReply (s : State) (tag : Byte) (c : ResultCode) (w : Bool) (d : List Int) :
    (s.postReply tag c w d).readyCount = s.readyCount + 1 := rfl

/-- The station slot after a station frame was placed. -/
@[simp] theorem State.stationSlot_placeStationFrame (s : State) :
    s.placeStationFrame.stationSlot = some ⟨s.readyCount, .station s.stationFrame⟩ := rfl

/-- The order number after a station frame was placed. -/
@[simp] theorem State.readyCount_placeStationFrame (s : State) : s.placeStationFrame.readyCount = s.readyCount + 1 := rfl

/-- Changing records changes the pool alone. -/
theorem State.modRecs_frame (s : State) (rs : List RecId) (f : PoolRecord → PoolRecord) :
    s.modRecs rs f = { s with pool := (s.modRecs rs f).pool } := by
  unfold State.modRecs
  induction rs generalizing s with
  | nil => rfl
  | cons r rs ih => rw [List.foldl_cons, ih]; rfl


/-! ## modSec -/

@[simp] theorem State.powered_modSec (s : State) (i : SecId) (f : Section → Section) : (s.modSec i f).powered = s.powered := rfl
@[simp] theorem State.station_modSec (s : State) (i : SecId) (f : Section → Section) : (s.modSec i f).station = s.station := rfl
@[simp] theorem State.permit_modSec (s : State) (i : SecId) (f : Section → Section) : (s.modSec i f).permit = s.permit := rfl
@[simp] theorem State.timeout_modSec (s : State) (i : SecId) (f : Section → Section) : (s.modSec i f).timeout = s.timeout := rfl
@[simp] theorem State.timer_modSec (s : State) (i : SecId) (f : Section → Section) : (s.modSec i f).timer = s.timer := rfl
@[simp] theorem State.timerPeriod_modSec (s : State) (i : SecId) (f : Section → Section) : (s.modSec i f).timerPeriod = s.timerPeriod := rfl
@[simp] theorem State.cycle_modSec (s : State) (i : SecId) (f : Section → Section) : (s.modSec i f).cycle = s.cycle := rfl
@[simp] theorem State.cycleOpen_modSec (s : State) (i : SecId) (f : Section → Section) : (s.modSec i f).cycleOpen = s.cycleOpen := rfl
@[simp] theorem State.pool_modSec (s : State) (i : SecId) (f : Section → Section) : (s.modSec i f).pool = s.pool := rfl
@[simp] theorem State.drives_modSec (s : State) (i : SecId) (f : Section → Section) : (s.modSec i f).drives = s.drives := rfl
@[simp] theorem State.segments_modSec (s : State) (i : SecId) (f : Section → Section) : (s.modSec i f).segments = s.segments := rfl
@[simp] theorem State.watches_modSec (s : State) (i : SecId) (f : Section → Section) : (s.modSec i f).watches = s.watches := rfl
@[simp] theorem State.engine_modSec (s : State) (i : SecId) (f : Section → Section) : (s.modSec i f).engine = s.engine := rfl
@[simp] theorem State.captureList_modSec (s : State) (i : SecId) (f : Section → Section) : (s.modSec i f).captureList = s.captureList := rfl
@[simp] theorem State.capture_modSec (s : State) (i : SecId) (f : Section → Section) : (s.modSec i f).capture = s.capture := rfl
@[simp] theorem State.buffer_modSec (s : State) (i : SecId) (f : Section → Section) : (s.modSec i f).buffer = s.buffer := rfl
@[simp] theorem State.events_modSec (s : State) (i : SecId) (f : Section → Section) : (s.modSec i f).events = s.events := rfl
@[simp] theorem State.nextSequence_modSec (s : State) (i : SecId) (f : Section → Section) : (s.modSec i f).nextSequence = s.nextSequence := rfl
@[simp] theorem State.observeCursor_modSec (s : State) (i : SecId) (f : Section → Section) : (s.modSec i f).observeCursor = s.observeCursor := rfl
@[simp] theorem State.commissionCursor_modSec (s : State) (i : SecId) (f : Section → Section) : (s.modSec i f).commissionCursor = s.commissionCursor := rfl
@[simp] theorem State.requests_modSec (s : State) (i : SecId) (f : Section → Section) : (s.modSec i f).requests = s.requests := rfl
@[simp] theorem State.downstreamQueue_modSec (s : State) (i : SecId) (f : Section → Section) : (s.modSec i f).downstreamQueue = s.downstreamQueue := rfl
@[simp] theorem State.throughQueue_modSec (s : State) (i : SecId) (f : Section → Section) : (s.modSec i f).throughQueue = s.throughQueue := rfl
@[simp] theorem State.replyQueue_modSec (s : State) (i : SecId) (f : Section → Section) : (s.modSec i f).replyQueue = s.replyQueue := rfl
@[simp] theorem State.stationSlot_modSec (s : State) (i : SecId) (f : Section → Section) : (s.modSec i f).stationSlot = s.stationSlot := rfl
@[simp] theorem State.readyCount_modSec (s : State) (i : SecId) (f : Section → Section) : (s.modSec i f).readyCount = s.readyCount := rfl
@[simp] theorem State.upstreamSent_modSec (s : State) (i : SecId) (f : Section → Section) : (s.modSec i f).upstreamSent = s.upstreamSent := rfl
@[simp] theorem State.downstreamSent_modSec (s : State) (i : SecId) (f : Section → Section) : (s.modSec i f).downstreamSent = s.downstreamSent := rfl
@[simp] theorem State.freeDraws_modSec (s : State) (i : SecId) (f : Section → Section) : (s.modSec i f).freeDraws = s.freeDraws := rfl
@[simp] theorem State.pending_modSec (s : State) (i : SecId) (f : Section → Section) : (s.modSec i f).pending = s.pending := rfl
@[simp] theorem State.member_modSec (s : State) (i : SecId) (f : Section → Section) (q : RecId) :
    (s.modSec i f).member q = s.member q := rfl
@[simp] theorem State.drive_modSec (s : State) (i : SecId) (f : Section → Section) (m : NodeId) :
    (s.modSec i f).drive m = s.drive m := rfl
@[simp] theorem State.watch_modSec (s : State) (i : SecId) (f : Section → Section) (x : WatchId) :
    (s.modSec i f).watch x = s.watch x := rfl
@[simp] theorem State.segment_modSec (s : State) (i : SecId) (f : Section → Section) (k' : Nat) :
    (s.modSec i f).segment k' = s.segment k' := rfl

/-! ## modRec -/

@[simp] theorem State.powered_modRec (s : State) (r : RecId) (f : PoolRecord → PoolRecord) : (s.modRec r f).powered = s.powered := rfl
@[simp] theorem State.station_modRec (s : State) (r : RecId) (f : PoolRecord → PoolRecord) : (s.modRec r f).station = s.station := rfl
@[simp] theorem State.permit_modRec (s : State) (r : RecId) (f : PoolRecord → PoolRecord) : (s.modRec r f).permit = s.permit := rfl
@[simp] theorem State.timeout_modRec (s : State) (r : RecId) (f : PoolRecord → PoolRecord) : (s.modRec r f).timeout = s.timeout := rfl
@[simp] theorem State.timer_modRec (s : State) (r : RecId) (f : PoolRecord → PoolRecord) : (s.modRec r f).timer = s.timer := rfl
@[simp] theorem State.timerPeriod_modRec (s : State) (r : RecId) (f : PoolRecord → PoolRecord) : (s.modRec r f).timerPeriod = s.timerPeriod := rfl
@[simp] theorem State.cycle_modRec (s : State) (r : RecId) (f : PoolRecord → PoolRecord) : (s.modRec r f).cycle = s.cycle := rfl
@[simp] theorem State.cycleOpen_modRec (s : State) (r : RecId) (f : PoolRecord → PoolRecord) : (s.modRec r f).cycleOpen = s.cycleOpen := rfl
@[simp] theorem State.sections_modRec (s : State) (r : RecId) (f : PoolRecord → PoolRecord) : (s.modRec r f).sections = s.sections := rfl
@[simp] theorem State.drives_modRec (s : State) (r : RecId) (f : PoolRecord → PoolRecord) : (s.modRec r f).drives = s.drives := rfl
@[simp] theorem State.segments_modRec (s : State) (r : RecId) (f : PoolRecord → PoolRecord) : (s.modRec r f).segments = s.segments := rfl
@[simp] theorem State.watches_modRec (s : State) (r : RecId) (f : PoolRecord → PoolRecord) : (s.modRec r f).watches = s.watches := rfl
@[simp] theorem State.engine_modRec (s : State) (r : RecId) (f : PoolRecord → PoolRecord) : (s.modRec r f).engine = s.engine := rfl
@[simp] theorem State.captureList_modRec (s : State) (r : RecId) (f : PoolRecord → PoolRecord) : (s.modRec r f).captureList = s.captureList := rfl
@[simp] theorem State.capture_modRec (s : State) (r : RecId) (f : PoolRecord → PoolRecord) : (s.modRec r f).capture = s.capture := rfl
@[simp] theorem State.buffer_modRec (s : State) (r : RecId) (f : PoolRecord → PoolRecord) : (s.modRec r f).buffer = s.buffer := rfl
@[simp] theorem State.events_modRec (s : State) (r : RecId) (f : PoolRecord → PoolRecord) : (s.modRec r f).events = s.events := rfl
@[simp] theorem State.nextSequence_modRec (s : State) (r : RecId) (f : PoolRecord → PoolRecord) : (s.modRec r f).nextSequence = s.nextSequence := rfl
@[simp] theorem State.observeCursor_modRec (s : State) (r : RecId) (f : PoolRecord → PoolRecord) : (s.modRec r f).observeCursor = s.observeCursor := rfl
@[simp] theorem State.commissionCursor_modRec (s : State) (r : RecId) (f : PoolRecord → PoolRecord) : (s.modRec r f).commissionCursor = s.commissionCursor := rfl
@[simp] theorem State.requests_modRec (s : State) (r : RecId) (f : PoolRecord → PoolRecord) : (s.modRec r f).requests = s.requests := rfl
@[simp] theorem State.downstreamQueue_modRec (s : State) (r : RecId) (f : PoolRecord → PoolRecord) : (s.modRec r f).downstreamQueue = s.downstreamQueue := rfl
@[simp] theorem State.throughQueue_modRec (s : State) (r : RecId) (f : PoolRecord → PoolRecord) : (s.modRec r f).throughQueue = s.throughQueue := rfl
@[simp] theorem State.replyQueue_modRec (s : State) (r : RecId) (f : PoolRecord → PoolRecord) : (s.modRec r f).replyQueue = s.replyQueue := rfl
@[simp] theorem State.stationSlot_modRec (s : State) (r : RecId) (f : PoolRecord → PoolRecord) : (s.modRec r f).stationSlot = s.stationSlot := rfl
@[simp] theorem State.readyCount_modRec (s : State) (r : RecId) (f : PoolRecord → PoolRecord) : (s.modRec r f).readyCount = s.readyCount := rfl
@[simp] theorem State.upstreamSent_modRec (s : State) (r : RecId) (f : PoolRecord → PoolRecord) : (s.modRec r f).upstreamSent = s.upstreamSent := rfl
@[simp] theorem State.downstreamSent_modRec (s : State) (r : RecId) (f : PoolRecord → PoolRecord) : (s.modRec r f).downstreamSent = s.downstreamSent := rfl
@[simp] theorem State.freeDraws_modRec (s : State) (r : RecId) (f : PoolRecord → PoolRecord) : (s.modRec r f).freeDraws = s.freeDraws := rfl
@[simp] theorem State.pending_modRec (s : State) (r : RecId) (f : PoolRecord → PoolRecord) : (s.modRec r f).pending = s.pending := rfl
@[simp] theorem State.sec_modRec (s : State) (r : RecId) (f : PoolRecord → PoolRecord) (j : SecId) :
    (s.modRec r f).sec j = s.sec j := rfl
@[simp] theorem State.drive_modRec (s : State) (r : RecId) (f : PoolRecord → PoolRecord) (m : NodeId) :
    (s.modRec r f).drive m = s.drive m := rfl
@[simp] theorem State.watch_modRec (s : State) (r : RecId) (f : PoolRecord → PoolRecord) (x : WatchId) :
    (s.modRec r f).watch x = s.watch x := rfl
@[simp] theorem State.segment_modRec (s : State) (r : RecId) (f : PoolRecord → PoolRecord) (k' : Nat) :
    (s.modRec r f).segment k' = s.segment k' := rfl

/-! ## modDrive -/

@[simp] theorem State.powered_modDrive (s : State) (n : NodeId) (f : DriveEntry → DriveEntry) : (s.modDrive n f).powered = s.powered := rfl
@[simp] theorem State.station_modDrive (s : State) (n : NodeId) (f : DriveEntry → DriveEntry) : (s.modDrive n f).station = s.station := rfl
@[simp] theorem State.permit_modDrive (s : State) (n : NodeId) (f : DriveEntry → DriveEntry) : (s.modDrive n f).permit = s.permit := rfl
@[simp] theorem State.timeout_modDrive (s : State) (n : NodeId) (f : DriveEntry → DriveEntry) : (s.modDrive n f).timeout = s.timeout := rfl
@[simp] theorem State.timer_modDrive (s : State) (n : NodeId) (f : DriveEntry → DriveEntry) : (s.modDrive n f).timer = s.timer := rfl
@[simp] theorem State.timerPeriod_modDrive (s : State) (n : NodeId) (f : DriveEntry → DriveEntry) : (s.modDrive n f).timerPeriod = s.timerPeriod := rfl
@[simp] theorem State.cycle_modDrive (s : State) (n : NodeId) (f : DriveEntry → DriveEntry) : (s.modDrive n f).cycle = s.cycle := rfl
@[simp] theorem State.cycleOpen_modDrive (s : State) (n : NodeId) (f : DriveEntry → DriveEntry) : (s.modDrive n f).cycleOpen = s.cycleOpen := rfl
@[simp] theorem State.sections_modDrive (s : State) (n : NodeId) (f : DriveEntry → DriveEntry) : (s.modDrive n f).sections = s.sections := rfl
@[simp] theorem State.pool_modDrive (s : State) (n : NodeId) (f : DriveEntry → DriveEntry) : (s.modDrive n f).pool = s.pool := rfl
@[simp] theorem State.segments_modDrive (s : State) (n : NodeId) (f : DriveEntry → DriveEntry) : (s.modDrive n f).segments = s.segments := rfl
@[simp] theorem State.watches_modDrive (s : State) (n : NodeId) (f : DriveEntry → DriveEntry) : (s.modDrive n f).watches = s.watches := rfl
@[simp] theorem State.engine_modDrive (s : State) (n : NodeId) (f : DriveEntry → DriveEntry) : (s.modDrive n f).engine = s.engine := rfl
@[simp] theorem State.captureList_modDrive (s : State) (n : NodeId) (f : DriveEntry → DriveEntry) : (s.modDrive n f).captureList = s.captureList := rfl
@[simp] theorem State.capture_modDrive (s : State) (n : NodeId) (f : DriveEntry → DriveEntry) : (s.modDrive n f).capture = s.capture := rfl
@[simp] theorem State.buffer_modDrive (s : State) (n : NodeId) (f : DriveEntry → DriveEntry) : (s.modDrive n f).buffer = s.buffer := rfl
@[simp] theorem State.events_modDrive (s : State) (n : NodeId) (f : DriveEntry → DriveEntry) : (s.modDrive n f).events = s.events := rfl
@[simp] theorem State.nextSequence_modDrive (s : State) (n : NodeId) (f : DriveEntry → DriveEntry) : (s.modDrive n f).nextSequence = s.nextSequence := rfl
@[simp] theorem State.observeCursor_modDrive (s : State) (n : NodeId) (f : DriveEntry → DriveEntry) : (s.modDrive n f).observeCursor = s.observeCursor := rfl
@[simp] theorem State.commissionCursor_modDrive (s : State) (n : NodeId) (f : DriveEntry → DriveEntry) : (s.modDrive n f).commissionCursor = s.commissionCursor := rfl
@[simp] theorem State.requests_modDrive (s : State) (n : NodeId) (f : DriveEntry → DriveEntry) : (s.modDrive n f).requests = s.requests := rfl
@[simp] theorem State.downstreamQueue_modDrive (s : State) (n : NodeId) (f : DriveEntry → DriveEntry) : (s.modDrive n f).downstreamQueue = s.downstreamQueue := rfl
@[simp] theorem State.throughQueue_modDrive (s : State) (n : NodeId) (f : DriveEntry → DriveEntry) : (s.modDrive n f).throughQueue = s.throughQueue := rfl
@[simp] theorem State.replyQueue_modDrive (s : State) (n : NodeId) (f : DriveEntry → DriveEntry) : (s.modDrive n f).replyQueue = s.replyQueue := rfl
@[simp] theorem State.stationSlot_modDrive (s : State) (n : NodeId) (f : DriveEntry → DriveEntry) : (s.modDrive n f).stationSlot = s.stationSlot := rfl
@[simp] theorem State.readyCount_modDrive (s : State) (n : NodeId) (f : DriveEntry → DriveEntry) : (s.modDrive n f).readyCount = s.readyCount := rfl
@[simp] theorem State.upstreamSent_modDrive (s : State) (n : NodeId) (f : DriveEntry → DriveEntry) : (s.modDrive n f).upstreamSent = s.upstreamSent := rfl
@[simp] theorem State.downstreamSent_modDrive (s : State) (n : NodeId) (f : DriveEntry → DriveEntry) : (s.modDrive n f).downstreamSent = s.downstreamSent := rfl
@[simp] theorem State.freeDraws_modDrive (s : State) (n : NodeId) (f : DriveEntry → DriveEntry) : (s.modDrive n f).freeDraws = s.freeDraws := rfl
@[simp] theorem State.pending_modDrive (s : State) (n : NodeId) (f : DriveEntry → DriveEntry) : (s.modDrive n f).pending = s.pending := rfl
@[simp] theorem State.sec_modDrive (s : State) (n : NodeId) (f : DriveEntry → DriveEntry) (j : SecId) :
    (s.modDrive n f).sec j = s.sec j := rfl
@[simp] theorem State.member_modDrive (s : State) (n : NodeId) (f : DriveEntry → DriveEntry) (q : RecId) :
    (s.modDrive n f).member q = s.member q := rfl
@[simp] theorem State.watch_modDrive (s : State) (n : NodeId) (f : DriveEntry → DriveEntry) (x : WatchId) :
    (s.modDrive n f).watch x = s.watch x := rfl
@[simp] theorem State.segment_modDrive (s : State) (n : NodeId) (f : DriveEntry → DriveEntry) (k' : Nat) :
    (s.modDrive n f).segment k' = s.segment k' := rfl

/-! ## modWatch -/

@[simp] theorem State.powered_modWatch (s : State) (w : WatchId) (f : WatchPoint → WatchPoint) : (s.modWatch w f).powered = s.powered := rfl
@[simp] theorem State.station_modWatch (s : State) (w : WatchId) (f : WatchPoint → WatchPoint) : (s.modWatch w f).station = s.station := rfl
@[simp] theorem State.permit_modWatch (s : State) (w : WatchId) (f : WatchPoint → WatchPoint) : (s.modWatch w f).permit = s.permit := rfl
@[simp] theorem State.timeout_modWatch (s : State) (w : WatchId) (f : WatchPoint → WatchPoint) : (s.modWatch w f).timeout = s.timeout := rfl
@[simp] theorem State.timer_modWatch (s : State) (w : WatchId) (f : WatchPoint → WatchPoint) : (s.modWatch w f).timer = s.timer := rfl
@[simp] theorem State.timerPeriod_modWatch (s : State) (w : WatchId) (f : WatchPoint → WatchPoint) : (s.modWatch w f).timerPeriod = s.timerPeriod := rfl
@[simp] theorem State.cycle_modWatch (s : State) (w : WatchId) (f : WatchPoint → WatchPoint) : (s.modWatch w f).cycle = s.cycle := rfl
@[simp] theorem State.cycleOpen_modWatch (s : State) (w : WatchId) (f : WatchPoint → WatchPoint) : (s.modWatch w f).cycleOpen = s.cycleOpen := rfl
@[simp] theorem State.sections_modWatch (s : State) (w : WatchId) (f : WatchPoint → WatchPoint) : (s.modWatch w f).sections = s.sections := rfl
@[simp] theorem State.pool_modWatch (s : State) (w : WatchId) (f : WatchPoint → WatchPoint) : (s.modWatch w f).pool = s.pool := rfl
@[simp] theorem State.drives_modWatch (s : State) (w : WatchId) (f : WatchPoint → WatchPoint) : (s.modWatch w f).drives = s.drives := rfl
@[simp] theorem State.segments_modWatch (s : State) (w : WatchId) (f : WatchPoint → WatchPoint) : (s.modWatch w f).segments = s.segments := rfl
@[simp] theorem State.engine_modWatch (s : State) (w : WatchId) (f : WatchPoint → WatchPoint) : (s.modWatch w f).engine = s.engine := rfl
@[simp] theorem State.captureList_modWatch (s : State) (w : WatchId) (f : WatchPoint → WatchPoint) : (s.modWatch w f).captureList = s.captureList := rfl
@[simp] theorem State.capture_modWatch (s : State) (w : WatchId) (f : WatchPoint → WatchPoint) : (s.modWatch w f).capture = s.capture := rfl
@[simp] theorem State.buffer_modWatch (s : State) (w : WatchId) (f : WatchPoint → WatchPoint) : (s.modWatch w f).buffer = s.buffer := rfl
@[simp] theorem State.events_modWatch (s : State) (w : WatchId) (f : WatchPoint → WatchPoint) : (s.modWatch w f).events = s.events := rfl
@[simp] theorem State.nextSequence_modWatch (s : State) (w : WatchId) (f : WatchPoint → WatchPoint) : (s.modWatch w f).nextSequence = s.nextSequence := rfl
@[simp] theorem State.observeCursor_modWatch (s : State) (w : WatchId) (f : WatchPoint → WatchPoint) : (s.modWatch w f).observeCursor = s.observeCursor := rfl
@[simp] theorem State.commissionCursor_modWatch (s : State) (w : WatchId) (f : WatchPoint → WatchPoint) : (s.modWatch w f).commissionCursor = s.commissionCursor := rfl
@[simp] theorem State.requests_modWatch (s : State) (w : WatchId) (f : WatchPoint → WatchPoint) : (s.modWatch w f).requests = s.requests := rfl
@[simp] theorem State.downstreamQueue_modWatch (s : State) (w : WatchId) (f : WatchPoint → WatchPoint) : (s.modWatch w f).downstreamQueue = s.downstreamQueue := rfl
@[simp] theorem State.throughQueue_modWatch (s : State) (w : WatchId) (f : WatchPoint → WatchPoint) : (s.modWatch w f).throughQueue = s.throughQueue := rfl
@[simp] theorem State.replyQueue_modWatch (s : State) (w : WatchId) (f : WatchPoint → WatchPoint) : (s.modWatch w f).replyQueue = s.replyQueue := rfl
@[simp] theorem State.stationSlot_modWatch (s : State) (w : WatchId) (f : WatchPoint → WatchPoint) : (s.modWatch w f).stationSlot = s.stationSlot := rfl
@[simp] theorem State.readyCount_modWatch (s : State) (w : WatchId) (f : WatchPoint → WatchPoint) : (s.modWatch w f).readyCount = s.readyCount := rfl
@[simp] theorem State.upstreamSent_modWatch (s : State) (w : WatchId) (f : WatchPoint → WatchPoint) : (s.modWatch w f).upstreamSent = s.upstreamSent := rfl
@[simp] theorem State.downstreamSent_modWatch (s : State) (w : WatchId) (f : WatchPoint → WatchPoint) : (s.modWatch w f).downstreamSent = s.downstreamSent := rfl
@[simp] theorem State.freeDraws_modWatch (s : State) (w : WatchId) (f : WatchPoint → WatchPoint) : (s.modWatch w f).freeDraws = s.freeDraws := rfl
@[simp] theorem State.pending_modWatch (s : State) (w : WatchId) (f : WatchPoint → WatchPoint) : (s.modWatch w f).pending = s.pending := rfl
@[simp] theorem State.sec_modWatch (s : State) (w : WatchId) (f : WatchPoint → WatchPoint) (j : SecId) :
    (s.modWatch w f).sec j = s.sec j := rfl
@[simp] theorem State.member_modWatch (s : State) (w : WatchId) (f : WatchPoint → WatchPoint) (q : RecId) :
    (s.modWatch w f).member q = s.member q := rfl
@[simp] theorem State.drive_modWatch (s : State) (w : WatchId) (f : WatchPoint → WatchPoint) (m : NodeId) :
    (s.modWatch w f).drive m = s.drive m := rfl
@[simp] theorem State.segment_modWatch (s : State) (w : WatchId) (f : WatchPoint → WatchPoint) (k' : Nat) :
    (s.modWatch w f).segment k' = s.segment k' := rfl

/-! ## modSegment -/

@[simp] theorem State.powered_modSegment (s : State) (k : Fin 128) (f : Segment → Segment) : (s.modSegment k f).powered = s.powered := rfl
@[simp] theorem State.station_modSegment (s : State) (k : Fin 128) (f : Segment → Segment) : (s.modSegment k f).station = s.station := rfl
@[simp] theorem State.permit_modSegment (s : State) (k : Fin 128) (f : Segment → Segment) : (s.modSegment k f).permit = s.permit := rfl
@[simp] theorem State.timeout_modSegment (s : State) (k : Fin 128) (f : Segment → Segment) : (s.modSegment k f).timeout = s.timeout := rfl
@[simp] theorem State.timer_modSegment (s : State) (k : Fin 128) (f : Segment → Segment) : (s.modSegment k f).timer = s.timer := rfl
@[simp] theorem State.timerPeriod_modSegment (s : State) (k : Fin 128) (f : Segment → Segment) : (s.modSegment k f).timerPeriod = s.timerPeriod := rfl
@[simp] theorem State.cycle_modSegment (s : State) (k : Fin 128) (f : Segment → Segment) : (s.modSegment k f).cycle = s.cycle := rfl
@[simp] theorem State.cycleOpen_modSegment (s : State) (k : Fin 128) (f : Segment → Segment) : (s.modSegment k f).cycleOpen = s.cycleOpen := rfl
@[simp] theorem State.sections_modSegment (s : State) (k : Fin 128) (f : Segment → Segment) : (s.modSegment k f).sections = s.sections := rfl
@[simp] theorem State.pool_modSegment (s : State) (k : Fin 128) (f : Segment → Segment) : (s.modSegment k f).pool = s.pool := rfl
@[simp] theorem State.drives_modSegment (s : State) (k : Fin 128) (f : Segment → Segment) : (s.modSegment k f).drives = s.drives := rfl
@[simp] theorem State.watches_modSegment (s : State) (k : Fin 128) (f : Segment → Segment) : (s.modSegment k f).watches = s.watches := rfl
@[simp] theorem State.engine_modSegment (s : State) (k : Fin 128) (f : Segment → Segment) : (s.modSegment k f).engine = s.engine := rfl
@[simp] theorem State.captureList_modSegment (s : State) (k : Fin 128) (f : Segment → Segment) : (s.modSegment k f).captureList = s.captureList := rfl
@[simp] theorem State.capture_modSegment (s : State) (k : Fin 128) (f : Segment → Segment) : (s.modSegment k f).capture = s.capture := rfl
@[simp] theorem State.buffer_modSegment (s : State) (k : Fin 128) (f : Segment → Segment) : (s.modSegment k f).buffer = s.buffer := rfl
@[simp] theorem State.events_modSegment (s : State) (k : Fin 128) (f : Segment → Segment) : (s.modSegment k f).events = s.events := rfl
@[simp] theorem State.nextSequence_modSegment (s : State) (k : Fin 128) (f : Segment → Segment) : (s.modSegment k f).nextSequence = s.nextSequence := rfl
@[simp] theorem State.observeCursor_modSegment (s : State) (k : Fin 128) (f : Segment → Segment) : (s.modSegment k f).observeCursor = s.observeCursor := rfl
@[simp] theorem State.commissionCursor_modSegment (s : State) (k : Fin 128) (f : Segment → Segment) : (s.modSegment k f).commissionCursor = s.commissionCursor := rfl
@[simp] theorem State.requests_modSegment (s : State) (k : Fin 128) (f : Segment → Segment) : (s.modSegment k f).requests = s.requests := rfl
@[simp] theorem State.downstreamQueue_modSegment (s : State) (k : Fin 128) (f : Segment → Segment) : (s.modSegment k f).downstreamQueue = s.downstreamQueue := rfl
@[simp] theorem State.throughQueue_modSegment (s : State) (k : Fin 128) (f : Segment → Segment) : (s.modSegment k f).throughQueue = s.throughQueue := rfl
@[simp] theorem State.replyQueue_modSegment (s : State) (k : Fin 128) (f : Segment → Segment) : (s.modSegment k f).replyQueue = s.replyQueue := rfl
@[simp] theorem State.stationSlot_modSegment (s : State) (k : Fin 128) (f : Segment → Segment) : (s.modSegment k f).stationSlot = s.stationSlot := rfl
@[simp] theorem State.readyCount_modSegment (s : State) (k : Fin 128) (f : Segment → Segment) : (s.modSegment k f).readyCount = s.readyCount := rfl
@[simp] theorem State.upstreamSent_modSegment (s : State) (k : Fin 128) (f : Segment → Segment) : (s.modSegment k f).upstreamSent = s.upstreamSent := rfl
@[simp] theorem State.downstreamSent_modSegment (s : State) (k : Fin 128) (f : Segment → Segment) : (s.modSegment k f).downstreamSent = s.downstreamSent := rfl
@[simp] theorem State.freeDraws_modSegment (s : State) (k : Fin 128) (f : Segment → Segment) : (s.modSegment k f).freeDraws = s.freeDraws := rfl
@[simp] theorem State.pending_modSegment (s : State) (k : Fin 128) (f : Segment → Segment) : (s.modSegment k f).pending = s.pending := rfl
@[simp] theorem State.sec_modSegment (s : State) (k : Fin 128) (f : Segment → Segment) (j : SecId) :
    (s.modSegment k f).sec j = s.sec j := rfl
@[simp] theorem State.member_modSegment (s : State) (k : Fin 128) (f : Segment → Segment) (q : RecId) :
    (s.modSegment k f).member q = s.member q := rfl
@[simp] theorem State.drive_modSegment (s : State) (k : Fin 128) (f : Segment → Segment) (m : NodeId) :
    (s.modSegment k f).drive m = s.drive m := rfl
@[simp] theorem State.watch_modSegment (s : State) (k : Fin 128) (f : Segment → Segment) (x : WatchId) :
    (s.modSegment k f).watch x = s.watch x := rfl

/-! ## modItem -/

@[simp] theorem State.powered_modItem (s : State) (k : Fin 8) (f : CaptureItem → CaptureItem) : (s.modItem k f).powered = s.powered := rfl
@[simp] theorem State.station_modItem (s : State) (k : Fin 8) (f : CaptureItem → CaptureItem) : (s.modItem k f).station = s.station := rfl
@[simp] theorem State.permit_modItem (s : State) (k : Fin 8) (f : CaptureItem → CaptureItem) : (s.modItem k f).permit = s.permit := rfl
@[simp] theorem State.timeout_modItem (s : State) (k : Fin 8) (f : CaptureItem → CaptureItem) : (s.modItem k f).timeout = s.timeout := rfl
@[simp] theorem State.timer_modItem (s : State) (k : Fin 8) (f : CaptureItem → CaptureItem) : (s.modItem k f).timer = s.timer := rfl
@[simp] theorem State.timerPeriod_modItem (s : State) (k : Fin 8) (f : CaptureItem → CaptureItem) : (s.modItem k f).timerPeriod = s.timerPeriod := rfl
@[simp] theorem State.cycle_modItem (s : State) (k : Fin 8) (f : CaptureItem → CaptureItem) : (s.modItem k f).cycle = s.cycle := rfl
@[simp] theorem State.cycleOpen_modItem (s : State) (k : Fin 8) (f : CaptureItem → CaptureItem) : (s.modItem k f).cycleOpen = s.cycleOpen := rfl
@[simp] theorem State.sections_modItem (s : State) (k : Fin 8) (f : CaptureItem → CaptureItem) : (s.modItem k f).sections = s.sections := rfl
@[simp] theorem State.pool_modItem (s : State) (k : Fin 8) (f : CaptureItem → CaptureItem) : (s.modItem k f).pool = s.pool := rfl
@[simp] theorem State.drives_modItem (s : State) (k : Fin 8) (f : CaptureItem → CaptureItem) : (s.modItem k f).drives = s.drives := rfl
@[simp] theorem State.segments_modItem (s : State) (k : Fin 8) (f : CaptureItem → CaptureItem) : (s.modItem k f).segments = s.segments := rfl
@[simp] theorem State.watches_modItem (s : State) (k : Fin 8) (f : CaptureItem → CaptureItem) : (s.modItem k f).watches = s.watches := rfl
@[simp] theorem State.engine_modItem (s : State) (k : Fin 8) (f : CaptureItem → CaptureItem) : (s.modItem k f).engine = s.engine := rfl
@[simp] theorem State.capture_modItem (s : State) (k : Fin 8) (f : CaptureItem → CaptureItem) : (s.modItem k f).capture = s.capture := rfl
@[simp] theorem State.buffer_modItem (s : State) (k : Fin 8) (f : CaptureItem → CaptureItem) : (s.modItem k f).buffer = s.buffer := rfl
@[simp] theorem State.events_modItem (s : State) (k : Fin 8) (f : CaptureItem → CaptureItem) : (s.modItem k f).events = s.events := rfl
@[simp] theorem State.nextSequence_modItem (s : State) (k : Fin 8) (f : CaptureItem → CaptureItem) : (s.modItem k f).nextSequence = s.nextSequence := rfl
@[simp] theorem State.observeCursor_modItem (s : State) (k : Fin 8) (f : CaptureItem → CaptureItem) : (s.modItem k f).observeCursor = s.observeCursor := rfl
@[simp] theorem State.commissionCursor_modItem (s : State) (k : Fin 8) (f : CaptureItem → CaptureItem) : (s.modItem k f).commissionCursor = s.commissionCursor := rfl
@[simp] theorem State.requests_modItem (s : State) (k : Fin 8) (f : CaptureItem → CaptureItem) : (s.modItem k f).requests = s.requests := rfl
@[simp] theorem State.downstreamQueue_modItem (s : State) (k : Fin 8) (f : CaptureItem → CaptureItem) : (s.modItem k f).downstreamQueue = s.downstreamQueue := rfl
@[simp] theorem State.throughQueue_modItem (s : State) (k : Fin 8) (f : CaptureItem → CaptureItem) : (s.modItem k f).throughQueue = s.throughQueue := rfl
@[simp] theorem State.replyQueue_modItem (s : State) (k : Fin 8) (f : CaptureItem → CaptureItem) : (s.modItem k f).replyQueue = s.replyQueue := rfl
@[simp] theorem State.stationSlot_modItem (s : State) (k : Fin 8) (f : CaptureItem → CaptureItem) : (s.modItem k f).stationSlot = s.stationSlot := rfl
@[simp] theorem State.readyCount_modItem (s : State) (k : Fin 8) (f : CaptureItem → CaptureItem) : (s.modItem k f).readyCount = s.readyCount := rfl
@[simp] theorem State.upstreamSent_modItem (s : State) (k : Fin 8) (f : CaptureItem → CaptureItem) : (s.modItem k f).upstreamSent = s.upstreamSent := rfl
@[simp] theorem State.downstreamSent_modItem (s : State) (k : Fin 8) (f : CaptureItem → CaptureItem) : (s.modItem k f).downstreamSent = s.downstreamSent := rfl
@[simp] theorem State.freeDraws_modItem (s : State) (k : Fin 8) (f : CaptureItem → CaptureItem) : (s.modItem k f).freeDraws = s.freeDraws := rfl
@[simp] theorem State.pending_modItem (s : State) (k : Fin 8) (f : CaptureItem → CaptureItem) : (s.modItem k f).pending = s.pending := rfl
@[simp] theorem State.sec_modItem (s : State) (k : Fin 8) (f : CaptureItem → CaptureItem) (j : SecId) :
    (s.modItem k f).sec j = s.sec j := rfl
@[simp] theorem State.member_modItem (s : State) (k : Fin 8) (f : CaptureItem → CaptureItem) (q : RecId) :
    (s.modItem k f).member q = s.member q := rfl
@[simp] theorem State.drive_modItem (s : State) (k : Fin 8) (f : CaptureItem → CaptureItem) (m : NodeId) :
    (s.modItem k f).drive m = s.drive m := rfl
@[simp] theorem State.watch_modItem (s : State) (k : Fin 8) (f : CaptureItem → CaptureItem) (x : WatchId) :
    (s.modItem k f).watch x = s.watch x := rfl
@[simp] theorem State.segment_modItem (s : State) (k : Fin 8) (f : CaptureItem → CaptureItem) (k' : Nat) :
    (s.modItem k f).segment k' = s.segment k' := rfl

/-! ## modCapture -/

@[simp] theorem State.powered_modCapture (s : State) (f : CaptureControl → CaptureControl) : (s.modCapture f).powered = s.powered := rfl
@[simp] theorem State.station_modCapture (s : State) (f : CaptureControl → CaptureControl) : (s.modCapture f).station = s.station := rfl
@[simp] theorem State.permit_modCapture (s : State) (f : CaptureControl → CaptureControl) : (s.modCapture f).permit = s.permit := rfl
@[simp] theorem State.timeout_modCapture (s : State) (f : CaptureControl → CaptureControl) : (s.modCapture f).timeout = s.timeout := rfl
@[simp] theorem State.timer_modCapture (s : State) (f : CaptureControl → CaptureControl) : (s.modCapture f).timer = s.timer := rfl
@[simp] theorem State.timerPeriod_modCapture (s : State) (f : CaptureControl → CaptureControl) : (s.modCapture f).timerPeriod = s.timerPeriod := rfl
@[simp] theorem State.cycle_modCapture (s : State) (f : CaptureControl → CaptureControl) : (s.modCapture f).cycle = s.cycle := rfl
@[simp] theorem State.cycleOpen_modCapture (s : State) (f : CaptureControl → CaptureControl) : (s.modCapture f).cycleOpen = s.cycleOpen := rfl
@[simp] theorem State.sections_modCapture (s : State) (f : CaptureControl → CaptureControl) : (s.modCapture f).sections = s.sections := rfl
@[simp] theorem State.pool_modCapture (s : State) (f : CaptureControl → CaptureControl) : (s.modCapture f).pool = s.pool := rfl
@[simp] theorem State.drives_modCapture (s : State) (f : CaptureControl → CaptureControl) : (s.modCapture f).drives = s.drives := rfl
@[simp] theorem State.segments_modCapture (s : State) (f : CaptureControl → CaptureControl) : (s.modCapture f).segments = s.segments := rfl
@[simp] theorem State.watches_modCapture (s : State) (f : CaptureControl → CaptureControl) : (s.modCapture f).watches = s.watches := rfl
@[simp] theorem State.engine_modCapture (s : State) (f : CaptureControl → CaptureControl) : (s.modCapture f).engine = s.engine := rfl
@[simp] theorem State.captureList_modCapture (s : State) (f : CaptureControl → CaptureControl) : (s.modCapture f).captureList = s.captureList := rfl
@[simp] theorem State.buffer_modCapture (s : State) (f : CaptureControl → CaptureControl) : (s.modCapture f).buffer = s.buffer := rfl
@[simp] theorem State.events_modCapture (s : State) (f : CaptureControl → CaptureControl) : (s.modCapture f).events = s.events := rfl
@[simp] theorem State.nextSequence_modCapture (s : State) (f : CaptureControl → CaptureControl) : (s.modCapture f).nextSequence = s.nextSequence := rfl
@[simp] theorem State.observeCursor_modCapture (s : State) (f : CaptureControl → CaptureControl) : (s.modCapture f).observeCursor = s.observeCursor := rfl
@[simp] theorem State.commissionCursor_modCapture (s : State) (f : CaptureControl → CaptureControl) : (s.modCapture f).commissionCursor = s.commissionCursor := rfl
@[simp] theorem State.requests_modCapture (s : State) (f : CaptureControl → CaptureControl) : (s.modCapture f).requests = s.requests := rfl
@[simp] theorem State.downstreamQueue_modCapture (s : State) (f : CaptureControl → CaptureControl) : (s.modCapture f).downstreamQueue = s.downstreamQueue := rfl
@[simp] theorem State.throughQueue_modCapture (s : State) (f : CaptureControl → CaptureControl) : (s.modCapture f).throughQueue = s.throughQueue := rfl
@[simp] theorem State.replyQueue_modCapture (s : State) (f : CaptureControl → CaptureControl) : (s.modCapture f).replyQueue = s.replyQueue := rfl
@[simp] theorem State.stationSlot_modCapture (s : State) (f : CaptureControl → CaptureControl) : (s.modCapture f).stationSlot = s.stationSlot := rfl
@[simp] theorem State.readyCount_modCapture (s : State) (f : CaptureControl → CaptureControl) : (s.modCapture f).readyCount = s.readyCount := rfl
@[simp] theorem State.upstreamSent_modCapture (s : State) (f : CaptureControl → CaptureControl) : (s.modCapture f).upstreamSent = s.upstreamSent := rfl
@[simp] theorem State.downstreamSent_modCapture (s : State) (f : CaptureControl → CaptureControl) : (s.modCapture f).downstreamSent = s.downstreamSent := rfl
@[simp] theorem State.freeDraws_modCapture (s : State) (f : CaptureControl → CaptureControl) : (s.modCapture f).freeDraws = s.freeDraws := rfl
@[simp] theorem State.pending_modCapture (s : State) (f : CaptureControl → CaptureControl) : (s.modCapture f).pending = s.pending := rfl
@[simp] theorem State.sec_modCapture (s : State) (f : CaptureControl → CaptureControl) (j : SecId) :
    (s.modCapture f).sec j = s.sec j := rfl
@[simp] theorem State.member_modCapture (s : State) (f : CaptureControl → CaptureControl) (q : RecId) :
    (s.modCapture f).member q = s.member q := rfl
@[simp] theorem State.drive_modCapture (s : State) (f : CaptureControl → CaptureControl) (m : NodeId) :
    (s.modCapture f).drive m = s.drive m := rfl
@[simp] theorem State.watch_modCapture (s : State) (f : CaptureControl → CaptureControl) (x : WatchId) :
    (s.modCapture f).watch x = s.watch x := rfl
@[simp] theorem State.segment_modCapture (s : State) (f : CaptureControl → CaptureControl) (k' : Nat) :
    (s.modCapture f).segment k' = s.segment k' := rfl

/-! ## modEngine -/

@[simp] theorem State.powered_modEngine (s : State) (f : Engine → Engine) : (s.modEngine f).powered = s.powered := rfl
@[simp] theorem State.station_modEngine (s : State) (f : Engine → Engine) : (s.modEngine f).station = s.station := rfl
@[simp] theorem State.permit_modEngine (s : State) (f : Engine → Engine) : (s.modEngine f).permit = s.permit := rfl
@[simp] theorem State.timeout_modEngine (s : State) (f : Engine → Engine) : (s.modEngine f).timeout = s.timeout := rfl
@[simp] theorem State.timer_modEngine (s : State) (f : Engine → Engine) : (s.modEngine f).timer = s.timer := rfl
@[simp] theorem State.timerPeriod_modEngine (s : State) (f : Engine → Engine) : (s.modEngine f).timerPeriod = s.timerPeriod := rfl
@[simp] theorem State.cycle_modEngine (s : State) (f : Engine → Engine) : (s.modEngine f).cycle = s.cycle := rfl
@[simp] theorem State.cycleOpen_modEngine (s : State) (f : Engine → Engine) : (s.modEngine f).cycleOpen = s.cycleOpen := rfl
@[simp] theorem State.sections_modEngine (s : State) (f : Engine → Engine) : (s.modEngine f).sections = s.sections := rfl
@[simp] theorem State.pool_modEngine (s : State) (f : Engine → Engine) : (s.modEngine f).pool = s.pool := rfl
@[simp] theorem State.drives_modEngine (s : State) (f : Engine → Engine) : (s.modEngine f).drives = s.drives := rfl
@[simp] theorem State.segments_modEngine (s : State) (f : Engine → Engine) : (s.modEngine f).segments = s.segments := rfl
@[simp] theorem State.watches_modEngine (s : State) (f : Engine → Engine) : (s.modEngine f).watches = s.watches := rfl
@[simp] theorem State.captureList_modEngine (s : State) (f : Engine → Engine) : (s.modEngine f).captureList = s.captureList := rfl
@[simp] theorem State.capture_modEngine (s : State) (f : Engine → Engine) : (s.modEngine f).capture = s.capture := rfl
@[simp] theorem State.buffer_modEngine (s : State) (f : Engine → Engine) : (s.modEngine f).buffer = s.buffer := rfl
@[simp] theorem State.events_modEngine (s : State) (f : Engine → Engine) : (s.modEngine f).events = s.events := rfl
@[simp] theorem State.nextSequence_modEngine (s : State) (f : Engine → Engine) : (s.modEngine f).nextSequence = s.nextSequence := rfl
@[simp] theorem State.observeCursor_modEngine (s : State) (f : Engine → Engine) : (s.modEngine f).observeCursor = s.observeCursor := rfl
@[simp] theorem State.commissionCursor_modEngine (s : State) (f : Engine → Engine) : (s.modEngine f).commissionCursor = s.commissionCursor := rfl
@[simp] theorem State.requests_modEngine (s : State) (f : Engine → Engine) : (s.modEngine f).requests = s.requests := rfl
@[simp] theorem State.downstreamQueue_modEngine (s : State) (f : Engine → Engine) : (s.modEngine f).downstreamQueue = s.downstreamQueue := rfl
@[simp] theorem State.throughQueue_modEngine (s : State) (f : Engine → Engine) : (s.modEngine f).throughQueue = s.throughQueue := rfl
@[simp] theorem State.replyQueue_modEngine (s : State) (f : Engine → Engine) : (s.modEngine f).replyQueue = s.replyQueue := rfl
@[simp] theorem State.stationSlot_modEngine (s : State) (f : Engine → Engine) : (s.modEngine f).stationSlot = s.stationSlot := rfl
@[simp] theorem State.readyCount_modEngine (s : State) (f : Engine → Engine) : (s.modEngine f).readyCount = s.readyCount := rfl
@[simp] theorem State.upstreamSent_modEngine (s : State) (f : Engine → Engine) : (s.modEngine f).upstreamSent = s.upstreamSent := rfl
@[simp] theorem State.downstreamSent_modEngine (s : State) (f : Engine → Engine) : (s.modEngine f).downstreamSent = s.downstreamSent := rfl
@[simp] theorem State.freeDraws_modEngine (s : State) (f : Engine → Engine) : (s.modEngine f).freeDraws = s.freeDraws := rfl
@[simp] theorem State.pending_modEngine (s : State) (f : Engine → Engine) : (s.modEngine f).pending = s.pending := rfl
@[simp] theorem State.sec_modEngine (s : State) (f : Engine → Engine) (j : SecId) :
    (s.modEngine f).sec j = s.sec j := rfl
@[simp] theorem State.member_modEngine (s : State) (f : Engine → Engine) (q : RecId) :
    (s.modEngine f).member q = s.member q := rfl
@[simp] theorem State.drive_modEngine (s : State) (f : Engine → Engine) (m : NodeId) :
    (s.modEngine f).drive m = s.drive m := rfl
@[simp] theorem State.watch_modEngine (s : State) (f : Engine → Engine) (x : WatchId) :
    (s.modEngine f).watch x = s.watch x := rfl
@[simp] theorem State.segment_modEngine (s : State) (f : Engine → Engine) (k' : Nat) :
    (s.modEngine f).segment k' = s.segment k' := rfl

/-! ## dropRequest -/

@[simp] theorem State.powered_dropRequest (s : State) : (s.dropRequest).powered = s.powered := rfl
@[simp] theorem State.station_dropRequest (s : State) : (s.dropRequest).station = s.station := rfl
@[simp] theorem State.permit_dropRequest (s : State) : (s.dropRequest).permit = s.permit := rfl
@[simp] theorem State.timeout_dropRequest (s : State) : (s.dropRequest).timeout = s.timeout := rfl
@[simp] theorem State.timer_dropRequest (s : State) : (s.dropRequest).timer = s.timer := rfl
@[simp] theorem State.timerPeriod_dropRequest (s : State) : (s.dropRequest).timerPeriod = s.timerPeriod := rfl
@[simp] theorem State.cycle_dropRequest (s : State) : (s.dropRequest).cycle = s.cycle := rfl
@[simp] theorem State.cycleOpen_dropRequest (s : State) : (s.dropRequest).cycleOpen = s.cycleOpen := rfl
@[simp] theorem State.sections_dropRequest (s : State) : (s.dropRequest).sections = s.sections := rfl
@[simp] theorem State.pool_dropRequest (s : State) : (s.dropRequest).pool = s.pool := rfl
@[simp] theorem State.drives_dropRequest (s : State) : (s.dropRequest).drives = s.drives := rfl
@[simp] theorem State.segments_dropRequest (s : State) : (s.dropRequest).segments = s.segments := rfl
@[simp] theorem State.watches_dropRequest (s : State) : (s.dropRequest).watches = s.watches := rfl
@[simp] theorem State.engine_dropRequest (s : State) : (s.dropRequest).engine = s.engine := rfl
@[simp] theorem State.captureList_dropRequest (s : State) : (s.dropRequest).captureList = s.captureList := rfl
@[simp] theorem State.capture_dropRequest (s : State) : (s.dropRequest).capture = s.capture := rfl
@[simp] theorem State.buffer_dropRequest (s : State) : (s.dropRequest).buffer = s.buffer := rfl
@[simp] theorem State.events_dropRequest (s : State) : (s.dropRequest).events = s.events := rfl
@[simp] theorem State.nextSequence_dropRequest (s : State) : (s.dropRequest).nextSequence = s.nextSequence := rfl
@[simp] theorem State.observeCursor_dropRequest (s : State) : (s.dropRequest).observeCursor = s.observeCursor := rfl
@[simp] theorem State.commissionCursor_dropRequest (s : State) : (s.dropRequest).commissionCursor = s.commissionCursor := rfl
@[simp] theorem State.downstreamQueue_dropRequest (s : State) : (s.dropRequest).downstreamQueue = s.downstreamQueue := rfl
@[simp] theorem State.throughQueue_dropRequest (s : State) : (s.dropRequest).throughQueue = s.throughQueue := rfl
@[simp] theorem State.replyQueue_dropRequest (s : State) : (s.dropRequest).replyQueue = s.replyQueue := rfl
@[simp] theorem State.stationSlot_dropRequest (s : State) : (s.dropRequest).stationSlot = s.stationSlot := rfl
@[simp] theorem State.readyCount_dropRequest (s : State) : (s.dropRequest).readyCount = s.readyCount := rfl
@[simp] theorem State.upstreamSent_dropRequest (s : State) : (s.dropRequest).upstreamSent = s.upstreamSent := rfl
@[simp] theorem State.downstreamSent_dropRequest (s : State) : (s.dropRequest).downstreamSent = s.downstreamSent := rfl
@[simp] theorem State.freeDraws_dropRequest (s : State) : (s.dropRequest).freeDraws = s.freeDraws := rfl
@[simp] theorem State.pending_dropRequest (s : State) : (s.dropRequest).pending = s.pending := rfl
@[simp] theorem State.sec_dropRequest (s : State) (j : SecId) :
    (s.dropRequest).sec j = s.sec j := rfl
@[simp] theorem State.member_dropRequest (s : State) (q : RecId) :
    (s.dropRequest).member q = s.member q := rfl
@[simp] theorem State.drive_dropRequest (s : State) (m : NodeId) :
    (s.dropRequest).drive m = s.drive m := rfl
@[simp] theorem State.watch_dropRequest (s : State) (x : WatchId) :
    (s.dropRequest).watch x = s.watch x := rfl
@[simp] theorem State.segment_dropRequest (s : State) (k' : Nat) :
    (s.dropRequest).segment k' = s.segment k' := rfl

/-! ## postReply -/

@[simp] theorem State.powered_postReply (s : State) (tag : Byte) (c : ResultCode) (w : Bool) (d : List Int) : (s.postReply tag c w d).powered = s.powered := rfl
@[simp] theorem State.station_postReply (s : State) (tag : Byte) (c : ResultCode) (w : Bool) (d : List Int) : (s.postReply tag c w d).station = s.station := rfl
@[simp] theorem State.permit_postReply (s : State) (tag : Byte) (c : ResultCode) (w : Bool) (d : List Int) : (s.postReply tag c w d).permit = s.permit := rfl
@[simp] theorem State.timeout_postReply (s : State) (tag : Byte) (c : ResultCode) (w : Bool) (d : List Int) : (s.postReply tag c w d).timeout = s.timeout := rfl
@[simp] theorem State.timer_postReply (s : State) (tag : Byte) (c : ResultCode) (w : Bool) (d : List Int) : (s.postReply tag c w d).timer = s.timer := rfl
@[simp] theorem State.timerPeriod_postReply (s : State) (tag : Byte) (c : ResultCode) (w : Bool) (d : List Int) : (s.postReply tag c w d).timerPeriod = s.timerPeriod := rfl
@[simp] theorem State.cycle_postReply (s : State) (tag : Byte) (c : ResultCode) (w : Bool) (d : List Int) : (s.postReply tag c w d).cycle = s.cycle := rfl
@[simp] theorem State.cycleOpen_postReply (s : State) (tag : Byte) (c : ResultCode) (w : Bool) (d : List Int) : (s.postReply tag c w d).cycleOpen = s.cycleOpen := rfl
@[simp] theorem State.sections_postReply (s : State) (tag : Byte) (c : ResultCode) (w : Bool) (d : List Int) : (s.postReply tag c w d).sections = s.sections := rfl
@[simp] theorem State.pool_postReply (s : State) (tag : Byte) (c : ResultCode) (w : Bool) (d : List Int) : (s.postReply tag c w d).pool = s.pool := rfl
@[simp] theorem State.drives_postReply (s : State) (tag : Byte) (c : ResultCode) (w : Bool) (d : List Int) : (s.postReply tag c w d).drives = s.drives := rfl
@[simp] theorem State.segments_postReply (s : State) (tag : Byte) (c : ResultCode) (w : Bool) (d : List Int) : (s.postReply tag c w d).segments = s.segments := rfl
@[simp] theorem State.watches_postReply (s : State) (tag : Byte) (c : ResultCode) (w : Bool) (d : List Int) : (s.postReply tag c w d).watches = s.watches := rfl
@[simp] theorem State.engine_postReply (s : State) (tag : Byte) (c : ResultCode) (w : Bool) (d : List Int) : (s.postReply tag c w d).engine = s.engine := rfl
@[simp] theorem State.captureList_postReply (s : State) (tag : Byte) (c : ResultCode) (w : Bool) (d : List Int) : (s.postReply tag c w d).captureList = s.captureList := rfl
@[simp] theorem State.capture_postReply (s : State) (tag : Byte) (c : ResultCode) (w : Bool) (d : List Int) : (s.postReply tag c w d).capture = s.capture := rfl
@[simp] theorem State.buffer_postReply (s : State) (tag : Byte) (c : ResultCode) (w : Bool) (d : List Int) : (s.postReply tag c w d).buffer = s.buffer := rfl
@[simp] theorem State.events_postReply (s : State) (tag : Byte) (c : ResultCode) (w : Bool) (d : List Int) : (s.postReply tag c w d).events = s.events := rfl
@[simp] theorem State.nextSequence_postReply (s : State) (tag : Byte) (c : ResultCode) (w : Bool) (d : List Int) : (s.postReply tag c w d).nextSequence = s.nextSequence := rfl
@[simp] theorem State.observeCursor_postReply (s : State) (tag : Byte) (c : ResultCode) (w : Bool) (d : List Int) : (s.postReply tag c w d).observeCursor = s.observeCursor := rfl
@[simp] theorem State.commissionCursor_postReply (s : State) (tag : Byte) (c : ResultCode) (w : Bool) (d : List Int) : (s.postReply tag c w d).commissionCursor = s.commissionCursor := rfl
@[simp] theorem State.requests_postReply (s : State) (tag : Byte) (c : ResultCode) (w : Bool) (d : List Int) : (s.postReply tag c w d).requests = s.requests := rfl
@[simp] theorem State.downstreamQueue_postReply (s : State) (tag : Byte) (c : ResultCode) (w : Bool) (d : List Int) : (s.postReply tag c w d).downstreamQueue = s.downstreamQueue := rfl
@[simp] theorem State.throughQueue_postReply (s : State) (tag : Byte) (c : ResultCode) (w : Bool) (d : List Int) : (s.postReply tag c w d).throughQueue = s.throughQueue := rfl
@[simp] theorem State.stationSlot_postReply (s : State) (tag : Byte) (c : ResultCode) (w : Bool) (d : List Int) : (s.postReply tag c w d).stationSlot = s.stationSlot := rfl
@[simp] theorem State.upstreamSent_postReply (s : State) (tag : Byte) (c : ResultCode) (w : Bool) (d : List Int) : (s.postReply tag c w d).upstreamSent = s.upstreamSent := rfl
@[simp] theorem State.downstreamSent_postReply (s : State) (tag : Byte) (c : ResultCode) (w : Bool) (d : List Int) : (s.postReply tag c w d).downstreamSent = s.downstreamSent := rfl
@[simp] theorem State.freeDraws_postReply (s : State) (tag : Byte) (c : ResultCode) (w : Bool) (d : List Int) : (s.postReply tag c w d).freeDraws = s.freeDraws := rfl
@[simp] theorem State.pending_postReply (s : State) (tag : Byte) (c : ResultCode) (w : Bool) (d : List Int) : (s.postReply tag c w d).pending = s.pending := rfl
@[simp] theorem State.sec_postReply (s : State) (tag : Byte) (c : ResultCode) (w : Bool) (d : List Int) (j : SecId) :
    (s.postReply tag c w d).sec j = s.sec j := rfl
@[simp] theorem State.member_postReply (s : State) (tag : Byte) (c : ResultCode) (w : Bool) (d : List Int) (q : RecId) :
    (s.postReply tag c w d).member q = s.member q := rfl
@[simp] theorem State.drive_postReply (s : State) (tag : Byte) (c : ResultCode) (w : Bool) (d : List Int) (m : NodeId) :
    (s.postReply tag c w d).drive m = s.drive m := rfl
@[simp] theorem State.watch_postReply (s : State) (tag : Byte) (c : ResultCode) (w : Bool) (d : List Int) (x : WatchId) :
    (s.postReply tag c w d).watch x = s.watch x := rfl
@[simp] theorem State.segment_postReply (s : State) (tag : Byte) (c : ResultCode) (w : Bool) (d : List Int) (k' : Nat) :
    (s.postReply tag c w d).segment k' = s.segment k' := rfl

/-! ## placeStationFrame -/

@[simp] theorem State.powered_placeStationFrame (s : State) : (s.placeStationFrame).powered = s.powered := rfl
@[simp] theorem State.station_placeStationFrame (s : State) : (s.placeStationFrame).station = s.station := rfl
@[simp] theorem State.permit_placeStationFrame (s : State) : (s.placeStationFrame).permit = s.permit := rfl
@[simp] theorem State.timeout_placeStationFrame (s : State) : (s.placeStationFrame).timeout = s.timeout := rfl
@[simp] theorem State.timer_placeStationFrame (s : State) : (s.placeStationFrame).timer = s.timer := rfl
@[simp] theorem State.timerPeriod_placeStationFrame (s : State) : (s.placeStationFrame).timerPeriod = s.timerPeriod := rfl
@[simp] theorem State.cycle_placeStationFrame (s : State) : (s.placeStationFrame).cycle = s.cycle := rfl
@[simp] theorem State.cycleOpen_placeStationFrame (s : State) : (s.placeStationFrame).cycleOpen = s.cycleOpen := rfl
@[simp] theorem State.sections_placeStationFrame (s : State) : (s.placeStationFrame).sections = s.sections := rfl
@[simp] theorem State.pool_placeStationFrame (s : State) : (s.placeStationFrame).pool = s.pool := rfl
@[simp] theorem State.drives_placeStationFrame (s : State) : (s.placeStationFrame).drives = s.drives := rfl
@[simp] theorem State.segments_placeStationFrame (s : State) : (s.placeStationFrame).segments = s.segments := rfl
@[simp] theorem State.watches_placeStationFrame (s : State) : (s.placeStationFrame).watches = s.watches := rfl
@[simp] theorem State.engine_placeStationFrame (s : State) : (s.placeStationFrame).engine = s.engine := rfl
@[simp] theorem State.captureList_placeStationFrame (s : State) : (s.placeStationFrame).captureList = s.captureList := rfl
@[simp] theorem State.capture_placeStationFrame (s : State) : (s.placeStationFrame).capture = s.capture := rfl
@[simp] theorem State.buffer_placeStationFrame (s : State) : (s.placeStationFrame).buffer = s.buffer := rfl
@[simp] theorem State.events_placeStationFrame (s : State) : (s.placeStationFrame).events = s.events := rfl
@[simp] theorem State.nextSequence_placeStationFrame (s : State) : (s.placeStationFrame).nextSequence = s.nextSequence := rfl
@[simp] theorem State.observeCursor_placeStationFrame (s : State) : (s.placeStationFrame).observeCursor = s.observeCursor := rfl
@[simp] theorem State.commissionCursor_placeStationFrame (s : State) : (s.placeStationFrame).commissionCursor = s.commissionCursor := rfl
@[simp] theorem State.requests_placeStationFrame (s : State) : (s.placeStationFrame).requests = s.requests := rfl
@[simp] theorem State.downstreamQueue_placeStationFrame (s : State) : (s.placeStationFrame).downstreamQueue = s.downstreamQueue := rfl
@[simp] theorem State.throughQueue_placeStationFrame (s : State) : (s.placeStationFrame).throughQueue = s.throughQueue := rfl
@[simp] theorem State.replyQueue_placeStationFrame (s : State) : (s.placeStationFrame).replyQueue = s.replyQueue := rfl
@[simp] theorem State.upstreamSent_placeStationFrame (s : State) : (s.placeStationFrame).upstreamSent = s.upstreamSent := rfl
@[simp] theorem State.downstreamSent_placeStationFrame (s : State) : (s.placeStationFrame).downstreamSent = s.downstreamSent := rfl
@[simp] theorem State.freeDraws_placeStationFrame (s : State) : (s.placeStationFrame).freeDraws = s.freeDraws := rfl
@[simp] theorem State.pending_placeStationFrame (s : State) : (s.placeStationFrame).pending = s.pending := rfl
@[simp] theorem State.sec_placeStationFrame (s : State) (j : SecId) :
    (s.placeStationFrame).sec j = s.sec j := rfl
@[simp] theorem State.member_placeStationFrame (s : State) (q : RecId) :
    (s.placeStationFrame).member q = s.member q := rfl
@[simp] theorem State.drive_placeStationFrame (s : State) (m : NodeId) :
    (s.placeStationFrame).drive m = s.drive m := rfl
@[simp] theorem State.watch_placeStationFrame (s : State) (x : WatchId) :
    (s.placeStationFrame).watch x = s.watch x := rfl
@[simp] theorem State.segment_placeStationFrame (s : State) (k' : Nat) :
    (s.placeStationFrame).segment k' = s.segment k' := rfl

/-! ## post -/

@[simp] theorem State.powered_post (s : State) (k : EventKind) (a : Option SecId) (n : Option NodeId) (p : Option Pos) (c : Word16) (v : Option Int) (d : Nat) :
    (s.post k a n p c v d).powered = s.powered := by unfold State.post; split <;> rfl
@[simp] theorem State.station_post (s : State) (k : EventKind) (a : Option SecId) (n : Option NodeId) (p : Option Pos) (c : Word16) (v : Option Int) (d : Nat) :
    (s.post k a n p c v d).station = s.station := by unfold State.post; split <;> rfl
@[simp] theorem State.permit_post (s : State) (k : EventKind) (a : Option SecId) (n : Option NodeId) (p : Option Pos) (c : Word16) (v : Option Int) (d : Nat) :
    (s.post k a n p c v d).permit = s.permit := by unfold State.post; split <;> rfl
@[simp] theorem State.timeout_post (s : State) (k : EventKind) (a : Option SecId) (n : Option NodeId) (p : Option Pos) (c : Word16) (v : Option Int) (d : Nat) :
    (s.post k a n p c v d).timeout = s.timeout := by unfold State.post; split <;> rfl
@[simp] theorem State.timer_post (s : State) (k : EventKind) (a : Option SecId) (n : Option NodeId) (p : Option Pos) (c : Word16) (v : Option Int) (d : Nat) :
    (s.post k a n p c v d).timer = s.timer := by unfold State.post; split <;> rfl
@[simp] theorem State.timerPeriod_post (s : State) (k : EventKind) (a : Option SecId) (n : Option NodeId) (p : Option Pos) (c : Word16) (v : Option Int) (d : Nat) :
    (s.post k a n p c v d).timerPeriod = s.timerPeriod := by unfold State.post; split <;> rfl
@[simp] theorem State.cycle_post (s : State) (k : EventKind) (a : Option SecId) (n : Option NodeId) (p : Option Pos) (c : Word16) (v : Option Int) (d : Nat) :
    (s.post k a n p c v d).cycle = s.cycle := by unfold State.post; split <;> rfl
@[simp] theorem State.cycleOpen_post (s : State) (k : EventKind) (a : Option SecId) (n : Option NodeId) (p : Option Pos) (c : Word16) (v : Option Int) (d : Nat) :
    (s.post k a n p c v d).cycleOpen = s.cycleOpen := by unfold State.post; split <;> rfl
@[simp] theorem State.sections_post (s : State) (k : EventKind) (a : Option SecId) (n : Option NodeId) (p : Option Pos) (c : Word16) (v : Option Int) (d : Nat) :
    (s.post k a n p c v d).sections = s.sections := by unfold State.post; split <;> rfl
@[simp] theorem State.pool_post (s : State) (k : EventKind) (a : Option SecId) (n : Option NodeId) (p : Option Pos) (c : Word16) (v : Option Int) (d : Nat) :
    (s.post k a n p c v d).pool = s.pool := by unfold State.post; split <;> rfl
@[simp] theorem State.drives_post (s : State) (k : EventKind) (a : Option SecId) (n : Option NodeId) (p : Option Pos) (c : Word16) (v : Option Int) (d : Nat) :
    (s.post k a n p c v d).drives = s.drives := by unfold State.post; split <;> rfl
@[simp] theorem State.segments_post (s : State) (k : EventKind) (a : Option SecId) (n : Option NodeId) (p : Option Pos) (c : Word16) (v : Option Int) (d : Nat) :
    (s.post k a n p c v d).segments = s.segments := by unfold State.post; split <;> rfl
@[simp] theorem State.watches_post (s : State) (k : EventKind) (a : Option SecId) (n : Option NodeId) (p : Option Pos) (c : Word16) (v : Option Int) (d : Nat) :
    (s.post k a n p c v d).watches = s.watches := by unfold State.post; split <;> rfl
@[simp] theorem State.engine_post (s : State) (k : EventKind) (a : Option SecId) (n : Option NodeId) (p : Option Pos) (c : Word16) (v : Option Int) (d : Nat) :
    (s.post k a n p c v d).engine = s.engine := by unfold State.post; split <;> rfl
@[simp] theorem State.captureList_post (s : State) (k : EventKind) (a : Option SecId) (n : Option NodeId) (p : Option Pos) (c : Word16) (v : Option Int) (d : Nat) :
    (s.post k a n p c v d).captureList = s.captureList := by unfold State.post; split <;> rfl
@[simp] theorem State.capture_post (s : State) (k : EventKind) (a : Option SecId) (n : Option NodeId) (p : Option Pos) (c : Word16) (v : Option Int) (d : Nat) :
    (s.post k a n p c v d).capture = s.capture := by unfold State.post; split <;> rfl
@[simp] theorem State.buffer_post (s : State) (k : EventKind) (a : Option SecId) (n : Option NodeId) (p : Option Pos) (c : Word16) (v : Option Int) (d : Nat) :
    (s.post k a n p c v d).buffer = s.buffer := by unfold State.post; split <;> rfl
@[simp] theorem State.observeCursor_post (s : State) (k : EventKind) (a : Option SecId) (n : Option NodeId) (p : Option Pos) (c : Word16) (v : Option Int) (d : Nat) :
    (s.post k a n p c v d).observeCursor = s.observeCursor := by unfold State.post; split <;> rfl
@[simp] theorem State.commissionCursor_post (s : State) (k : EventKind) (a : Option SecId) (n : Option NodeId) (p : Option Pos) (c : Word16) (v : Option Int) (d : Nat) :
    (s.post k a n p c v d).commissionCursor = s.commissionCursor := by unfold State.post; split <;> rfl
@[simp] theorem State.requests_post (s : State) (k : EventKind) (a : Option SecId) (n : Option NodeId) (p : Option Pos) (c : Word16) (v : Option Int) (d : Nat) :
    (s.post k a n p c v d).requests = s.requests := by unfold State.post; split <;> rfl
@[simp] theorem State.downstreamQueue_post (s : State) (k : EventKind) (a : Option SecId) (n : Option NodeId) (p : Option Pos) (c : Word16) (v : Option Int) (d : Nat) :
    (s.post k a n p c v d).downstreamQueue = s.downstreamQueue := by unfold State.post; split <;> rfl
@[simp] theorem State.throughQueue_post (s : State) (k : EventKind) (a : Option SecId) (n : Option NodeId) (p : Option Pos) (c : Word16) (v : Option Int) (d : Nat) :
    (s.post k a n p c v d).throughQueue = s.throughQueue := by unfold State.post; split <;> rfl
@[simp] theorem State.replyQueue_post (s : State) (k : EventKind) (a : Option SecId) (n : Option NodeId) (p : Option Pos) (c : Word16) (v : Option Int) (d : Nat) :
    (s.post k a n p c v d).replyQueue = s.replyQueue := by unfold State.post; split <;> rfl
@[simp] theorem State.stationSlot_post (s : State) (k : EventKind) (a : Option SecId) (n : Option NodeId) (p : Option Pos) (c : Word16) (v : Option Int) (d : Nat) :
    (s.post k a n p c v d).stationSlot = s.stationSlot := by unfold State.post; split <;> rfl
@[simp] theorem State.readyCount_post (s : State) (k : EventKind) (a : Option SecId) (n : Option NodeId) (p : Option Pos) (c : Word16) (v : Option Int) (d : Nat) :
    (s.post k a n p c v d).readyCount = s.readyCount := by unfold State.post; split <;> rfl
@[simp] theorem State.upstreamSent_post (s : State) (k : EventKind) (a : Option SecId) (n : Option NodeId) (p : Option Pos) (c : Word16) (v : Option Int) (d : Nat) :
    (s.post k a n p c v d).upstreamSent = s.upstreamSent := by unfold State.post; split <;> rfl
@[simp] theorem State.downstreamSent_post (s : State) (k : EventKind) (a : Option SecId) (n : Option NodeId) (p : Option Pos) (c : Word16) (v : Option Int) (d : Nat) :
    (s.post k a n p c v d).downstreamSent = s.downstreamSent := by unfold State.post; split <;> rfl
@[simp] theorem State.freeDraws_post (s : State) (k : EventKind) (a : Option SecId) (n : Option NodeId) (p : Option Pos) (c : Word16) (v : Option Int) (d : Nat) :
    (s.post k a n p c v d).freeDraws = s.freeDraws := by unfold State.post; split <;> rfl
@[simp] theorem State.pending_post (s : State) (k : EventKind) (a : Option SecId) (n : Option NodeId) (p : Option Pos) (c : Word16) (v : Option Int) (d : Nat) :
    (s.post k a n p c v d).pending = s.pending := by unfold State.post; split <;> rfl
@[simp] theorem State.sec_post (s : State) (k : EventKind) (a : Option SecId) (n : Option NodeId) (p : Option Pos) (c : Word16) (v : Option Int) (d : Nat) (j : SecId) :
    (s.post k a n p c v d).sec j = s.sec j := by unfold State.sec; rw [State.sections_post]
@[simp] theorem State.member_post (s : State) (k : EventKind) (a : Option SecId) (n : Option NodeId) (p : Option Pos) (c : Word16) (v : Option Int) (d : Nat) (q : RecId) :
    (s.post k a n p c v d).member q = s.member q := by unfold State.member; rw [State.pool_post]
@[simp] theorem State.drive_post (s : State) (k : EventKind) (a : Option SecId) (n : Option NodeId) (p : Option Pos) (c : Word16) (v : Option Int) (d : Nat) (m : NodeId) :
    (s.post k a n p c v d).drive m = s.drive m := by unfold State.drive; rw [State.drives_post]
@[simp] theorem State.watch_post (s : State) (k : EventKind) (a : Option SecId) (n : Option NodeId) (p : Option Pos) (c : Word16) (v : Option Int) (d : Nat) (x : WatchId) :
    (s.post k a n p c v d).watch x = s.watch x := by unfold State.watch; rw [State.watches_post]
@[simp] theorem State.segment_post (s : State) (k : EventKind) (a : Option SecId) (n : Option NodeId) (p : Option Pos) (c : Word16) (v : Option Int) (d : Nat) (k' : Nat) :
    (s.post k a n p c v d).segment k' = s.segment k' := by unfold State.segment; simp

/-! ## forwardDown -/

@[simp] theorem State.powered_forwardDown (s : State) (f : Frame) : (s.forwardDown f).powered = s.powered := by unfold State.forwardDown; split <;> rfl
@[simp] theorem State.station_forwardDown (s : State) (f : Frame) : (s.forwardDown f).station = s.station := by unfold State.forwardDown; split <;> rfl
@[simp] theorem State.permit_forwardDown (s : State) (f : Frame) : (s.forwardDown f).permit = s.permit := by unfold State.forwardDown; split <;> rfl
@[simp] theorem State.timeout_forwardDown (s : State) (f : Frame) : (s.forwardDown f).timeout = s.timeout := by unfold State.forwardDown; split <;> rfl
@[simp] theorem State.timer_forwardDown (s : State) (f : Frame) : (s.forwardDown f).timer = s.timer := by unfold State.forwardDown; split <;> rfl
@[simp] theorem State.timerPeriod_forwardDown (s : State) (f : Frame) : (s.forwardDown f).timerPeriod = s.timerPeriod := by unfold State.forwardDown; split <;> rfl
@[simp] theorem State.cycle_forwardDown (s : State) (f : Frame) : (s.forwardDown f).cycle = s.cycle := by unfold State.forwardDown; split <;> rfl
@[simp] theorem State.cycleOpen_forwardDown (s : State) (f : Frame) : (s.forwardDown f).cycleOpen = s.cycleOpen := by unfold State.forwardDown; split <;> rfl
@[simp] theorem State.sections_forwardDown (s : State) (f : Frame) : (s.forwardDown f).sections = s.sections := by unfold State.forwardDown; split <;> rfl
@[simp] theorem State.pool_forwardDown (s : State) (f : Frame) : (s.forwardDown f).pool = s.pool := by unfold State.forwardDown; split <;> rfl
@[simp] theorem State.drives_forwardDown (s : State) (f : Frame) : (s.forwardDown f).drives = s.drives := by unfold State.forwardDown; split <;> rfl
@[simp] theorem State.segments_forwardDown (s : State) (f : Frame) : (s.forwardDown f).segments = s.segments := by unfold State.forwardDown; split <;> rfl
@[simp] theorem State.watches_forwardDown (s : State) (f : Frame) : (s.forwardDown f).watches = s.watches := by unfold State.forwardDown; split <;> rfl
@[simp] theorem State.engine_forwardDown (s : State) (f : Frame) : (s.forwardDown f).engine = s.engine := by unfold State.forwardDown; split <;> rfl
@[simp] theorem State.captureList_forwardDown (s : State) (f : Frame) : (s.forwardDown f).captureList = s.captureList := by unfold State.forwardDown; split <;> rfl
@[simp] theorem State.capture_forwardDown (s : State) (f : Frame) : (s.forwardDown f).capture = s.capture := by unfold State.forwardDown; split <;> rfl
@[simp] theorem State.buffer_forwardDown (s : State) (f : Frame) : (s.forwardDown f).buffer = s.buffer := by unfold State.forwardDown; split <;> rfl
@[simp] theorem State.events_forwardDown (s : State) (f : Frame) : (s.forwardDown f).events = s.events := by unfold State.forwardDown; split <;> rfl
@[simp] theorem State.nextSequence_forwardDown (s : State) (f : Frame) : (s.forwardDown f).nextSequence = s.nextSequence := by unfold State.forwardDown; split <;> rfl
@[simp] theorem State.observeCursor_forwardDown (s : State) (f : Frame) : (s.forwardDown f).observeCursor = s.observeCursor := by unfold State.forwardDown; split <;> rfl
@[simp] theorem State.commissionCursor_forwardDown (s : State) (f : Frame) : (s.forwardDown f).commissionCursor = s.commissionCursor := by unfold State.forwardDown; split <;> rfl
@[simp] theorem State.requests_forwardDown (s : State) (f : Frame) : (s.forwardDown f).requests = s.requests := by unfold State.forwardDown; split <;> rfl
@[simp] theorem State.throughQueue_forwardDown (s : State) (f : Frame) : (s.forwardDown f).throughQueue = s.throughQueue := by unfold State.forwardDown; split <;> rfl
@[simp] theorem State.replyQueue_forwardDown (s : State) (f : Frame) : (s.forwardDown f).replyQueue = s.replyQueue := by unfold State.forwardDown; split <;> rfl
@[simp] theorem State.stationSlot_forwardDown (s : State) (f : Frame) : (s.forwardDown f).stationSlot = s.stationSlot := by unfold State.forwardDown; split <;> rfl
@[simp] theorem State.readyCount_forwardDown (s : State) (f : Frame) : (s.forwardDown f).readyCount = s.readyCount := by unfold State.forwardDown; split <;> rfl
@[simp] theorem State.upstreamSent_forwardDown (s : State) (f : Frame) : (s.forwardDown f).upstreamSent = s.upstreamSent := by unfold State.forwardDown; split <;> rfl
@[simp] theorem State.downstreamSent_forwardDown (s : State) (f : Frame) : (s.forwardDown f).downstreamSent = s.downstreamSent := by unfold State.forwardDown; split <;> rfl
@[simp] theorem State.freeDraws_forwardDown (s : State) (f : Frame) : (s.forwardDown f).freeDraws = s.freeDraws := by unfold State.forwardDown; split <;> rfl
@[simp] theorem State.pending_forwardDown (s : State) (f : Frame) : (s.forwardDown f).pending = s.pending := by unfold State.forwardDown; split <;> rfl
@[simp] theorem State.sec_forwardDown (s : State) (f : Frame) (j : SecId) :
    (s.forwardDown f).sec j = s.sec j := by unfold State.sec; rw [State.sections_forwardDown]
@[simp] theorem State.member_forwardDown (s : State) (f : Frame) (q : RecId) :
    (s.forwardDown f).member q = s.member q := by unfold State.member; rw [State.pool_forwardDown]
@[simp] theorem State.drive_forwardDown (s : State) (f : Frame) (m : NodeId) :
    (s.forwardDown f).drive m = s.drive m := by unfold State.drive; rw [State.drives_forwardDown]
@[simp] theorem State.watch_forwardDown (s : State) (f : Frame) (x : WatchId) :
    (s.forwardDown f).watch x = s.watch x := by unfold State.watch; rw [State.watches_forwardDown]
@[simp] theorem State.segment_forwardDown (s : State) (f : Frame) (k' : Nat) :
    (s.forwardDown f).segment k' = s.segment k' := by unfold State.segment; simp

/-! ## forwardUp -/

@[simp] theorem State.powered_forwardUp (s : State) (f : Frame) : (s.forwardUp f).powered = s.powered := by unfold State.forwardUp; split <;> rfl
@[simp] theorem State.station_forwardUp (s : State) (f : Frame) : (s.forwardUp f).station = s.station := by unfold State.forwardUp; split <;> rfl
@[simp] theorem State.permit_forwardUp (s : State) (f : Frame) : (s.forwardUp f).permit = s.permit := by unfold State.forwardUp; split <;> rfl
@[simp] theorem State.timeout_forwardUp (s : State) (f : Frame) : (s.forwardUp f).timeout = s.timeout := by unfold State.forwardUp; split <;> rfl
@[simp] theorem State.timer_forwardUp (s : State) (f : Frame) : (s.forwardUp f).timer = s.timer := by unfold State.forwardUp; split <;> rfl
@[simp] theorem State.timerPeriod_forwardUp (s : State) (f : Frame) : (s.forwardUp f).timerPeriod = s.timerPeriod := by unfold State.forwardUp; split <;> rfl
@[simp] theorem State.cycle_forwardUp (s : State) (f : Frame) : (s.forwardUp f).cycle = s.cycle := by unfold State.forwardUp; split <;> rfl
@[simp] theorem State.cycleOpen_forwardUp (s : State) (f : Frame) : (s.forwardUp f).cycleOpen = s.cycleOpen := by unfold State.forwardUp; split <;> rfl
@[simp] theorem State.sections_forwardUp (s : State) (f : Frame) : (s.forwardUp f).sections = s.sections := by unfold State.forwardUp; split <;> rfl
@[simp] theorem State.pool_forwardUp (s : State) (f : Frame) : (s.forwardUp f).pool = s.pool := by unfold State.forwardUp; split <;> rfl
@[simp] theorem State.drives_forwardUp (s : State) (f : Frame) : (s.forwardUp f).drives = s.drives := by unfold State.forwardUp; split <;> rfl
@[simp] theorem State.segments_forwardUp (s : State) (f : Frame) : (s.forwardUp f).segments = s.segments := by unfold State.forwardUp; split <;> rfl
@[simp] theorem State.watches_forwardUp (s : State) (f : Frame) : (s.forwardUp f).watches = s.watches := by unfold State.forwardUp; split <;> rfl
@[simp] theorem State.engine_forwardUp (s : State) (f : Frame) : (s.forwardUp f).engine = s.engine := by unfold State.forwardUp; split <;> rfl
@[simp] theorem State.captureList_forwardUp (s : State) (f : Frame) : (s.forwardUp f).captureList = s.captureList := by unfold State.forwardUp; split <;> rfl
@[simp] theorem State.capture_forwardUp (s : State) (f : Frame) : (s.forwardUp f).capture = s.capture := by unfold State.forwardUp; split <;> rfl
@[simp] theorem State.buffer_forwardUp (s : State) (f : Frame) : (s.forwardUp f).buffer = s.buffer := by unfold State.forwardUp; split <;> rfl
@[simp] theorem State.events_forwardUp (s : State) (f : Frame) : (s.forwardUp f).events = s.events := by unfold State.forwardUp; split <;> rfl
@[simp] theorem State.nextSequence_forwardUp (s : State) (f : Frame) : (s.forwardUp f).nextSequence = s.nextSequence := by unfold State.forwardUp; split <;> rfl
@[simp] theorem State.observeCursor_forwardUp (s : State) (f : Frame) : (s.forwardUp f).observeCursor = s.observeCursor := by unfold State.forwardUp; split <;> rfl
@[simp] theorem State.commissionCursor_forwardUp (s : State) (f : Frame) : (s.forwardUp f).commissionCursor = s.commissionCursor := by unfold State.forwardUp; split <;> rfl
@[simp] theorem State.requests_forwardUp (s : State) (f : Frame) : (s.forwardUp f).requests = s.requests := by unfold State.forwardUp; split <;> rfl
@[simp] theorem State.downstreamQueue_forwardUp (s : State) (f : Frame) : (s.forwardUp f).downstreamQueue = s.downstreamQueue := by unfold State.forwardUp; split <;> rfl
@[simp] theorem State.replyQueue_forwardUp (s : State) (f : Frame) : (s.forwardUp f).replyQueue = s.replyQueue := by unfold State.forwardUp; split <;> rfl
@[simp] theorem State.stationSlot_forwardUp (s : State) (f : Frame) : (s.forwardUp f).stationSlot = s.stationSlot := by unfold State.forwardUp; split <;> rfl
@[simp] theorem State.upstreamSent_forwardUp (s : State) (f : Frame) : (s.forwardUp f).upstreamSent = s.upstreamSent := by unfold State.forwardUp; split <;> rfl
@[simp] theorem State.downstreamSent_forwardUp (s : State) (f : Frame) : (s.forwardUp f).downstreamSent = s.downstreamSent := by unfold State.forwardUp; split <;> rfl
@[simp] theorem State.freeDraws_forwardUp (s : State) (f : Frame) : (s.forwardUp f).freeDraws = s.freeDraws := by unfold State.forwardUp; split <;> rfl
@[simp] theorem State.pending_forwardUp (s : State) (f : Frame) : (s.forwardUp f).pending = s.pending := by unfold State.forwardUp; split <;> rfl
@[simp] theorem State.sec_forwardUp (s : State) (f : Frame) (j : SecId) :
    (s.forwardUp f).sec j = s.sec j := by unfold State.sec; rw [State.sections_forwardUp]
@[simp] theorem State.member_forwardUp (s : State) (f : Frame) (q : RecId) :
    (s.forwardUp f).member q = s.member q := by unfold State.member; rw [State.pool_forwardUp]
@[simp] theorem State.drive_forwardUp (s : State) (f : Frame) (m : NodeId) :
    (s.forwardUp f).drive m = s.drive m := by unfold State.drive; rw [State.drives_forwardUp]
@[simp] theorem State.watch_forwardUp (s : State) (f : Frame) (x : WatchId) :
    (s.forwardUp f).watch x = s.watch x := by unfold State.watch; rw [State.watches_forwardUp]
@[simp] theorem State.segment_forwardUp (s : State) (f : Frame) (k' : Nat) :
    (s.forwardUp f).segment k' = s.segment k' := by unfold State.segment; simp

/-! ## modRecs -/

@[simp] theorem State.powered_modRecs (s : State) (rs : List RecId) (f : PoolRecord → PoolRecord) : (s.modRecs rs f).powered = s.powered := by rw [State.modRecs_frame]
@[simp] theorem State.station_modRecs (s : State) (rs : List RecId) (f : PoolRecord → PoolRecord) : (s.modRecs rs f).station = s.station := by rw [State.modRecs_frame]
@[simp] theorem State.permit_modRecs (s : State) (rs : List RecId) (f : PoolRecord → PoolRecord) : (s.modRecs rs f).permit = s.permit := by rw [State.modRecs_frame]
@[simp] theorem State.timeout_modRecs (s : State) (rs : List RecId) (f : PoolRecord → PoolRecord) : (s.modRecs rs f).timeout = s.timeout := by rw [State.modRecs_frame]
@[simp] theorem State.timer_modRecs (s : State) (rs : List RecId) (f : PoolRecord → PoolRecord) : (s.modRecs rs f).timer = s.timer := by rw [State.modRecs_frame]
@[simp] theorem State.timerPeriod_modRecs (s : State) (rs : List RecId) (f : PoolRecord → PoolRecord) : (s.modRecs rs f).timerPeriod = s.timerPeriod := by rw [State.modRecs_frame]
@[simp] theorem State.cycle_modRecs (s : State) (rs : List RecId) (f : PoolRecord → PoolRecord) : (s.modRecs rs f).cycle = s.cycle := by rw [State.modRecs_frame]
@[simp] theorem State.cycleOpen_modRecs (s : State) (rs : List RecId) (f : PoolRecord → PoolRecord) : (s.modRecs rs f).cycleOpen = s.cycleOpen := by rw [State.modRecs_frame]
@[simp] theorem State.sections_modRecs (s : State) (rs : List RecId) (f : PoolRecord → PoolRecord) : (s.modRecs rs f).sections = s.sections := by rw [State.modRecs_frame]
@[simp] theorem State.drives_modRecs (s : State) (rs : List RecId) (f : PoolRecord → PoolRecord) : (s.modRecs rs f).drives = s.drives := by rw [State.modRecs_frame]
@[simp] theorem State.segments_modRecs (s : State) (rs : List RecId) (f : PoolRecord → PoolRecord) : (s.modRecs rs f).segments = s.segments := by rw [State.modRecs_frame]
@[simp] theorem State.watches_modRecs (s : State) (rs : List RecId) (f : PoolRecord → PoolRecord) : (s.modRecs rs f).watches = s.watches := by rw [State.modRecs_frame]
@[simp] theorem State.engine_modRecs (s : State) (rs : List RecId) (f : PoolRecord → PoolRecord) : (s.modRecs rs f).engine = s.engine := by rw [State.modRecs_frame]
@[simp] theorem State.captureList_modRecs (s : State) (rs : List RecId) (f : PoolRecord → PoolRecord) : (s.modRecs rs f).captureList = s.captureList := by rw [State.modRecs_frame]
@[simp] theorem State.capture_modRecs (s : State) (rs : List RecId) (f : PoolRecord → PoolRecord) : (s.modRecs rs f).capture = s.capture := by rw [State.modRecs_frame]
@[simp] theorem State.buffer_modRecs (s : State) (rs : List RecId) (f : PoolRecord → PoolRecord) : (s.modRecs rs f).buffer = s.buffer := by rw [State.modRecs_frame]
@[simp] theorem State.events_modRecs (s : State) (rs : List RecId) (f : PoolRecord → PoolRecord) : (s.modRecs rs f).events = s.events := by rw [State.modRecs_frame]
@[simp] theorem State.nextSequence_modRecs (s : State) (rs : List RecId) (f : PoolRecord → PoolRecord) : (s.modRecs rs f).nextSequence = s.nextSequence := by rw [State.modRecs_frame]
@[simp] theorem State.observeCursor_modRecs (s : State) (rs : List RecId) (f : PoolRecord → PoolRecord) : (s.modRecs rs f).observeCursor = s.observeCursor := by rw [State.modRecs_frame]
@[simp] theorem State.commissionCursor_modRecs (s : State) (rs : List RecId) (f : PoolRecord → PoolRecord) : (s.modRecs rs f).commissionCursor = s.commissionCursor := by rw [State.modRecs_frame]
@[simp] theorem State.requests_modRecs (s : State) (rs : List RecId) (f : PoolRecord → PoolRecord) : (s.modRecs rs f).requests = s.requests := by rw [State.modRecs_frame]
@[simp] theorem State.downstreamQueue_modRecs (s : State) (rs : List RecId) (f : PoolRecord → PoolRecord) : (s.modRecs rs f).downstreamQueue = s.downstreamQueue := by rw [State.modRecs_frame]
@[simp] theorem State.throughQueue_modRecs (s : State) (rs : List RecId) (f : PoolRecord → PoolRecord) : (s.modRecs rs f).throughQueue = s.throughQueue := by rw [State.modRecs_frame]
@[simp] theorem State.replyQueue_modRecs (s : State) (rs : List RecId) (f : PoolRecord → PoolRecord) : (s.modRecs rs f).replyQueue = s.replyQueue := by rw [State.modRecs_frame]
@[simp] theorem State.stationSlot_modRecs (s : State) (rs : List RecId) (f : PoolRecord → PoolRecord) : (s.modRecs rs f).stationSlot = s.stationSlot := by rw [State.modRecs_frame]
@[simp] theorem State.readyCount_modRecs (s : State) (rs : List RecId) (f : PoolRecord → PoolRecord) : (s.modRecs rs f).readyCount = s.readyCount := by rw [State.modRecs_frame]
@[simp] theorem State.upstreamSent_modRecs (s : State) (rs : List RecId) (f : PoolRecord → PoolRecord) : (s.modRecs rs f).upstreamSent = s.upstreamSent := by rw [State.modRecs_frame]
@[simp] theorem State.downstreamSent_modRecs (s : State) (rs : List RecId) (f : PoolRecord → PoolRecord) : (s.modRecs rs f).downstreamSent = s.downstreamSent := by rw [State.modRecs_frame]
@[simp] theorem State.freeDraws_modRecs (s : State) (rs : List RecId) (f : PoolRecord → PoolRecord) : (s.modRecs rs f).freeDraws = s.freeDraws := by rw [State.modRecs_frame]
@[simp] theorem State.pending_modRecs (s : State) (rs : List RecId) (f : PoolRecord → PoolRecord) : (s.modRecs rs f).pending = s.pending := by rw [State.modRecs_frame]
@[simp] theorem State.sec_modRecs (s : State) (rs : List RecId) (f : PoolRecord → PoolRecord) (j : SecId) :
    (s.modRecs rs f).sec j = s.sec j := by unfold State.sec; rw [State.sections_modRecs]
@[simp] theorem State.drive_modRecs (s : State) (rs : List RecId) (f : PoolRecord → PoolRecord) (m : NodeId) :
    (s.modRecs rs f).drive m = s.drive m := by unfold State.drive; rw [State.drives_modRecs]
@[simp] theorem State.watch_modRecs (s : State) (rs : List RecId) (f : PoolRecord → PoolRecord) (x : WatchId) :
    (s.modRecs rs f).watch x = s.watch x := by unfold State.watch; rw [State.watches_modRecs]
@[simp] theorem State.segment_modRecs (s : State) (rs : List RecId) (f : PoolRecord → PoolRecord) (k' : Nat) :
    (s.modRecs rs f).segment k' = s.segment k' := by unfold State.segment; simp

/-! ## modMembers -/

@[simp] theorem State.powered_modMembers (s : State) (i : SecId) (f : PoolRecord → PoolRecord) : (s.modMembers i f).powered = s.powered := by unfold State.modMembers; simp
@[simp] theorem State.station_modMembers (s : State) (i : SecId) (f : PoolRecord → PoolRecord) : (s.modMembers i f).station = s.station := by unfold State.modMembers; simp
@[simp] theorem State.permit_modMembers (s : State) (i : SecId) (f : PoolRecord → PoolRecord) : (s.modMembers i f).permit = s.permit := by unfold State.modMembers; simp
@[simp] theorem State.timeout_modMembers (s : State) (i : SecId) (f : PoolRecord → PoolRecord) : (s.modMembers i f).timeout = s.timeout := by unfold State.modMembers; simp
@[simp] theorem State.timer_modMembers (s : State) (i : SecId) (f : PoolRecord → PoolRecord) : (s.modMembers i f).timer = s.timer := by unfold State.modMembers; simp
@[simp] theorem State.timerPeriod_modMembers (s : State) (i : SecId) (f : PoolRecord → PoolRecord) : (s.modMembers i f).timerPeriod = s.timerPeriod := by unfold State.modMembers; simp
@[simp] theorem State.cycle_modMembers (s : State) (i : SecId) (f : PoolRecord → PoolRecord) : (s.modMembers i f).cycle = s.cycle := by unfold State.modMembers; simp
@[simp] theorem State.cycleOpen_modMembers (s : State) (i : SecId) (f : PoolRecord → PoolRecord) : (s.modMembers i f).cycleOpen = s.cycleOpen := by unfold State.modMembers; simp
@[simp] theorem State.sections_modMembers (s : State) (i : SecId) (f : PoolRecord → PoolRecord) : (s.modMembers i f).sections = s.sections := by unfold State.modMembers; simp
@[simp] theorem State.drives_modMembers (s : State) (i : SecId) (f : PoolRecord → PoolRecord) : (s.modMembers i f).drives = s.drives := by unfold State.modMembers; simp
@[simp] theorem State.segments_modMembers (s : State) (i : SecId) (f : PoolRecord → PoolRecord) : (s.modMembers i f).segments = s.segments := by unfold State.modMembers; simp
@[simp] theorem State.watches_modMembers (s : State) (i : SecId) (f : PoolRecord → PoolRecord) : (s.modMembers i f).watches = s.watches := by unfold State.modMembers; simp
@[simp] theorem State.engine_modMembers (s : State) (i : SecId) (f : PoolRecord → PoolRecord) : (s.modMembers i f).engine = s.engine := by unfold State.modMembers; simp
@[simp] theorem State.captureList_modMembers (s : State) (i : SecId) (f : PoolRecord → PoolRecord) : (s.modMembers i f).captureList = s.captureList := by unfold State.modMembers; simp
@[simp] theorem State.capture_modMembers (s : State) (i : SecId) (f : PoolRecord → PoolRecord) : (s.modMembers i f).capture = s.capture := by unfold State.modMembers; simp
@[simp] theorem State.buffer_modMembers (s : State) (i : SecId) (f : PoolRecord → PoolRecord) : (s.modMembers i f).buffer = s.buffer := by unfold State.modMembers; simp
@[simp] theorem State.events_modMembers (s : State) (i : SecId) (f : PoolRecord → PoolRecord) : (s.modMembers i f).events = s.events := by unfold State.modMembers; simp
@[simp] theorem State.nextSequence_modMembers (s : State) (i : SecId) (f : PoolRecord → PoolRecord) : (s.modMembers i f).nextSequence = s.nextSequence := by unfold State.modMembers; simp
@[simp] theorem State.observeCursor_modMembers (s : State) (i : SecId) (f : PoolRecord → PoolRecord) : (s.modMembers i f).observeCursor = s.observeCursor := by unfold State.modMembers; simp
@[simp] theorem State.commissionCursor_modMembers (s : State) (i : SecId) (f : PoolRecord → PoolRecord) : (s.modMembers i f).commissionCursor = s.commissionCursor := by unfold State.modMembers; simp
@[simp] theorem State.requests_modMembers (s : State) (i : SecId) (f : PoolRecord → PoolRecord) : (s.modMembers i f).requests = s.requests := by unfold State.modMembers; simp
@[simp] theorem State.downstreamQueue_modMembers (s : State) (i : SecId) (f : PoolRecord → PoolRecord) : (s.modMembers i f).downstreamQueue = s.downstreamQueue := by unfold State.modMembers; simp
@[simp] theorem State.throughQueue_modMembers (s : State) (i : SecId) (f : PoolRecord → PoolRecord) : (s.modMembers i f).throughQueue = s.throughQueue := by unfold State.modMembers; simp
@[simp] theorem State.replyQueue_modMembers (s : State) (i : SecId) (f : PoolRecord → PoolRecord) : (s.modMembers i f).replyQueue = s.replyQueue := by unfold State.modMembers; simp
@[simp] theorem State.stationSlot_modMembers (s : State) (i : SecId) (f : PoolRecord → PoolRecord) : (s.modMembers i f).stationSlot = s.stationSlot := by unfold State.modMembers; simp
@[simp] theorem State.readyCount_modMembers (s : State) (i : SecId) (f : PoolRecord → PoolRecord) : (s.modMembers i f).readyCount = s.readyCount := by unfold State.modMembers; simp
@[simp] theorem State.upstreamSent_modMembers (s : State) (i : SecId) (f : PoolRecord → PoolRecord) : (s.modMembers i f).upstreamSent = s.upstreamSent := by unfold State.modMembers; simp
@[simp] theorem State.downstreamSent_modMembers (s : State) (i : SecId) (f : PoolRecord → PoolRecord) : (s.modMembers i f).downstreamSent = s.downstreamSent := by unfold State.modMembers; simp
@[simp] theorem State.freeDraws_modMembers (s : State) (i : SecId) (f : PoolRecord → PoolRecord) : (s.modMembers i f).freeDraws = s.freeDraws := by unfold State.modMembers; simp
@[simp] theorem State.pending_modMembers (s : State) (i : SecId) (f : PoolRecord → PoolRecord) : (s.modMembers i f).pending = s.pending := by unfold State.modMembers; simp
@[simp] theorem State.sec_modMembers (s : State) (i : SecId) (f : PoolRecord → PoolRecord) (j : SecId) :
    (s.modMembers i f).sec j = s.sec j := by unfold State.sec; rw [State.sections_modMembers]
@[simp] theorem State.drive_modMembers (s : State) (i : SecId) (f : PoolRecord → PoolRecord) (m : NodeId) :
    (s.modMembers i f).drive m = s.drive m := by unfold State.drive; rw [State.drives_modMembers]
@[simp] theorem State.watch_modMembers (s : State) (i : SecId) (f : PoolRecord → PoolRecord) (x : WatchId) :
    (s.modMembers i f).watch x = s.watch x := by unfold State.watch; rw [State.watches_modMembers]
@[simp] theorem State.segment_modMembers (s : State) (i : SecId) (f : PoolRecord → PoolRecord) (k' : Nat) :
    (s.modMembers i f).segment k' = s.segment k' := by unfold State.segment; simp

end Sys2Proof.Machine
end

