-- ==== Sys2Proof/Laws/Memory.lean ====
section
/-! SUPPORT. The Capture Buffer as an addressed memory: what a write leaves at every position, and that every operation keeps the
canonical form. -/

namespace Sys2Proof.Machine

/-- The form from a bound is the form from any lower bound. -/
theorem Memory.wfFrom_mono {lo lo' : Nat} (h : lo' ≤ lo) :
    ∀ {m : List (Nat × CaptureRecord)}, Memory.wfFrom lo m = true → Memory.wfFrom lo' m = true
  | [], _ => rfl
  | (p, r) :: rest, w => by
    simp only [Memory.wfFrom, Bool.and_eq_true, decide_eq_true_eq] at w ⊢
    exact ⟨⟨h.trans w.1.1, w.1.2⟩, w.2⟩

/-- A position below the bound reads as a cleared record. -/
theorem Memory.read_below {lo : Nat} :
    ∀ {m : List (Nat × CaptureRecord)} {a : Nat}, Memory.wfFrom lo m = true → a < lo → Memory.read m a = .cleared
  | [], _, _, _ => rfl
  | (p, r) :: rest, a, w, h => by
    simp only [Memory.wfFrom, Bool.and_eq_true, decide_eq_true_eq] at w
    have h1 : ¬ p = a := by omega
    have h2 : a < p := by omega
    simp [Memory.read, h1, h2]

/-- A write keeps the canonical form. -/
theorem Memory.wfFrom_write (v : CaptureRecord) :
    ∀ {m : List (Nat × CaptureRecord)} {lo a : Nat}, Memory.wfFrom lo m = true → lo ≤ a →
      Memory.wfFrom lo (Memory.write m a v) = true
  | [], lo, a, _, h => by
    by_cases hv : v = .cleared <;> simp [Memory.write, hv, Memory.wfFrom, h]
  | (p, r) :: rest, lo, a, w, h => by
    have w' := w
    simp only [Memory.wfFrom, Bool.and_eq_true, decide_eq_true_eq] at w
    unfold Memory.write
    split
    · rename_i hap
      by_cases hv : v = .cleared
      · simpa [hv] using w'
      · simp [hv, Memory.wfFrom, h, w.1.2, w.2, Nat.succ_le_of_lt hap]
    · split
      · rename_i hap
        subst hap
        by_cases hv : v = .cleared
        · simpa [hv] using Memory.wfFrom_mono (by omega) w.2
        · simp [hv, Memory.wfFrom, h, w.2]
      · have := Memory.wfFrom_write v w.2 (show p + 1 ≤ a by omega)
        simp [Memory.wfFrom, w.1.1, w.1.2, this]

/-- What every position reads as after a write. -/
theorem Memory.read_write (v : CaptureRecord) :
    ∀ {m : List (Nat × CaptureRecord)} {lo : Nat} (a b : Nat), Memory.wfFrom lo m = true →
      Memory.read (Memory.write m a v) b = if b = a then v else Memory.read m b
  | [], _, a, b, _ => by
    by_cases hv : v = .cleared
    · by_cases hb : b = a <;> simp [Memory.write, hv, Memory.read, hb]
    · by_cases hb : b = a
      · simp [Memory.write, hv, Memory.read, hb]
      · simp [Memory.write, hv, Memory.read, hb, Ne.symm hb]
  | (p, r) :: rest, _, a, b, w => by
    simp only [Memory.wfFrom, Bool.and_eq_true, decide_eq_true_eq] at w
    unfold Memory.write
    split
    · rename_i hap
      by_cases hv : v = .cleared
      · by_cases hb : b = a
        · subst hb
          have h1 : ¬ p = b := by omega
          simp [hv, Memory.read, h1, hap]
        · simp [hv, hb]
      · by_cases hb : b = a
        · simp [hv, Memory.read, hb]
        · by_cases hba : b < a
          · have h1 : ¬ p = b := by omega
            have h2 : b < p := by omega
            simp [hv, Memory.read, hb, Ne.symm hb, hba, h1, h2]
          · simp [hv, Memory.read, hb, Ne.symm hb, hba]
    · split
      · rename_i hap
        subst hap
        by_cases hb : b = a
        · subst hb
          by_cases hv : v = .cleared
          · simpa [hv] using Memory.read_below w.2 (by omega)
          · simp [hv, Memory.read]
        · by_cases hv : v = .cleared
          · by_cases hba : b < a
            · have := Memory.read_below w.2 (show b < a + 1 by omega)
              simp [hv, Memory.read, hb, Ne.symm hb, hba, this]
            · simp [hv, Memory.read, hb, Ne.symm hb, hba]
          · simp [hv, Memory.read, hb, Ne.symm hb]
      · have ih := Memory.read_write v a b w.2
        by_cases hb : p = b
        · have h1 : ¬ b = a := by omega
          simp [Memory.read, hb, h1]
        · by_cases hbp : b < p
          · have h1 : ¬ b = a := by omega
            simp [Memory.read, hb, hbp, h1]
          · simp [Memory.read, hb, hbp, ih]

/-- The positions listed after a write: those listed before, and the one written. -/
theorem Memory.mem_write {v : CaptureRecord} {x : Nat × CaptureRecord} :
    ∀ {m : List (Nat × CaptureRecord)} {a : Nat}, x ∈ Memory.write m a v → x ∈ m ∨ x = (a, v)
  | [], a, h => by
    unfold Memory.write at h; split at h <;> simp_all
  | (p, r) :: rest, a, h => by
    unfold Memory.write at h
    split at h
    · split at h
      · exact .inl h
      · rcases List.mem_cons.1 h with h | h
        · exact .inr h
        · exact .inl h
    · split at h
      · split at h
        · exact .inl (List.mem_cons_of_mem _ h)
        · rcases List.mem_cons.1 h with h | h
          · exact .inr h
          · exact .inl (List.mem_cons_of_mem _ h)
      · rcases List.mem_cons.1 h with h | h
        · exact .inl (h ▸ List.mem_cons_self ..)
        · rcases Memory.mem_write h with h | h
          · exact .inl (List.mem_cons_of_mem _ h)
          · exact .inr h

/-- Two buffers in canonical form that read the same everywhere are the same list. -/
theorem Memory.ext_read :
    ∀ {m m' : List (Nat × CaptureRecord)} {lo lo' : Nat}, Memory.wfFrom lo m = true → Memory.wfFrom lo' m' = true →
      (∀ a, Memory.read m a = Memory.read m' a) → m = m'
  | [], [], _, _, _, _, _ => rfl
  | [], (p, r) :: rest, _, _, _, w, h => by
    simp only [Memory.wfFrom, Bool.and_eq_true, decide_eq_true_eq] at w
    have := h p
    simp [Memory.read] at this
    exact absurd this.symm w.1.2
  | (p, r) :: rest, [], _, _, w, _, h => by
    simp only [Memory.wfFrom, Bool.and_eq_true, decide_eq_true_eq] at w
    have := h p
    simp [Memory.read] at this
    exact absurd this w.1.2
  | (p, r) :: rest, (p', r') :: rest', _, _, w, w', h => by
    simp only [Memory.wfFrom, Bool.and_eq_true, decide_eq_true_eq] at w w'
    have hp : p = p' := by
      rcases Nat.lt_trichotomy p p' with hlt | heq | hlt
      · have := h p
        have h1 : ¬ p' = p := by omega
        simp [Memory.read, h1, hlt] at this
        exact absurd this w.1.2
      · exact heq
      · have := h p'
        have h1 : ¬ p = p' := by omega
        simp [Memory.read, h1, hlt] at this
        exact absurd this.symm w'.1.2
    subst hp
    have hr : r = r' := by simpa [Memory.read] using h p
    subst hr
    congr 1
    refine Memory.ext_read w.2 w'.2 fun a => ?_
    by_cases hap : a < p + 1
    · rw [Memory.read_below w.2 hap, Memory.read_below w'.2 hap]
    · have h1 : ¬ p = a := by omega
      have h2 : ¬ a < p := by omega
      simpa [Memory.read, h1, h2] using h a

/-- The buffer after reset is in canonical form. -/
theorem Memory.wf_reset : Memory.wf State.reset.buffer = true := rfl

/-- A write keeps the canonical form. -/
theorem Memory.wf_write {m : List (Nat × CaptureRecord)} (a : Nat) (v : CaptureRecord) (h : Memory.wf m = true) :
    Memory.wf (Memory.write m a v) = true := Memory.wfFrom_write v h (Nat.zero_le a)

/-- Writing one record, the one operation of a sweep that writes the buffer, keeps the canonical form (R142). -/
theorem State.writeRecord_wf (s : State) (r : CaptureRecord) (h : Memory.wf s.buffer = true) :
    Memory.wf (s.writeRecord r).buffer = true := by
  unfold State.writeRecord
  simp only
  split
  · exact Memory.wf_write _ _ h
  · split
    · exact Memory.wf_write _ _ h
    · exact h

/-- Writing one record changes the buffer and the capture control record alone. -/
theorem State.writeRecord_frame (s : State) (r : CaptureRecord) :
    s.writeRecord r = { s with buffer := (s.writeRecord r).buffer, capture := (s.writeRecord r).capture } := by
  unfold State.writeRecord
  simp only
  split
  · rfl
  · split <;> rfl

/-- A sweep keeps the canonical form. -/
theorem State.takeSweep_wf (s : State) (v : FrameView) (h : Memory.wf s.buffer = true) :
    Memory.wf (s.takeSweep v).buffer = true := by
  have hfold : ∀ (rs : List CaptureRecord) (t : State), Memory.wf t.buffer = true →
      Memory.wf (rs.foldl State.writeRecord t).buffer = true := by
    intro rs
    induction rs with
    | nil => intro t ht; exact ht
    | cons r rs ih => intro t ht; exact ih _ (t.writeRecord_wf r ht)
  have hend : ∀ t : State, t.endSweep.buffer = t.buffer := by
    intro t
    unfold State.endSweep State.captureDone
    split <;> (try dsimp only) <;> (repeat' split) <;> simp
  have hadv : ∀ t : State, t.advanceItem.buffer = t.buffer := by
    intro t; unfold State.advanceItem; split <;> simp
  unfold State.takeSweep
  split
  · rw [hend, hadv]; exact hfold _ _ h
  · exact h

/-- CAPTURE START, the one command that clears the buffer, leaves it in canonical form (R145). -/
theorem State.beginCapture_wf (s : State) : Memory.wf s.beginCapture.buffer = true := rfl

end Sys2Proof.Machine
end

