-- ==== Sys2Proof/Laws/Ops.lean ====
section
/-! SUPPORT. What each shared operation can do, said once: events, member records, triggers, entry to a state, and the Service
Handler's taking of a request. -/

namespace Sys2Proof.Machine

/-! ## Events (R167) -/

/-- Posting changes the Event Queue and the next sequence number alone. -/
theorem State.post_frame (s : State) (k : EventKind) (a : Option SecId) (n : Option NodeId) (p : Option Pos) (c : Word16)
    (v : Option Int) (d : Nat) :
    s.post k a n p c v d = { s with events := (s.post k a n p c v d).events, nextSequence := (s.post k a n p c v d).nextSequence } := by
  unfold State.post; split <;> rfl

/-- Posting while there is room appends the event. -/
theorem State.post_room (s : State) (k : EventKind) (a : Option SecId) (n : Option NodeId) (p : Option Pos) (c : Word16)
    (v : Option Int) (d : Nat) (h : s.events.length < 32) :
    s.post k a n p c v d =
      { s with events := s.events ++ [⟨s.nextSequence, k, a, n, p, c, v, d, false⟩], nextSequence := s.nextSequence + 1 } := by
  unfold State.post; rw [if_pos (show _ < Config.eventQueueSize from h)]

/-- Posting with 32 records waiting marks the newest. -/
theorem State.post_full (s : State) (k : EventKind) (a : Option SecId) (n : Option NodeId) (p : Option Pos) (c : Word16)
    (v : Option Int) (d : Nat) (h : 32 ≤ s.events.length) :
    s.post k a n p c v d = { s with events := markOverflow s.events } := by
  unfold State.post; rw [if_neg (show ¬ _ < Config.eventQueueSize from Nat.not_lt.2 h)]

/-- Marking overflow keeps the number of records. -/
@[simp] theorem markOverflow_length : ∀ es : List Event, (markOverflow es).length = es.length
  | [] => rfl
  | [_] => rfl
  | _ :: e :: es => by simp [markOverflow, markOverflow_length (e :: es)]

/-- Marking overflow of a queue that ends in a record. -/
theorem markOverflow_concat (e : Event) : ∀ es : List Event, markOverflow (es ++ [e]) = es ++ [{ e with overflowAfter := true }]
  | [] => rfl
  | [_] => rfl
  | x :: y :: es => by
    have h := markOverflow_concat e (y :: es)
    simp only [List.cons_append] at h
    simp [markOverflow, h]

/-- The events of a post depend on the Event Queue and the next sequence number alone. -/
theorem State.post_congr {s t : State} (he : s.events = t.events) (hn : s.nextSequence = t.nextSequence) (k : EventKind)
    (a : Option SecId) (n : Option NodeId) (p : Option Pos) (c : Word16) (v : Option Int) (d : Nat) :
    (s.post k a n p c v d).events = (t.post k a n p c v d).events ∧
      (s.post k a n p c v d).nextSequence = (t.post k a n p c v d).nextSequence := by
  unfold State.post; rw [he, hn]; split <;> exact ⟨rfl, rfl⟩

/-! ## Member records -/

/-- Changing the records of a list without repetition: each record in it once, the others not at all. -/
theorem State.member_modRecs (f : PoolRecord → PoolRecord) (q : RecId) :
    ∀ (rs : List RecId) (s : State), rs.Nodup → (s.modRecs rs f).member q = if q ∈ rs then f (s.member q) else s.member q
  | [], _, _ => by simp [State.modRecs]
  | r :: rs, s, h => by
    have hr := (List.nodup_cons.1 h).1
    have ih := State.member_modRecs f q rs (s.modRec r f) (List.nodup_cons.1 h).2
    unfold State.modRecs at ih ⊢
    rw [List.foldl_cons, ih, State.member_modRec]
    by_cases hq : q = r
    · subst hq; simp [hr]
    · simp [hq]

/-- The same for a change that done twice is the change done once, on any list. -/
theorem State.member_modRecs_idem (f : PoolRecord → PoolRecord) (hf : ∀ x, f (f x) = f x) (q : RecId) :
    ∀ (rs : List RecId) (s : State), (s.modRecs rs f).member q = if q ∈ rs then f (s.member q) else s.member q
  | [], _ => by simp [State.modRecs]
  | r :: rs, s => by
    have ih := State.member_modRecs_idem f hf q rs (s.modRec r f)
    unfold State.modRecs at ih ⊢
    rw [List.foldl_cons, ih, State.member_modRec]
    by_cases hq : q = r
    · subst hq; by_cases hm : q ∈ rs <;> simp [hm, hf]
    · simp [hq]

/-- A member's record after every member of section i was changed by an idempotent change. -/
theorem State.member_modMembers_idem (s : State) (i : SecId) (f : PoolRecord → PoolRecord) (hf : ∀ x, f (f x) = f x) (q : RecId) :
    (s.modMembers i f).member q = if q ∈ s.members i then f (s.member q) else s.member q :=
  State.member_modRecs_idem f hf q _ _

/-! ## Triggers (R147) -/

/-- A trigger signal changes the capture control record, the Event Queue and the next sequence number alone. -/
theorem State.takeTrigger_frame (s : State) (k : TriggerKind) (x : Nat) :
    (s.takeTrigger k x).1 = { s with
      capture := (s.takeTrigger k x).1.capture
      events := (s.takeTrigger k x).1.events
      nextSequence := (s.takeTrigger k x).1.nextSequence } := by
  unfold State.takeTrigger
  split
  · split
    · rfl
    · split
      · unfold State.captureDone State.post; split <;> rfl
      · rfl
    · rfl
  · rfl

/-- A signal of a kind that the capture does not wait for changes nothing. -/
theorem State.signal_other (s : State) (k : TriggerKind) (x : Nat) (h : s.capture.triggerKind ≠ k) : s.signal k x = s := by
  unfold State.signal State.takeTrigger CaptureControl.matchesTrigger
  simp [h]

/-! ## Entry to a state (R24 to R26) -/

/-- Giving up the engine changes the engine, the Event Queue and the next sequence number alone. -/
theorem State.freeEngine_frame (s : State) (i : SecId) (r : CalResult) :
    s.freeEngine i r = { s with
      engine := (s.freeEngine i r).engine
      events := (s.freeEngine i r).events
      nextSequence := (s.freeEngine i r).nextSequence } := by
  unfold State.freeEngine
  split
  · cases r <;> (unfold State.postCalResult State.post; dsimp only; split <;> rfl)
  · rfl

/-- The engine after section i gave it up. -/
theorem State.freeEngine_engine (s : State) (i : SecId) (r : CalResult) :
    (s.freeEngine i r).engine = if s.engine.holder = some i then Engine.free else s.engine := by
  unfold State.freeEngine; split <;> rfl

/-- A section that does not hold the engine gives up nothing. -/
theorem State.freeEngine_other (s : State) (i : SecId) (r : CalResult) (h : s.engine.holder ≠ some i) :
    s.freeEngine i r = s := by
  unfold State.freeEngine; rw [if_neg h]

/-- What an entry may change: sections, member records, the engine, the Event Queue and the next sequence number. -/
def State.entryFrame (s t : State) : Prop :=
  t = { s with
    sections := t.sections, pool := t.pool, engine := t.engine, events := t.events, nextSequence := t.nextSequence }

/-- Entry to BYPASS, SELECTED or FAULTED: the section's record (R24, R25). -/
def Section.passing (x : Section) (st : SectionState) (cause : Cause) : Section :=
  { x with
    state := st, faultCode := if st = .faulted then some cause else none, releaseTarget := none, startPending := false
    profile := { x.profile with stepPending := false } }

/-- Everything that entry to BYPASS, SELECTED or FAULTED does but for its events (R24, R25). -/
theorem State.enterPassing_spec (s : State) (i : SecId) (st : SectionState) (cause : Cause) (node : Option NodeId)
    (pos : Option Pos) :
    let t := s.enterPassing i st cause node pos
    s.entryFrame t ∧ t.sec i = (s.sec i).passing st cause ∧ (∀ j, j ≠ i → t.sec j = s.sec j) ∧
      (∀ q, t.member q = if q ∈ s.members i then (s.member q).dropped else s.member q) ∧
      t.engine = if s.engine.holder = some i then Engine.free else s.engine := by
  intro t
  have hf := State.freeEngine_frame (s.modMembers i PoolRecord.dropped) i (.abandoned cause.abandon)
  have he := State.freeEngine_engine (s.modMembers i PoolRecord.dropped) i (.abandoned cause.abandon)
  have hsec : ∀ j, ((s.modMembers i PoolRecord.dropped).freeEngine i (.abandoned cause.abandon)).sec j = s.sec j := by
    intro j; rw [hf]; unfold State.sec; simp
  have hmem : ∀ q, ((s.modMembers i PoolRecord.dropped).freeEngine i (.abandoned cause.abandon)).member q =
      (s.modMembers i PoolRecord.dropped).member q := by
    intro q; rw [hf]; rfl
  refine ⟨?_, ?_, ?_, ?_, ?_⟩
  · show t = _
    simp only [t, State.enterPassing, State.postStateChange]
    rw [State.post_frame]
    generalize hz : (s.modMembers i PoolRecord.dropped).freeEngine i (.abandoned cause.abandon) = z at *
    have : z = { s with pool := z.pool, engine := z.engine, events := z.events, nextSequence := z.nextSequence } := by
      rw [hf]; unfold State.modMembers; rw [State.modRecs_frame]
    unfold State.modSec
    rw [this]
  · simp [t, State.enterPassing, State.postStateChange, hsec, Section.passing]
  · intro j hj
    simp [t, State.enterPassing, State.postStateChange, State.sec_modSec_ne _ hj, hsec]
  · intro q
    simp [t, State.enterPassing, State.postStateChange, hmem]
    exact State.member_modMembers_idem s i PoolRecord.dropped (fun _ => rfl) q
  · simp [t, State.enterPassing, State.postStateChange, he]

/-- A record with the held offset formed at entry to FROZEN or RELEASING (R57). -/
def PoolRecord.withOffset (r : PoolRecord) (base : Int) : PoolRecord := { r with held := r.issued - base }

/-- Everything that entry to FROZEN does but for its event; the engine is not touched (R26, R44). -/
theorem State.enterFrozen_spec (s : State) (i : SecId) (cause : Cause) (src : Option Nat) (node : Option NodeId)
    (pos : Option Pos) :
    let t := s.enterFrozen i cause src node pos
    s.entryFrame t ∧
      t.sec i = { s.sec i with
        state := .frozen, freeze := (s.sec i).freezeRecord cause src s.cycle, startPending := false
        profile := { (s.sec i).profile with stepPending := false } } ∧
      (∀ j, j ≠ i → t.sec j = s.sec j) ∧
      (∀ q, t.member q = if q ∈ s.members i then (s.member q).withOffset (s.sec i).issueBase else s.member q) ∧
      t.engine = s.engine ∧
      t.events = (s.postStateChange i .frozen cause node pos).events ∧
      t.nextSequence = (s.postStateChange i .frozen cause node pos).nextSequence := by
  intro t
  refine ⟨?_, ?_, ?_, ?_, ?_, ?_⟩
  · show t = _
    simp only [t, State.enterFrozen, State.postStateChange, State.formOffsets, State.modMembers]
    rw [State.post_frame, State.modRecs_frame]; rfl
  · simp [t, State.enterFrozen, State.postStateChange, State.formOffsets]
  · intro j hj
    simp [t, State.enterFrozen, State.postStateChange, State.formOffsets, State.sec_modSec_ne _ hj]
  · intro q
    simp [t, State.enterFrozen, State.postStateChange, State.formOffsets]
    exact State.member_modMembers_idem s i (fun r => r.withOffset (s.sec i).issueBase) (fun _ => rfl) q
  · simp [t, State.enterFrozen, State.postStateChange, State.formOffsets]
  · have h := State.post_congr (s := ((s.formOffsets i).modSec i fun x => { x with
        state := .frozen, freeze := x.freezeRecord cause src (s.formOffsets i).cycle, startPending := false
        profile := { x.profile with stepPending := false } })) (t := s) (by simp [State.formOffsets])
        (by simp [State.formOffsets]) .stateChange (some i) node pos s.cycle (some (SectionState.frozen.code : Int)) cause.code
    simp only [t, State.enterFrozen, State.postStateChange]
    simpa [State.formOffsets] using h

/-- Everything that entry to RELEASING does but for its events (R24, R26). -/
theorem State.enterReleasing_spec (s : State) (i : SecId) (target : ReleaseTarget) (cause : Cause) (result : CalResult)
    (node : Option NodeId) (pos : Option Pos) :
    let t := s.enterReleasing i target cause result node pos
    s.entryFrame t ∧
      t.sec i = { s.sec i with
        state := .releasing, releaseTarget := some target, startPending := false
        profile := { (s.sec i).profile with stepPending := false } } ∧
      (∀ j, j ≠ i → t.sec j = s.sec j) ∧
      (∀ q, t.member q = if q ∈ s.members i then (s.member q).withOffset (s.sec i).issueBase else s.member q) ∧
      t.engine = if s.engine.holder = some i then Engine.free else s.engine := by
  intro t
  have hf := State.freeEngine_frame (s.formOffsets i) i result
  have he := State.freeEngine_engine (s.formOffsets i) i result
  have hsec : ∀ j, ((s.formOffsets i).freeEngine i result).sec j = s.sec j := by
    intro j; rw [hf]; unfold State.sec State.formOffsets; simp
  have hmem : ∀ q, ((s.formOffsets i).freeEngine i result).member q = (s.formOffsets i).member q := by
    intro q; rw [hf]; rfl
  refine ⟨?_, ?_, ?_, ?_, ?_⟩
  · show t = _
    simp only [t, State.enterReleasing, State.postStateChange]
    rw [State.post_frame]
    generalize hz : (s.formOffsets i).freeEngine i result = z at *
    have : z = { s with pool := z.pool, engine := z.engine, events := z.events, nextSequence := z.nextSequence } := by
      rw [hf]; unfold State.formOffsets State.modMembers; rw [State.modRecs_frame]
    unfold State.modSec
    rw [this]
  · simp [t, State.enterReleasing, State.postStateChange, hsec]
  · intro j hj
    simp [t, State.enterReleasing, State.postStateChange, State.sec_modSec_ne _ hj, hsec]
  · intro q
    simp [t, State.enterReleasing, State.postStateChange, hmem]
    exact State.member_modMembers_idem s i (fun r => r.withOffset (s.sec i).issueBase) (fun _ => rfl) q
  · have hfo : (s.formOffsets i).engine = s.engine := by simp [State.formOffsets]
    simp [t, State.enterReleasing, State.postStateChange, he, hfo]

/-! ## The Service Handler (R161, R162) -/

/-- A powered command is its effect. -/
theorem State.whenPowered_on (s : State) (f : State → State) (h : s.powered = true) : s.whenPowered f = .next (f s) := by
  simp [State.whenPowered, h]

/-- Without supply a command changes nothing. -/
theorem State.whenPowered_off (s : State) (f : State → State) (h : s.powered = false) : s.whenPowered f = .next s := by
  simp [State.whenPowered, h]

/-- The request that a row takes. -/
theorem State.requestFor_eq {s : State} {r : RequestFrame} {code : Nat} {level : Level} (hroom : s.replyQueue.length < 4)
    (hhead : s.requests.head? = some r) (hcode : r.code.toNat = code) (hlevel : Level.ofCode r.level.toNat = some level) :
    s.requestFor code = some (r, level) := by
  unfold State.requestFor State.headRequest
  rw [if_pos (show _ < Config.replyQueueSize from hroom), hhead]
  simp [hcode, hlevel]

/-- An admitted request of a row: its command's work on the state without the request, and its one reply. -/
theorem State.serve_admitted {s : State} {r : RequestFrame} {row : CommandRow} {level : Level} (hroom : s.replyQueue.length < 4)
    (hhead : s.requests.head? = some r) (hcode : r.code.toNat = row.code)
    (hlevel : Level.ofCode r.level.toNat = some level) (hpermit : level = .commission → s.permit = true)
    (hleast : row.least = .commission → level = .commission)
    (hcount : row.fewest ≤ r.operands.length ∧ r.operands.length ≤ row.most)
    (body : State → Level → List Int → Answer) :
    s.serve row body = (body s.dropRequest level (operandValues r)).post r.tag := by
  unfold State.serve
  rw [State.requestFor_eq hroom hhead hcode hlevel]
  have hadm : s.dropRequest.admission row level r.operands.length = none := by
    unfold State.admission
    rw [if_neg, if_neg, if_neg]
    · omega
    · rintro ⟨h1, h2⟩; rw [hleast h1] at h2; cases h2
    · rintro ⟨h1, h2⟩; rw [State.permit_dropRequest, hpermit h1] at h2; cases h2
  simp only [hadm]

/-- A request that checks 2 to 4 refuse: the refusal is its whole effect. -/
theorem State.serve_refused {s : State} {r : RequestFrame} {row : CommandRow} {level : Level} {code : ResultCode}
    (hroom : s.replyQueue.length < 4) (hhead : s.requests.head? = some r) (hcode : r.code.toNat = row.code)
    (hlevel : Level.ofCode r.level.toNat = some level)
    (hadm : s.admission row level r.operands.length = some code) (body : State → Level → List Int → Answer) :
    s.serve row body = s.dropRequest.postReply r.tag code false [] := by
  unfold State.serve
  rw [State.requestFor_eq hroom hhead hcode hlevel]
  have : s.dropRequest.admission row level r.operands.length = some code := by
    rw [← hadm]; rfl
  simp only [this]
  rfl

end Sys2Proof.Machine
end

