-- ==== Sys2Proof/Laws/Stable.lean ====
section
/-! SUPPORT. What the block's own work never changes, whatever it does to states, references and records: who is a member of what,
the configuration, the directions, and every field outside the frame named here. -/

namespace Sys2Proof.Machine

/-- t is s after work that keeps membership and configuration: the sections' members, configuration and latch, the identity of every
pool record, the direction and section of every Drive Map entry, and every field but the eight named. -/
structure Stable (s t : State) : Prop where
  frame : t = { s with
    sections := t.sections, pool := t.pool, drives := t.drives, engine := t.engine, watches := t.watches, capture := t.capture
    events := t.events, nextSequence := t.nextSequence }
  sec : ∀ i, t.members i = s.members i ∧ (t.sec i).cfg = (s.sec i).cfg ∧ (t.sec i).snapshot = (s.sec i).snapshot
  rec' : ∀ r, (t.member r).inUse = (s.member r).inUse ∧ (t.member r).inSection = (s.member r).inSection ∧
    (t.member r).node = (s.member r).node ∧ (t.member r).position = (s.member r).position ∧
    (t.member r).weight = (s.member r).weight
  map : ∀ n, (t.drive n).direction = (s.drive n).direction ∧ (t.drive n).inSection = (s.drive n).inSection

namespace Stable

/-- Doing nothing is stable. -/
theorem refl (s : State) : Stable s s := ⟨rfl, fun _ => ⟨rfl, rfl, rfl⟩, fun _ => ⟨rfl, rfl, rfl, rfl, rfl⟩, fun _ => ⟨rfl, rfl⟩⟩

/-- Stable work after stable work. -/
theorem trans {s t u : State} (h : Stable s t) (k : Stable t u) : Stable s u where
  frame := by rw [k.frame, h.frame]
  sec i := ⟨(k.sec i).1.trans (h.sec i).1, (k.sec i).2.1.trans (h.sec i).2.1, (k.sec i).2.2.trans (h.sec i).2.2⟩
  rec' r := ⟨(k.rec' r).1.trans (h.rec' r).1, (k.rec' r).2.1.trans (h.rec' r).2.1, (k.rec' r).2.2.1.trans (h.rec' r).2.2.1,
    (k.rec' r).2.2.2.1.trans (h.rec' r).2.2.2.1, (k.rec' r).2.2.2.2.trans (h.rec' r).2.2.2.2⟩
  map n := ⟨(k.map n).1.trans (h.map n).1, (k.map n).2.trans (h.map n).2⟩

/-- A node of a record is kept. -/
theorem memberNode {s t : State} (h : Stable s t) (r : RecId) : t.memberNode r = s.memberNode r := by
  unfold State.memberNode; rw [(h.rec' r).2.2.1]

/-- The direction of a member is kept. -/
theorem memberDirection {s t : State} (h : Stable s t) (r : RecId) : t.memberDirection r = s.memberDirection r := by
  unfold State.memberDirection; rw [h.memberNode, (h.map _).1]

/-- Changing a section without its members, configuration and latch. -/
theorem modSec (s : State) (i : SecId) (f : Section → Section) (h1 : ∀ x, (f x).members = x.members) (h2 : ∀ x, (f x).cfg = x.cfg)
    (h3 : ∀ x, (f x).snapshot = x.snapshot) : Stable s (s.modSec i f) where
  frame := rfl
  sec j := by
    unfold State.members
    rw [State.sec_modSec]
    by_cases h : j = i <;> simp [h, h1, h2, h3]
  rec' _ := ⟨rfl, rfl, rfl, rfl, rfl⟩
  map _ := ⟨rfl, rfl⟩

/-- Changing a record without its identity. -/
theorem modRec (s : State) (r : RecId) (f : PoolRecord → PoolRecord)
    (h : ∀ x, (f x).inUse = x.inUse ∧ (f x).inSection = x.inSection ∧ (f x).node = x.node ∧ (f x).position = x.position ∧
      (f x).weight = x.weight) : Stable s (s.modRec r f) where
  frame := rfl
  sec _ := ⟨rfl, rfl, rfl⟩
  rec' q := by
    rw [State.member_modRec]
    by_cases hq : q = r
    · subst hq; simpa using h (s.member q)
    · simp [hq]
  map _ := ⟨rfl, rfl⟩

/-- Work over a list, each piece stable, is stable. -/
theorem foldl {α : Type} (f : State → α → State) (hf : ∀ s a, Stable s (f s a)) :
    ∀ (l : List α) (s : State), Stable s (l.foldl f s)
  | [], s => refl s
  | a :: l, s => (hf s a).trans (foldl f hf l _)

/-- Work over a list that carries more than a state, each piece stable on the state, is stable on it. -/
theorem foldlOn {α β : Type} (state : β → State) (f : β → α → β) (hf : ∀ b a, Stable (state b) (state (f b a))) :
    ∀ (l : List α) (b : β), Stable (state b) (state (l.foldl f b))
  | [], b => refl (state b)
  | a :: l, b => (hf b a).trans (foldlOn state f hf l _)

/-- Work over the sections. -/
theorem forSections (f : State → SecId → State) (hf : ∀ s i, Stable s (f s i)) (s : State) : Stable s (s.forSections f) :=
  foldl f hf _ _

/-- Changing the records of some members without their identity. -/
theorem modMembers (s : State) (i : SecId) (f : PoolRecord → PoolRecord)
    (h : ∀ x, (f x).inUse = x.inUse ∧ (f x).inSection = x.inSection ∧ (f x).node = x.node ∧ (f x).position = x.position ∧
      (f x).weight = x.weight) : Stable s (s.modMembers i f) := by
  unfold State.modMembers State.modRecs
  exact foldl _ (fun t r => modRec t r f h) _ _

/-- Changing a Drive Map entry without its direction and section. -/
theorem modDrive (s : State) (n : NodeId) (f : DriveEntry → DriveEntry)
    (h : ∀ d, (f d).direction = d.direction ∧ (f d).inSection = d.inSection) : Stable s (s.modDrive n f) where
  frame := rfl
  sec _ := ⟨rfl, rfl, rfl⟩
  rec' _ := ⟨rfl, rfl, rfl, rfl, rfl⟩
  map m := by
    rw [State.drive_modDrive]
    by_cases hm : m = n
    · subst hm; simpa using h (s.drive m)
    · simp [hm]

/-- Changing a watch point. -/
theorem modWatch (s : State) (w : WatchId) (f : WatchPoint → WatchPoint) : Stable s (s.modWatch w f) :=
  ⟨rfl, fun _ => ⟨rfl, rfl, rfl⟩, fun _ => ⟨rfl, rfl, rfl, rfl, rfl⟩, fun _ => ⟨rfl, rfl⟩⟩

/-- Changing the engine. -/
theorem modEngine (s : State) (f : Engine → Engine) : Stable s (s.modEngine f) :=
  ⟨rfl, fun _ => ⟨rfl, rfl, rfl⟩, fun _ => ⟨rfl, rfl, rfl, rfl, rfl⟩, fun _ => ⟨rfl, rfl⟩⟩

/-- A monitor record is no membership or configuration. -/
theorem modMonitor (s : State) (i : SecId) (f : Monitor → Monitor) : Stable s (s.modMonitor i f) :=
  modSec s i _ (by intro; rfl) (by intro; rfl) (by intro; rfl)

/-- Nor is the profile position. -/
theorem modProfile (s : State) (i : SecId) (f : ProfilePosition → ProfilePosition) : Stable s (s.modProfile i f) :=
  modSec s i _ (by intro; rfl) (by intro; rfl) (by intro; rfl)

/-- Posting an event. -/
theorem post (s : State) (k : EventKind) (a : Option SecId) (n : Option NodeId) (p : Option Pos) (c : Word16) (v : Option Int)
    (d : Nat) : Stable s (s.post k a n p c v d) := by
  rw [State.post_frame]
  exact ⟨rfl, fun _ => ⟨rfl, rfl, rfl⟩, fun _ => ⟨rfl, rfl, rfl, rfl, rfl⟩, fun _ => ⟨rfl, rfl⟩⟩

/-- Signalling a trigger. -/
theorem signal (s : State) (k : TriggerKind) (x : Nat) : Stable s (s.signal k x) := by
  unfold State.signal
  rw [State.takeTrigger_frame]
  exact ⟨rfl, fun _ => ⟨rfl, rfl, rfl⟩, fun _ => ⟨rfl, rfl, rfl, rfl, rfl⟩, fun _ => ⟨rfl, rfl⟩⟩

/-- Giving up the engine. -/
theorem freeEngine (s : State) (i : SecId) (r : CalResult) : Stable s (s.freeEngine i r) := by
  rw [State.freeEngine_frame]
  exact ⟨rfl, fun _ => ⟨rfl, rfl, rfl⟩, fun _ => ⟨rfl, rfl, rfl, rfl, rfl⟩, fun _ => ⟨rfl, rfl⟩⟩

/-- Entry to BYPASS, SELECTED or FAULTED. -/
theorem enterPassing (s : State) (i : SecId) (st : SectionState) (cause : Cause) (node : Option NodeId) (pos : Option Pos) :
    Stable s (s.enterPassing i st cause node pos) := by
  unfold State.enterPassing State.postStateChange
  exact (((modMembers s i _ (by intro; exact ⟨rfl, rfl, rfl, rfl, rfl⟩)).trans (freeEngine _ _ _)).trans
    (modSec _ _ _ (by intro; rfl) (by intro; rfl) (by intro; rfl))).trans (post _ _ _ _ _ _ _ _)

/-- Entry to FROZEN. -/
theorem enterFrozen (s : State) (i : SecId) (cause : Cause) (src : Option Nat) (node : Option NodeId) (pos : Option Pos) :
    Stable s (s.enterFrozen i cause src node pos) := by
  unfold State.enterFrozen State.postStateChange State.formOffsets
  exact ((modMembers s i _ (by intro; exact ⟨rfl, rfl, rfl, rfl, rfl⟩)).trans
    (modSec _ _ _ (by intro; rfl) (by intro; rfl) (by intro; rfl))).trans (post _ _ _ _ _ _ _ _)

/-- Entry to RELEASING. -/
theorem enterReleasing (s : State) (i : SecId) (target : ReleaseTarget) (cause : Cause) (result : CalResult)
    (node : Option NodeId) (pos : Option Pos) : Stable s (s.enterReleasing i target cause result node pos) := by
  unfold State.enterReleasing State.postStateChange State.formOffsets
  exact (((modMembers s i _ (by intro; exact ⟨rfl, rfl, rfl, rfl, rfl⟩)).trans (freeEngine _ _ _)).trans
    (modSec _ _ _ (by intro; rfl) (by intro; rfl) (by intro; rfl))).trans (post _ _ _ _ _ _ _ _)

/-- A freeze request. -/
theorem requestFreeze (s : State) (i : SecId) (cause : Cause) (src : Option Nat) (node : Option NodeId) (pos : Option Pos) :
    Stable s (s.requestFreeze i cause src node pos) := by
  unfold State.requestFreeze; split
  · exact enterFrozen ..
  · exact refl s

/-- A release request. -/
theorem requestRelease (s : State) (i : SecId) (cause : Cause) (node : Option NodeId) (pos : Option Pos) :
    Stable s (s.requestRelease i cause node pos) := by
  unfold State.requestRelease; split
  · exact enterReleasing ..
  · exact refl s

/-- An abort request. -/
theorem requestAbort (s : State) (i : SecId) : Stable s (s.requestAbort i) := by
  unfold State.requestAbort; split
  · exact enterPassing ..
  · exact refl s

/-- A fault condition. -/
theorem faultCondition (s : State) (i : SecId) (cause : Cause) (node : Option NodeId) (pos : Option Pos) :
    Stable s (s.faultCondition i cause node pos) := by
  unfold State.faultCondition; split
  · exact enterPassing ..
  · exact refl s

/-- A late request. -/
theorem takeLate (s : State) (r : LateRequest) : Stable s (s.takeLate r) := by
  cases r
  · exact requestFreeze ..
  · exact requestRelease ..

/-- The request of an action. -/
theorem requestAction (s : State) (i : SecId) (a : LimitAction) (cause : Cause) (src : Option Nat) (node : Option NodeId)
    (pos : Option Pos) : Stable s (s.requestAction i a cause src node pos) := by
  cases a
  · exact refl s
  · exact requestFreeze ..
  · exact requestRelease ..
  · exact requestAbort ..

/-- The Share Balancer's work on a set. -/
theorem balance (s : State) (i : SecId) (complete : Bool) : Stable s (s.balance i complete) := by
  have h1 : Stable s (s.storeImbalances i) := by
    unfold State.storeImbalances
    exact foldl _ (fun t r => modRec t r _ (by intro; exact ⟨rfl, rfl, rfl, rfl, rfl⟩)) _ _
  unfold State.balance
  dsimp only
  split
  · exact h1.trans (modMembers _ _ _ (by intro; exact ⟨rfl, rfl, rfl, rfl, rfl⟩))
  · exact h1

/-- The evaluation of one limit. -/
theorem evaluateLimit (s : State) (i : SecId) (c : Word16) (k : LimitKind) : Stable s (s.evaluateLimit i c k) := by
  unfold State.evaluateLimit State.postLimit
  split
  · exact refl s
  · dsimp only
    split
    · exact modMonitor ..
    · exact (modMonitor ..).trans (post ..)
    · exact (((modMonitor ..).trans (post ..)).trans (signal ..)).trans (requestAction ..)

/-- The zero-cross step. -/
theorem zeroCrossStep (s : State) (i : SecId) (c : Word16) : Stable s (s.zeroCrossStep i c) := by
  unfold State.zeroCrossStep
  split
  · split
    · exact refl s
    · dsimp only
      split
      · exact (((modMonitor ..).trans (modMonitor ..)).trans (post ..)).trans (requestAction ..)
      · exact modMonitor ..
  · exact refl s

/-- The Section Monitor's work on a set. -/
theorem monitorSet (s : State) (i : SecId) (c : Word16) : Stable s (s.monitorSet i c) :=
  (((evaluateLimit ..).trans (evaluateLimit ..)).trans (evaluateLimit ..)).trans (zeroCrossStep ..)

/-- The end of a calibration. -/
theorem finishCal (s : State) (i : SecId) : Stable s (s.finishCal i) := by
  unfold State.finishCal
  split
  · refine Stable.trans ?_ (enterReleasing ..)
    unfold State.writeCal
    exact foldl _ (fun t v => modDrive t _ _ (by intro; exact ⟨rfl, rfl⟩)) _ _
  · exact enterReleasing ..

/-- The engine's work on a set. -/
theorem engineTakes (s : State) (i : SecId) (complete : Bool) : Stable s (s.engineTakes i complete) := by
  unfold State.engineTakes State.sampleSet
  split
  · split <;> (try dsimp only)
    · split
      · exact (modEngine ..).trans (modEngine ..)
      · exact modEngine ..
    · split
      · exact ((modEngine ..).trans (modEngine ..)).trans (finishCal ..)
      · exact modEngine ..
    all_goals exact refl s
  · exact refl s

/-- A skipped set. -/
theorem engineSkip (s : State) (i : SecId) : Stable s (s.engineSkip i) := by
  unfold State.engineSkip
  split
  · dsimp only
    split
    · exact (modEngine ..).trans (enterReleasing ..)
    · exact modEngine ..
  · exact refl s

/-- The engine's work at a dispatch. -/
theorem engineDispatch (s : State) : Stable s s.engineDispatch := by
  unfold State.engineDispatch
  split
  · exact refl s
  · split
    · split
      · exact enterReleasing ..
      · exact modEngine ..
    · exact refl s

/-- The evaluation of a set. -/
theorem evaluateSet (s : State) (i : SecId) (c : Word16) (complete : Bool) : Stable s (s.evaluateSet i c complete) := by
  have h := modSec s i (fun x => { x with
    evaluated := true, lastSet := some ⟨c, complete, if complete then none else s.firstStale i⟩ })
    (by intro; rfl) (by intro; rfl) (by intro; rfl)
  unfold State.evaluateSet
  dsimp only
  generalize s.modSec i _ = u at h ⊢
  split
  · exact ((h.trans (balance ..)).trans (monitorSet ..)).trans (engineTakes ..)
  · exact h

/-- Set completion. -/
theorem completeSet (s : State) (i : SecId) : Stable s (s.completeSet i) := by
  unfold State.completeSet
  split
  · exact refl s
  · split
    · exact evaluateSet ..
    · exact refl s

/-- An occurrence at a watch point. -/
theorem occurrence (s : State) (w : WatchId) (v : Int) (src : OccurrenceSource) (change : ChangeStop) :
    Stable s (s.occurrence w v src change).1 := by
  have hhit : Stable s (s.watchHit w v src) := by
    unfold State.watchHit
    dsimp only
    split
    · exact ((modWatch ..).trans (post ..)).trans (signal ..)
    · exact modWatch ..
  unfold State.occurrence
  dsimp only
  split
  · have h := hhit.trans (modWatch (s.watchHit w v src) w fun p => p.seen v)
    generalize (if (s.watch w).action.stops = true then s.watchRequest w else none) = q
    cases q with
    | none => exact h
    | some r =>
      dsimp only
      split
      · exact h
      · exact h.trans (takeLate ..)
  · exact modWatch s w fun p => p.seen v

/-- A run of occurrences over the watch points. -/
theorem points (a : Watched) (n : NodeId) (src : OccurrenceSource) (values : List (WatchField × Int)) (change : ChangeStop)
    (skip : Option WatchId) : Stable a.state (a.points n src values change skip).state := by
  have hpoint : ∀ (a : Watched) (w : WatchId), Stable a.state (a.point n src values change w).state := by
    intro a w
    unfold Watched.point
    dsimp only
    split
    · split
      · exact refl _
      · exact occurrence ..
    · exact refl _
  unfold Watched.points
  generalize watchIds = ws
  induction ws generalizing a with
  | nil => exact refl _
  | cons w ws ih =>
    rw [List.foldl_cons]
    refine Stable.trans ?_ (ih _)
    split
    · exact refl _
    · exact hpoint a w

/-- A feedback value and the work that follows it. -/
theorem takeFeedback (s : State) (n : NodeId) (raw load : Int) (status : BitVec 5) (src : FeedbackSource) :
    Stable s (s.takeFeedback n raw load status src) := by
  unfold State.takeFeedback State.afterFeedback State.feedbackSeen
  dsimp only
  refine Stable.trans (modDrive s n (fun d => d.take raw load status s.cycle src) fun _ => ⟨rfl, rfl⟩) ?_
  refine Stable.trans ?_ (points _ _ _ _ _ _)
  dsimp only
  split
  · exact refl _
  · split
    · exact (faultCondition ..).trans (completeSet ..)
    · exact completeSet ..

/-- The close of one section's set. -/
theorem closeSet (c : Word16) (s : State) (i : SecId) : Stable s (s.closeSet c i) := by
  have hcount : ∀ t : State, Stable t (t.countMissing i) := by
    intro t
    unfold State.countMissing
    exact foldl _ (fun u r => modDrive u _ _ (by intro; exact ⟨rfl, rfl⟩)) _ _
  unfold State.closeSet
  split
  · exact refl s
  · dsimp only
    have h1 : Stable s (if (!(s.sec i).evaluated) = true then s.evaluateSet i c (s.allFresh i) else s) := by
      split
      · exact evaluateSet ..
      · exact refl s
    have h2 := h1.trans (hcount _)
    generalize State.countMissing (if (!(s.sec i).evaluated) = true then s.evaluateSet i c (s.allFresh i) else s) i = u at h2
    have h3 : Stable s (match u.lostMember i with
        | some r => u.faultCondition i .feedbackLost (u.member r).node (u.member r).position
        | none => u) := by
      split
      · exact h2.trans (faultCondition ..)
      · exact h2
    split
    · exact h3.trans (engineSkip ..)
    · exact h3

/-- The line reference step of one section. -/
theorem lineStep (entries : List Entry) (s : State) (i : SecId) : Stable s (s.lineStep entries i) := by
  unfold State.lineStep
  split
  · exact refl s
  · split
    · exact modSec _ _ _ (by intro; rfl) (by intro; rfl) (by intro; rfl)
    · unfold State.missLine
      dsimp only
      split
      · exact (modSec s i _ (by intro; rfl) (by intro; rfl) (by intro; rfl)).trans (faultCondition ..)
      · exact modSec _ _ _ (by intro; rfl) (by intro; rfl) (by intro; rfl)

/-- The profile work of one section. -/
theorem advanceProfile (s : State) (i : SecId) : Stable s (s.advanceProfile i).state := by
  have hnext : ∀ (t : State) (idx pass : Nat) (p : Int), Stable t (t.nextSegment i idx pass p).state :=
    fun t _ _ _ => by unfold State.nextSegment; dsimp only; exact modProfile ..
  have hprofile : ∀ (t : State) (p : Int), Stable t (t.endProfile i p).state := by
    intro t p
    unfold State.endProfile State.postProfileEnd
    dsimp only
    split <;> (try dsimp only)
    · exact (modProfile ..).trans (post ..)
    · exact (post ..).trans (hnext ..)
    · exact (modProfile ..).trans (post ..)
  have hsegment : ∀ t : State, Stable t (t.endSegment i).state := by
    intro t
    unfold State.endSegment State.signalBoundary
    dsimp only
    split
    · exact ((modMonitor ..).trans (signal ..)).trans (hnext ..)
    · split
      · exact ((modMonitor ..).trans (signal ..)).trans (hnext ..)
      · exact ((modMonitor ..).trans (signal ..)).trans (hprofile ..)
  unfold State.advanceProfile
  split
  · exact refl s
  · split
    · unfold State.gatedAdvance
      dsimp only
      split
      · dsimp only
        exact (modProfile ..).trans (modProfile ..)
      · exact (modProfile ..).trans (hsegment _)
    · unfold State.gateClosed
      dsimp only
      exact modProfile ..

/-- The references of one section. -/
theorem takeSection (entries : List Entry) (a : Formed) (i : SecId) : Stable a.state (Formed.takeSection entries a i).state := by
  have hissue : ∀ (t : State) (cs : List Candidate), Stable t (t.issueAll i cs) := by
    intro t cs
    unfold State.issueAll
    refine foldl _ (fun u c => ?_) _ _
    unfold State.issue
    dsimp only
    split
    · exact (modRec u _ _ (by intro; exact ⟨rfl, rfl, rfl, rfl, rfl⟩)).trans (post ..)
    · exact modRec u _ _ (by intro; exact ⟨rfl, rfl, rfl, rfl, rfl⟩)
  have hbase : ∀ t : State, Stable t (t.setIssueBase i) := fun t =>
    modSec t i _ (by intro; rfl) (by intro; rfl) (by intro; rfl)
  have hline : ∀ t : State, Stable t (t.recordLine entries i) := by
    intro t
    unfold State.recordLine
    refine foldl _ (fun u r => ?_) _ _
    split
    · exact modRec u _ _ (by intro; exact ⟨rfl, rfl, rfl, rfl, rfl⟩)
    · exact refl u
  have htrial : ∀ t : State, Stable t (t.formTrial entries i).1 := by
    intro t
    unfold State.formTrial
    dsimp only
    split
    · dsimp only
      exact (hissue ..).trans (modSec _ _ _ (by intro; rfl) (by intro; rfl) (by intro; rfl))
    · refine Stable.trans ?_ (hissue ..)
      unfold State.takeIssuedStop State.watchHit
      dsimp only
      split
      · exact ((((modWatch ..).trans (post ..)).trans (signal ..)).trans (modWatch ..)).trans (requestFreeze ..)
      · exact ((modWatch ..).trans (modWatch ..)).trans (requestFreeze ..)
  unfold Formed.takeSection
  dsimp only
  split
  · exact (htrial _).trans (hbase _)
  · exact (hissue ..).trans (hbase _)
  · have hdecay : Stable a.state (a.state.decayOffsets i) := by
      unfold State.decayOffsets
      exact modMembers _ i _ (by intro; exact ⟨rfl, rfl, rfl, rfl, rfl⟩)
    have hend : ∀ t : State, Stable t (t.endRelease i) := by
      intro t
      unfold State.endRelease
      split
      · exact enterPassing ..
      · exact refl _
    exact ((hdecay.trans (hissue _ _)).trans (hbase _)).trans (hend _)
  · exact (hissue ..).trans (hbase _)
  all_goals exact (hline _).trans (hbase _)

/-- The line-override check of one section. -/
theorem overrideStep (entries : List Entry) (s : State) (i : SecId) : Stable s (s.overrideStep entries i) := by
  unfold State.overrideStep
  split
  · split
    · exact enterPassing ..
    · exact refl s
  · exact refl s

/-- The LINE occurrences of one entry. -/
theorem lineEntry (a : Watched) (e : Entry) : Stable a.state (a.lineEntry e).state := by
  unfold Watched.lineEntry
  split
  · exact refl _
  · exact points ..

/-- The ISSUED occurrences of one entry. -/
theorem issuedEntry (skips : List (WatchId × Nat)) (a : Watched) (p : Entry × Nat) : Stable a.state (a.issuedEntry skips p).state := by
  unfold Watched.issuedEntry
  split
  · exact refl _
  · exact points ..

end Stable

end Sys2Proof.Machine
end

