-- ==== Sys2Proof/Laws/Work.lean ====
section
/-! SUPPORT. What the work of the units does: the events of an entry to a state, the computation and writing of a
calibration, the work after a feedback value, triggers, written capture records, issued references, the stop test and the frame that the upstream port sends. -/

namespace Sys2Proof.Machine

/-- Writing calibration values changes the Drive Map alone. -/
theorem State.writeCal_frame (s : State) (vs : List CalValues) : s.writeCal vs = { s with drives := (s.writeCal vs).drives } := by
  unfold State.writeCal
  induction vs generalizing s with
  | nil => rfl
  | cons v vs ih => simp only [List.foldl_cons]; rw [ih]; rfl

/-- Writing calibration values leaves the entry of a node that none of them names. -/
theorem State.drive_writeCal_other (n : NodeId) (vs : List CalValues) : ∀ s : State, (∀ v ∈ vs, v.node ≠ n) →
    (s.writeCal vs).drive n = s.drive n := by
  unfold State.writeCal
  induction vs with
  | nil => intros; rfl
  | cons v vs ih =>
    intro s h
    simp only [List.foldl_cons]
    rw [ih _ (fun w hw => h w (List.mem_cons_of_mem _ hw)), State.drive_modDrive, if_neg]
    exact fun e => h v List.mem_cons_self e.symm

/-- Writing calibration values for nodes that differ writes each value's gain and offset into its node's entry (R93). -/
theorem State.drive_writeCal_mem (vs : List CalValues) : ∀ s : State, (vs.map CalValues.node).Nodup → ∀ v ∈ vs,
    (s.writeCal vs).drive v.node = { s.drive v.node with gain := v.gain, offset := v.offset } := by
  induction vs with
  | nil => intro s _ v hv; cases hv
  | cons w vs ih =>
    intro s hn v hv
    rw [List.map_cons, List.nodup_cons] at hn
    have hs : s.writeCal (w :: vs) = (s.modDrive w.node fun d => { d with gain := w.gain, offset := w.offset }).writeCal vs := rfl
    rw [hs]
    rcases List.mem_cons.1 hv with h | h
    · subst h
      rw [State.drive_writeCal_other, State.drive_modDrive, if_pos rfl]
      intro u hu e; exact hn.1 (e ▸ List.mem_map_of_mem hu)
    · rw [ih _ hn.2 v h, State.drive_modDrive, if_neg]
      intro e; exact hn.1 (e ▸ List.mem_map_of_mem h)

/-- The values computed for followers name the followers' nodes in order (R92). -/
theorem State.followersCal_nodes (s : State) (n yl yh : Int) : ∀ (rs : List RecId) (j : Nat) (vs : List CalValues),
    s.followersCal n yl yh rs j = .ok vs → vs.map CalValues.node = rs.map s.memberNode := by
  intro rs
  induction rs with
  | nil => intro j vs h; simp only [State.followersCal] at h; cases h; rfl
  | cons r rs ih =>
    intro j vs h
    simp only [State.followersCal] at h
    split at h
    · cases h
    · rename_i v hv
      split at h
      · cases h
      · rename_i us hu
        cases h
        simp only [List.map_cons]
        rw [ih _ _ hu]
        congr 1
        unfold followerCal at hv
        dsimp only at hv
        repeat' split at hv
        all_goals first | cases hv; rfl | cases hv

/-- The events after a CAL_RESULT depend on the Event Queue, the next sequence number and the cycle number alone. -/
theorem State.postCalResult_congr {s t : State} (he : s.events = t.events) (hn : s.nextSequence = t.nextSequence)
    (hc : s.cycle = t.cycle) (i : SecId) (r : CalResult) : (s.postCalResult i r).events = (t.postCalResult i r).events ∧
      (s.postCalResult i r).nextSequence = (t.postCalResult i r).nextSequence := by
  cases r <;> (simp only [State.postCalResult, hc]; exact State.post_congr he hn ..)

/-- The events after section i gave up the engine. -/
theorem State.freeEngine_events {s t : State} (he : s.events = t.events) (hn : s.nextSequence = t.nextSequence)
    (hc : s.cycle = t.cycle) (hh : s.engine = t.engine) (i : SecId) (r : CalResult) :
    (s.freeEngine i r).events = (if t.engine.holder = some i then t.postCalResult i r else t).events ∧
      (s.freeEngine i r).nextSequence = (if t.engine.holder = some i then t.postCalResult i r else t).nextSequence := by
  unfold State.freeEngine
  rw [hh]
  split
  · exact State.postCalResult_congr he hn hc i r
  · exact ⟨he, hn⟩

/-- Giving up the engine leaves the cycle number. -/
theorem State.freeEngine_cycle (s : State) (i : SecId) (r : CalResult) : (s.freeEngine i r).cycle = s.cycle := by
  rw [State.freeEngine_frame]

/-- The events of an entry to RELEASING: CAL_RESULT where the section holds the engine, then STATE_CHANGE (R26, R94). -/
theorem State.enterReleasing_events (s : State) (i : SecId) (tg : ReleaseTarget) (c : Cause) (r : CalResult)
    (n : Option NodeId) (p : Option Pos) :
    let u := if s.engine.holder = some i then s.postCalResult i r else s
    (s.enterReleasing i tg c r n p).events = (u.post .stateChange (some i) n p s.cycle (some (5:Int)) c.code).events ∧
    (s.enterReleasing i tg c r n p).nextSequence =
      (u.post .stateChange (some i) n p s.cycle (some (5:Int)) c.code).nextSequence := by
  have h := State.freeEngine_events (s := s.formOffsets i) (t := s) (by simp [State.formOffsets]) (by simp [State.formOffsets])
    (by simp [State.formOffsets]) (by simp [State.formOffsets]) i r
  have hc : ((s.formOffsets i).freeEngine i r).cycle = s.cycle := by rw [State.freeEngine_cycle]; simp [State.formOffsets]
  have := State.post_congr (s := ((s.formOffsets i).freeEngine i r).modSec i fun x => { x with
    state := .releasing, releaseTarget := some tg, startPending := false, profile := { x.profile with stepPending := false } })
    h.1 h.2 .stateChange (some i) n p s.cycle (some (5:Int)) c.code
  unfold State.enterReleasing State.postStateChange
  show ((((s.formOffsets i).freeEngine i r).modSec i _).post _ _ _ _ ((s.formOffsets i).freeEngine i r).cycle _ _).events = _ ∧
    ((((s.formOffsets i).freeEngine i r).modSec i _).post _ _ _ _ ((s.formOffsets i).freeEngine i r).cycle _ _).nextSequence = _
  rw [hc]; exact this

/-- The events of an entry to BYPASS, SELECTED or FAULTED: CAL_RESULT where the section holds the engine, then STATE_CHANGE (R25,
R94). -/
theorem State.enterPassing_events (s : State) (i : SecId) (st : SectionState) (c : Cause) (n : Option NodeId) (p : Option Pos) :
    let u := if s.engine.holder = some i then s.postCalResult i (.abandoned c.abandon) else s
    (s.enterPassing i st c n p).events = (u.post .stateChange (some i) n p s.cycle (some (st.code : Int)) c.code).events ∧
    (s.enterPassing i st c n p).nextSequence =
      (u.post .stateChange (some i) n p s.cycle (some (st.code : Int)) c.code).nextSequence := by
  have h := State.freeEngine_events (s := s.modMembers i PoolRecord.dropped) (t := s) (by simp) (by simp) (by simp) (by simp) i
    (.abandoned c.abandon)
  have hc : ((s.modMembers i PoolRecord.dropped).freeEngine i (.abandoned c.abandon)).cycle = s.cycle := by
    rw [State.freeEngine_cycle]; simp
  have := State.post_congr (s := ((s.modMembers i PoolRecord.dropped).freeEngine i (.abandoned c.abandon)).modSec i
      fun x => { x with
    state := st, faultCode := if st = .faulted then some c else none, releaseTarget := none, startPending := false
    profile := { x.profile with stepPending := false } })
    h.1 h.2 .stateChange (some i) n p s.cycle (some (st.code : Int)) c.code
  unfold State.enterPassing State.postStateChange
  show ((((s.modMembers i PoolRecord.dropped).freeEngine i (.abandoned c.abandon)).modSec i _).post _ _ _ _
      ((s.modMembers i PoolRecord.dropped).freeEngine i (.abandoned c.abandon)).cycle _ _).events = _ ∧
    ((((s.modMembers i PoolRecord.dropped).freeEngine i (.abandoned c.abandon)).modSec i _).post _ _ _ _
      ((s.modMembers i PoolRecord.dropped).freeEngine i (.abandoned c.abandon)).cycle _ _).nextSequence = _
  rw [hc]; exact this

/-- The states whose sections can fault and whose sets are handed on are all but BYPASS and FAULTED. -/
theorem SectionState.monitored_iff (st : SectionState) : st.monitored = true ↔ st ≠ .bypass ∧ st ≠ .faulted := by
  cases st <;> decide

/-- Entry to BYPASS, SELECTED or FAULTED, in the words of the statements (R24, R25). -/
theorem EntersPassing.of_enterPassing (s : State) (i : SecId) (st : SectionState) (c : Cause) (n : Option NodeId) (p : Option Pos) :
    EntersPassing s (s.enterPassing i st c n p) i st (if st = .faulted then some c else none) st.code c.code c.abandon.code n p := by
  have hc : (if s.engine.holder = some i then s.postCalResult i (.abandoned c.abandon) else s).cycle = s.cycle := by
    split
    · simp only [State.postCalResult]; rw [State.post_frame]
    · rfl
  obtain ⟨h1, h2, h3, h4, h5⟩ := State.enterPassing_spec s i st c n p
  refine ⟨h2, h3, fun r hr => ?_, fun r hr => ?_, h5, ?_, h1⟩
  · rw [h4, if_pos hr]; rfl
  · rw [h4, if_neg hr]
  · have := State.enterPassing_events s i st c n p
    unfold Posted
    simp only [State.postCalResult] at this hc
    rw [hc]; exact this

/-- Entry to FROZEN, in the words of the statements (R26, R44). -/
theorem EntersFrozen.of_enterFrozen (s : State) (i : SecId) (c : Cause) (src : Option Nat) (n : Option NodeId) (p : Option Pos) :
    EntersFrozen s (s.enterFrozen i c src n p) i c src c.code n p := by
  obtain ⟨h1, h2, h3, h4, h5, h6⟩ := State.enterFrozen_spec s i c src n p
  refine ⟨h2, h3, fun r hr => ?_, fun r hr => ?_, h6, ?_⟩
  · rw [h4, if_pos hr]; rfl
  · rw [h4, if_neg hr]
  · refine h1.trans ?_; rw [h5]

/-- Entry to RELEASING by a request, in the words of the statements (R24, R26). -/
theorem EntersReleasing.of_enterReleasing (s : State) (i : SecId) (tg : ReleaseTarget) (c : Cause) (n : Option NodeId)
    (p : Option Pos) :
    EntersReleasing s (s.enterReleasing i tg c (.abandoned c.abandon) n p) i tg c.code c.abandon.code n p := by
  have hc : (if s.engine.holder = some i then s.postCalResult i (.abandoned c.abandon) else s).cycle = s.cycle := by
    split
    · simp only [State.postCalResult]; rw [State.post_frame]
    · rfl
  obtain ⟨h1, h2, h3, h4, h5⟩ := State.enterReleasing_spec s i tg c (.abandoned c.abandon) n p
  refine ⟨h2, h3, fun r hr => ?_, fun r hr => ?_, h5, ?_, h1⟩
  · rw [h4, if_pos hr]; rfl
  · rw [h4, if_neg hr]
  · have := State.enterReleasing_events s i tg c (.abandoned c.abandon) n p
    unfold Posted
    simp only [State.postCalResult] at this hc
    rw [hc]; exact this

/-- What an action's request does (R44, R45, R46, R121). -/
theorem State.requestAction_spec (s : State) (i : SecId) (a : LimitAction) (c : Cause) (src : Option Nat) (n : Option NodeId)
    (p : Option Pos) :
    let t := s.requestAction i a c src n p
    (a = .event → t = s) ∧
    (a = .freeze → (s.sec i).state = .trial → EntersFrozen s t i c src c.code n p) ∧
    (a = .freeze → (s.sec i).state ≠ .trial → t = s) ∧
    (a = .release → (s.sec i).state = .trial ∨ (s.sec i).state = .frozen →
      EntersReleasing s t i .selected c.code c.abandon.code n p) ∧
    (a = .release → (s.sec i).state ≠ .trial → (s.sec i).state ≠ .frozen → t = s) ∧
    (a = .abort → (s.sec i).state.rewriting = true → EntersPassing s t i .bypass none 0 10 0 none none) ∧
    (a = .abort → (s.sec i).state.rewriting = false → t = s) := by
  intro t
  refine ⟨?_, ?_, ?_, ?_, ?_, ?_, ?_⟩ <;> rintro rfl <;> (try intro h) <;>
    simp only [t, State.requestAction, State.requestFreeze, State.requestRelease, State.requestAbort]
  · rw [if_pos h]; exact EntersFrozen.of_enterFrozen ..
  · rw [if_neg h]
  · rw [if_pos h]; exact EntersReleasing.of_enterReleasing ..
  · intro h2; rw [if_neg (not_or.2 ⟨h, h2⟩)]
  · rw [if_pos h]; exact EntersPassing.of_enterPassing s i .bypass .monitorAbort none none
  · rw [if_neg (by rw [h]; decide)]

/-- The nodes of a section's members differ (R9). -/
theorem MembersConsistent.nodup_nodes {s : State} (hm : MembersConsistent s) (i : SecId) :
    ((s.members i).map s.memberNode).Nodup := by
  have h := (hm.1 i).2
  have : (s.members i).map (fun r => (s.member r).node) = (s.members i).map (fun r => some (s.memberNode r)) := by
    apply List.map_congr_left
    intro r hr
    obtain ⟨k, hk⟩ := List.getElem?_of_mem hr
    obtain ⟨_, _, _, n, hn, _⟩ := hm.2.1 i k r hk
    simp [State.memberNode, hn]
  rw [this] at h
  have h2 : ((s.members i).map s.memberNode).map some = (s.members i).map fun r => some (s.memberNode r) := by simp
  rw [← h2] at h
  exact List.Nodup.of_map _ h

/-- The first follower that fails gives the result of the calibration (R92). -/
theorem State.followersCal_error (s : State) (n yl yh : Int) (why : CalResult) (f : Nat → RecId → Except CalResult CalValues)
    (hf : ∀ j r, f j r = followerCal (s.memberNode r) (s.member r).position (roundDiv (s.engine.followerLow.toList.getD j 0) n)
      (roundDiv (s.engine.followerHigh.toList.getD j 0) n) yl yh) :
    ∀ (rs : List RecId) (b j : Nat) (r : RecId), rs[j]? = some r → f (b + j) r = .error why →
      (∀ j' r', j' < j → rs[j']? = some r' → ∃ v, f (b + j') r' = .ok v) → s.followersCal n yl yh rs b = .error why := by
  intro rs
  induction rs with
  | nil => intro b j r h; simp at h
  | cons q rs ih =>
    intro b j r h he hok
    unfold State.followersCal
    dsimp only
    rw [← hf]
    cases j with
    | zero => simp at h; subst h; simp at he; rw [he]
    | succ j =>
      obtain ⟨v, hv⟩ := hok 0 q (by omega) rfl
      simp at hv; rw [hv]
      simp at h
      rw [ih (b+1) j r h (by rw [← he]; congr 1; omega) (fun j' r' hj hr => by
        obtain ⟨v, hv⟩ := hok (j'+1) r' (by omega) (by simpa using hr)
        exact ⟨v, by rw [← hv]; congr 1; omega⟩)]

/-- Where every follower has its values, the calibration gives just these (R92). -/
theorem State.followersCal_ok (s : State) (n yl yh : Int) (f : Nat → RecId → Except CalResult CalValues)
    (hf : ∀ j r, f j r = followerCal (s.memberNode r) (s.member r).position (roundDiv (s.engine.followerLow.toList.getD j 0) n)
      (roundDiv (s.engine.followerHigh.toList.getD j 0) n) yl yh) :
    ∀ (rs : List RecId) (b : Nat) (vs : List CalValues), vs.length = rs.length →
      (∀ j r, rs[j]? = some r → ∃ v, vs[j]? = some v ∧ f (b + j) r = .ok v) → s.followersCal n yl yh rs b = .ok vs := by
  intro rs
  induction rs with
  | nil => intro b vs h _; simp at h; subst h; rfl
  | cons q rs ih =>
    intro b vs h hok
    cases vs with
    | nil => simp at h
    | cons v vs =>
    unfold State.followersCal
    dsimp only
    rw [← hf]
    obtain ⟨w, hw, hv⟩ := hok 0 q rfl
    simp at hv hw; subst hw; rw [hv]
    dsimp only
    rw [ih (b+1) vs (by simpa using h) (fun j r hr => by
        obtain ⟨v, h1, hv⟩ := hok (j+1) r (by simpa using hr)
        exact ⟨v, by simpa using h1, by rw [← hv]; congr 1; omega⟩)]

/-- The direction sign times a value is the value with the direction applied (spec 3.3). -/
theorem Direction.sign_mul (d : Direction) (v : Int) : d.sign * v = d.apply v := by
  cases d <;> simp [Direction.sign, Direction.apply]

/-- A byte names node n exactly where it is n's number. -/
theorem nodeOf_eq_some (k : Nat) (n : NodeId) : nodeOf k = some n ↔ k = n.val + 1 := by
  unfold nodeOf
  constructor
  · intro h; split at h
    · cases h; simp; omega
    · cases h
  · rintro rfl; rw [dif_pos (by omega)]; simp

/-- The first entry of a node is the first that carries its number. -/
theorem firstEntry_eq (es : List Entry) (n : NodeId) : firstEntry es n = es.find? (fun e => e.node.toNat = n.val + 1) := by
  unfold firstEntry; congr 1; funext e; simp only [nodeOf_eq_some]

/-- Two clamps one after the other: the value, and the mark of the clamp that acted last (R53, R54). -/
theorem absoluteClamp_clamp (lo hi A v : Int) : absoluteClamp A (Marked.clamp lo hi ⟨v, .none⟩) =
    ⟨clampTo (-A) A (clampTo lo hi v),
      if clampTo lo hi v < -A then .low else if A < clampTo lo hi v then .high
      else if v < lo then .low else if hi < v then .high else .none⟩ := by
  unfold absoluteClamp Marked.clamp clampTo
  by_cases c1 : v < lo
  · simp only [c1, if_true]
    by_cases c2 : lo < -A
    · simp [c2]
    · by_cases c3 : A < lo <;> simp [c2, c3]
  · by_cases c4 : hi < v
    · simp only [c1, c4, if_true, if_false]
      by_cases c2 : hi < -A
      · simp [c2]
      · by_cases c3 : A < hi <;> simp [c2, c3]
    · simp only [c1, c4, if_false]
      by_cases c2 : v < -A
      · simp [c2]
      · by_cases c3 : A < v <;> simp [c2, c3]

/-- A member names its node, whose entry names the section, and is the record of that node (R9, R10). -/
theorem MembersConsistent.facts {s : State} (hm : MembersConsistent s) {i : SecId} {r : RecId} (h : r ∈ s.members i) :
    (s.member r).node = some (s.memberNode r) ∧ (s.drive (s.memberNode r)).inSection = some i ∧
      s.recordOf (s.memberNode r) = some r := by
  obtain ⟨k, hk⟩ := List.getElem?_of_mem h
  obtain ⟨_, _, _, m, hm1, hm2⟩ := hm.2.1 i k r hk
  have hn : s.memberNode r = m := by simp [State.memberNode, hm1]
  rw [hn]
  refine ⟨hm1, hm2, ?_⟩
  unfold State.recordOf; rw [hm2]; dsimp only
  rw [List.find?_eq_some_iff_getElem]
  refine ⟨by simpa using hm1, k, (List.getElem?_eq_some_iff.1 hk).1, (List.getElem?_eq_some_iff.1 hk).2, ?_⟩
  intro j hj
  have hnd := (hm.1 i).2
  simp only [Bool.not_eq_true', decide_eq_false_iff_not]
  intro he
  have hkl := (List.getElem?_eq_some_iff.1 hk).1
  have h1 : ((s.members i).map fun r => (s.member r).node)[j]'(by simp; omega) =
      ((s.members i).map fun r => (s.member r).node)[k]'(by simpa using hkl) := by
    simp only [List.getElem_map]; rw [he, (List.getElem?_eq_some_iff.1 hk).2, hm1]
  have := (List.Nodup.getElem_inj_iff hnd).1 h1
  omega

/-- The evaluation of a set, in the words of the statements (R82, R83). -/
theorem SetEvaluated.of_evaluateSet (s : State) (i : SecId) (c : Word16) (complete : Bool) :
    SetEvaluated s (s.evaluateSet i c complete) i c complete := by
  unfold SetEvaluated State.evaluateSet
  dsimp only
  have : ((s.modSec i fun x => { x with
      evaluated := true
      lastSet := some ⟨c, complete, if complete then none else s.firstStale i⟩ }).sec i).state = (s.sec i).state := by
    rw [State.sec_modSec_self]
  constructor
  · intro h
    rw [if_neg]; rfl
    rw [this, SectionState.monitored_iff]; rintro ⟨a, b⟩; rcases h with h | h <;> contradiction
  · intro h1 h2
    rw [if_pos]; rfl
    rw [this, SectionState.monitored_iff]; exact ⟨h1, h2⟩

/-- A change of the Drive Map entries of records whose nodes differ: theirs are changed once each, and nothing else is. -/
theorem State.modNodes_spec (f : DriveEntry → DriveEntry) : ∀ (rs : List RecId) (s : State), (rs.map s.memberNode).Nodup →
    let t := rs.foldl (fun t r => t.modDrive (t.memberNode r) f) s
    t = { s with drives := t.drives } ∧ (∀ r ∈ rs, t.drive (s.memberNode r) = f (s.drive (s.memberNode r))) ∧
    ∀ n, (∀ r ∈ rs, s.memberNode r ≠ n) → t.drive n = s.drive n
  | [], s, _ => ⟨rfl, by simp, fun _ _ => rfl⟩
  | r :: rs, s, h => by
    simp only [List.map_cons, List.nodup_cons, List.mem_map, not_exists, not_and] at h
    obtain ⟨h1, h2, h3⟩ := State.modNodes_spec f rs (s.modDrive (s.memberNode r) f) h.2
    dsimp only [List.foldl_cons]
    refine ⟨?_, ?_, ?_⟩
    · rw [h1]; rfl
    · intro q hq
      rcases List.mem_cons.1 hq with rfl | hq
      · rw [h3]
        · rw [State.drive_modDrive, if_pos rfl]
        · intro p hp; exact h.1 p hp
      · have := h2 q hq
        change _ = f ((s.modDrive (s.memberNode r) f).drive (s.memberNode q)) at this
        rw [State.drive_modDrive, if_neg (h.1 q hq)] at this
        exact this
    · intro n hn
      rw [h3 n fun q hq => hn q (List.mem_cons_of_mem _ hq), State.drive_modDrive, if_neg]
      exact fun e => hn r List.mem_cons_self e.symm

/-- The work that follows a feedback value, in the words of the statements (R41, R81, R82). -/
theorem FeedbackFollowed.of_afterFeedback (s : State) (n : NodeId) (src : OccurrenceSource) : FeedbackFollowed s (s.afterFeedback n src) n src := by
  let u := match (s.drive n).inSection with
    | none => s
    | some i => if statusFault (s.drive n).feedback.status then s.faultCondition i .driveFault (some n) (s.positionOf n) else s
  let v := match (s.drive n).inSection with
    | none => s
    | some i => u.completeSet i
  refine ⟨u, v, ?_, ?_, ?_⟩
  · intro h; simp only [v]; rw [h]
  · intro i h faults completes
    have hu : u = if statusFault (s.drive n).feedback.status then s.faultCondition i .driveFault (some n) (s.positionOf n) else s := by
      simp only [u]; rw [h]
    have hv : v = u.completeSet i := by simp only [v]; rw [h]
    refine ⟨?_, ?_, ?_, ?_⟩
    · intro hf; rw [hu, if_pos (show statusFault _ = true from hf.1)]; unfold State.faultCondition; rw [if_pos ((SectionState.monitored_iff _).2 hf.2)]
      exact EntersPassing.of_enterPassing s i .faulted .driveFault _ _
    · intro hf; rw [hu]; split
      · rename_i h1; unfold State.faultCondition; rw [if_neg]; intro h2; exact hf ⟨h1, (SectionState.monitored_iff _).1 h2⟩
      · rfl
    · intro hc; rw [hv]; unfold State.completeSet
      have : u.allFresh i = true := by unfold State.allFresh; rw [List.all_eq_true]; exact hc.2
      rw [if_neg (by rw [hc.1]; decide), if_pos this]
      have hcy : u.cycle = s.cycle := by
        rw [hu]; split
        · exact (by unfold State.faultCondition; split <;> [rw [(State.enterPassing_spec ..).1]; rfl])
        · rfl
      rw [hcy]; exact SetEvaluated.of_evaluateSet ..
    · intro hc; rw [hv]; unfold State.completeSet
      split
      · rfl
      · rename_i h1; rw [if_neg]; intro h2; unfold State.allFresh at h2; rw [List.all_eq_true] at h2
        exact hc ⟨by simpa using h1, h2⟩
  · unfold State.afterFeedback; simp only [v, u]; congr 1; split <;> rename_i h <;> simp [h]

/-- A member list holds no record twice (R9). -/
theorem MembersConsistent.nodup {s : State} (hm : MembersConsistent s) (i : SecId) : (s.members i).Nodup :=
  List.Nodup.of_map _ (hm.1 i).2

/-- A trigger signal changes the capture control, the Event Queue and the next sequence number alone (R147). -/
theorem State.signal_frame (s : State) (k : TriggerKind) (x : Nat) : s.signal k x =
    { s with capture := (s.signal k x).capture, events := (s.signal k x).events, nextSequence := (s.signal k x).nextSequence } := by
  unfold State.signal; exact State.takeTrigger_frame s k x

/-- What a trigger signal does depends on the capture control, the Event Queue, the next sequence number and the cycle number
alone. -/
theorem State.signal_congr {s t : State} (he : s.events = t.events) (hn : s.nextSequence = t.nextSequence)
    (hc : s.cycle = t.cycle) (hp : s.capture = t.capture) (k : TriggerKind) (x : Nat) :
    (s.signal k x).events = (t.signal k x).events ∧ (s.signal k x).nextSequence = (t.signal k x).nextSequence ∧
      (s.signal k x).capture = (t.signal k x).capture := by
  unfold State.signal State.takeTrigger
  rw [hp]
  split
  · split
    · refine ⟨he, hn, ?_⟩; simp [State.modCapture, hp]
    · split
      · have := State.post_congr (s := s.modCapture fun c => { c with state := .done })
            (t := t.modCapture fun c => { c with state := .done }) he hn .captureDone none none none s.cycle
            (some (s.capture.recordCount : Int)) 1
        refine ⟨?_, ?_, ?_⟩
        · rw [hp, hc] at this; unfold State.captureDone; rw [hp, hc]; exact this.1
        · rw [hp, hc] at this; unfold State.captureDone; rw [hp, hc]; exact this.2
        · unfold State.captureDone; simp [State.modCapture, hp]
      · refine ⟨he, hn, ?_⟩; simp [State.modCapture, hp]
    · exact ⟨he, hn, hp⟩
  · exact ⟨he, hn, hp⟩

/-- The entry to DONE with its event (R150), beside a state t that agrees on events and cycle number. -/
theorem State.captureDone_spec (s t : State) (he : s.events = t.events) (hn : s.nextSequence = t.nextSequence)
    (hc : s.cycle = t.cycle) (d : Nat) :
    let u := t.post .captureDone none none none t.cycle (some (s.capture.recordCount : Int)) d
    (s.captureDone d).capture = { s.capture with state := .done } ∧ (s.captureDone d).events = u.events ∧
      (s.captureDone d).nextSequence = u.nextSequence ∧
      s.captureDone d = { s with
        capture := (s.captureDone d).capture, events := (s.captureDone d).events
        nextSequence := (s.captureDone d).nextSequence } := by
  unfold State.captureDone
  refine ⟨?_, ?_, ?_, ?_⟩
  · rw [State.post_frame]; rfl
  · rw [hc]; exact (State.post_congr (s := s.modCapture fun c => { c with state := .done }) (t := t) he hn ..).1
  · rw [hc]; exact (State.post_congr (s := s.modCapture fun c => { c with state := .done }) (t := t) he hn ..).2
  · rw [State.post_frame]; rfl

/-- A written record changes the buffer, the record count, the write index and the wrapped flag alone (R142). -/
theorem State.writeRecord_control (s : State) (r : CaptureRecord) :
    let w := s.writeRecord r
    w = { s with
      buffer := w.buffer
      capture := { s.capture with
        recordCount := w.capture.recordCount, writeIndex := w.capture.writeIndex, wrapped := w.capture.wrapped } } := by
  unfold State.writeRecord; dsimp only; split
  · rfl
  · split <;> rfl

/-- Written records change the buffer, the record count, the write index and the wrapped flag alone (R142). -/
theorem State.writeRecords_control (rs : List CaptureRecord) : ∀ s : State, let w := rs.foldl State.writeRecord s
    w = { s with
      buffer := w.buffer
      capture := { s.capture with
        recordCount := w.capture.recordCount, writeIndex := w.capture.writeIndex, wrapped := w.capture.wrapped } } := by
  induction rs with
  | nil => intro s; rfl
  | cons r rs ih =>
    intro s w
    have h1 := ih (s.writeRecord r)
    have h2 := State.writeRecord_control s r
    simp only [w, List.foldl_cons]
    generalize rs.foldl State.writeRecord (s.writeRecord r) = z at *
    rw [h1, h2]

/-- A member whose value none exceeds and none before it reaches is the one named (R118). -/
theorem largest_first (f : RecId → Int) : ∀ (rs : List RecId) (k : Nat) (r : RecId), rs[k]? = some r →
   (∀ (j : Nat) (q : RecId), rs[j]? = some q → f q ≤ f r ∧ (j < k → f q < f r)) → largest f rs = some (r, f r) := by
  intro rs
  induction rs with
  | nil => intro k r h; simp at h
  | cons a rs ih =>
    intro k r hk h
    cases k with
    | zero =>
      simp at hk; subst hk
      unfold largest
      cases hl : largest f rs with
      | none => rfl
      | some p =>
        obtain ⟨q, v⟩ := p
        have : v ≤ f a := by
          have key : ∀ (rs : List RecId), (∀ q ∈ rs, f q ≤ f a) → ∀ q v, largest f rs = some (q, v) → v ≤ f a := by
            intro rs
            induction rs with
            | nil => intro _ q v h; simp [largest] at h
            | cons b rs ih2 =>
              intro hb q v h
              unfold largest at h
              cases hl2 : largest f rs with
              | none => rw [hl2] at h; simp at h; rw [← h.2]; exact hb b (by simp)
              | some p =>
                obtain ⟨q', v'⟩ := p
                rw [hl2] at h; simp only at h
                have := ih2 (fun q hq => hb q (by simp [hq])) q' v' hl2
                split at h
                · simp at h; rw [← h.2]; exact hb b (by simp)
                · simp at h; omega
          refine key rs ?_ q v hl
          intro q hq
          obtain ⟨j, hj⟩ := List.getElem?_of_mem hq
          exact (h (j+1) q (by simpa using hj)).1
        simp [this]
    | succ k =>
      have := ih k r (by simpa using hk) (fun j q hq => by
        have := h (j+1) q (by simpa using hq)
        exact ⟨this.1, fun hj => this.2 (by omega)⟩)
      unfold largest
      rw [this]
      have h0 := (h 0 a rfl).2 (by omega)
      simp only
      rw [if_neg (by omega)]

/-- An issue changes the member records and the events alone (R54, R55). -/
theorem State.issue_frame (s : State) (i : SecId) (c : Candidate) :
    s.issue i c =
      { s with pool := (s.issue i c).pool, events := (s.issue i c).events, nextSequence := (s.issue i c).nextSequence } := by
  unfold State.issue; dsimp only; split
  · rw [State.post_frame]; rfl
  · rfl

/-- The records after an issue: the candidate's value and mark (R54, R55). -/
theorem State.member_issue (s : State) (i : SecId) (c : Candidate) (q : RecId) :
    (s.issue i c).member q =
      if q = c.record then { s.member q with issued := c.issued.value, clamp := c.issued.mark } else s.member q := by
  have : (s.issue i c).member q =
      (s.modRec c.record fun r => { r with issued := c.issued.value, clamp := c.issued.mark }).member q := by
    unfold State.issue; dsimp only; split
    · simp
    · rfl
  rw [this, State.member_modRec]; split
  · rename_i h; rw [h]
  · rfl

/-- Issues change the member records and the events alone. -/
theorem State.issueAll_frame (i : SecId) (cs : List Candidate) : ∀ s : State,
    s.issueAll i cs = { s with
      pool := (s.issueAll i cs).pool, events := (s.issueAll i cs).events, nextSequence := (s.issueAll i cs).nextSequence } := by
  induction cs with
  | nil => intro s; rfl
  | cons c cs ih =>
    intro s
    have h : s.issueAll i (c :: cs) = (s.issue i c).issueAll i cs := rfl
    rw [h, ih (s.issue i c)]
    have := State.issue_frame s i c
    generalize (s.issue i c).issueAll i cs = z at *
    generalize s.issue i c = y at *
    rw [this]

/-- A record that no candidate names is unchanged. -/
theorem State.member_issueAll_other (i : SecId) (cs : List Candidate) (q : RecId) : ∀ s : State, (∀ c ∈ cs, c.record ≠ q) →
    (s.issueAll i cs).member q = s.member q := by
  induction cs with
  | nil => intro s _; rfl
  | cons c cs ih =>
    intro s h
    show ((s.issue i c).issueAll i cs).member q = _
    rw [ih _ (fun d hd => h d (List.mem_cons_of_mem _ hd)), State.member_issue, if_neg]
    exact fun e => h c List.mem_cons_self e.symm

/-- Each candidate's record holds its value and mark, where no record is named twice. -/
theorem State.member_issueAll (i : SecId) (cs : List Candidate) : ∀ s : State, (cs.map Candidate.record).Nodup → ∀ c ∈ cs,
   (s.issueAll i cs).member c.record = { s.member c.record with issued := c.issued.value, clamp := c.issued.mark } := by
  induction cs with
  | nil => intro s _ c h; cases h
  | cons d cs ih =>
    intro s hn c hc
    rw [List.map_cons, List.nodup_cons] at hn
    show ((s.issue i d).issueAll i cs).member _ = _
    rcases List.mem_cons.1 hc with h | h
    · subst h
      rw [State.member_issueAll_other, State.member_issue, if_pos rfl]
      intro e he hh; exact hn.1 (hh ▸ List.mem_map_of_mem he)
    · rw [ih _ hn.2 c h, State.member_issue, if_neg]
      intro e; exact hn.1 (e ▸ List.mem_map_of_mem h)

/-- The events of issues: CLAMP for each flag that leaves NONE, in order (R55). -/
theorem State.issueAll_events (i : SecId) (cs : List Candidate) : ∀ (s u : State), s.events = u.events →
    s.nextSequence = u.nextSequence → (cs.map Candidate.record).Nodup →
    let v := cs.foldl (fun (v : State) c =>
      if (s.member c.record).clamp = .none ∧ c.issued.mark ≠ .none then
        v.post .clamp (some i) (s.member c.record).node (s.member c.record).position s.cycle (some c.unclamped)
          c.issued.mark.code
      else v) u
    (s.issueAll i cs).events = v.events ∧ (s.issueAll i cs).nextSequence = v.nextSequence := by
  induction cs with
  | nil => intro s u h1 h2 _; exact ⟨h1, h2⟩
  | cons c cs ih =>
    intro s u h1 h2 hn
    rw [List.map_cons, List.nodup_cons] at hn
    have hmem : ∀ d ∈ cs, (s.issue i c).member d.record = s.member d.record := by
      intro d hd; rw [State.member_issue, if_neg]; intro e; exact hn.1 (e ▸ List.mem_map_of_mem hd)
    have hcy : (s.issue i c).cycle = s.cycle := by rw [State.issue_frame]
    let u' := if (s.member c.record).clamp = .none ∧ c.issued.mark ≠ .none then
      u.post .clamp (some i) (s.member c.record).node (s.member c.record).position s.cycle (some c.unclamped)
          c.issued.mark.code else u
    have he : (s.issue i c).events = u'.events ∧ (s.issue i c).nextSequence = u'.nextSequence := by
      simp only [u']; unfold State.issue; dsimp only; split
      · exact State.post_congr
          (s := s.modRec c.record fun r => { r with issued := c.issued.value, clamp := c.issued.mark }) (t := u) h1 h2 ..
      · exact ⟨h1, h2⟩
    have := ih (s.issue i c) u' he.1 he.2 hn.2
    dsimp only at this ⊢
    rw [List.foldl_cons]
    have hfold : ∀ (v : State),
        cs.foldl (fun (v : State) d =>
          if ((s.issue i c).member d.record).clamp = .none ∧ d.issued.mark ≠ .none then
            v.post .clamp (some i) ((s.issue i c).member d.record).node ((s.issue i c).member d.record).position
              (s.issue i c).cycle (some d.unclamped) d.issued.mark.code
          else v) v =
        cs.foldl (fun (v : State) d =>
          if (s.member d.record).clamp = .none ∧ d.issued.mark ≠ .none then
            v.post .clamp (some i) (s.member d.record).node (s.member d.record).position s.cycle (some d.unclamped)
              d.issued.mark.code
          else v) v := by
      intro v; apply List.foldl_ext; intro a d hd; rw [hmem d hd, hcy]
    rw [hfold] at this
    exact this

/-- The CLAMP events of an issue to the members of a section, in the words of the statements (R55). -/
theorem ClampsPosted.of_issueAll (s u y t : State) (i : SecId) (cs : List Candidate)
    (hcs : cs.map Candidate.record = s.members i) (hnd : (s.members i).Nodup)
    (hy : ∀ c ∈ cs, (y.member c.record).clamp = (s.member c.record).clamp ∧
      (y.member c.record).node = (s.member c.record).node ∧ (y.member c.record).position = (s.member c.record).position)
    (hc : y.cycle = s.cycle) (he : y.events = u.events) (hn : y.nextSequence = u.nextSequence)
    (ht : t.events = (y.issueAll i cs).events ∧ t.nextSequence = (y.issueAll i cs).nextSequence)
    (htm : ∀ c ∈ cs, (t.member c.record).clamp = c.issued.mark) (value : RecId → Int)
    (hv : ∀ c ∈ cs, c.unclamped = value c.record) : ClampsPosted s u t i value := by
  have := State.issueAll_events i cs y u he hn (by rw [hcs]; exact hnd)
  unfold ClampsPosted
  dsimp only at this ⊢
  rw [← hcs, List.foldl_map]
  have hf : ∀ (a : State), ∀ c ∈ cs,
      (if (y.member c.record).clamp = .none ∧ c.issued.mark ≠ .none then
        a.post .clamp (some i) (y.member c.record).node (y.member c.record).position y.cycle (some c.unclamped)
          c.issued.mark.code
      else a) =
      (if (s.member c.record).clamp = .none ∧ (t.member c.record).clamp ≠ .none then
        a.post .clamp (some i) (s.member c.record).node (s.member c.record).position s.cycle (some (value c.record))
          (if (t.member c.record).clamp = .high then 1 else 2)
      else a) := by
    intro a c hcm
    obtain ⟨h1, h2, h3⟩ := hy c hcm
    rw [h1, h2, h3, hc, htm c hcm, hv c hcm]
    split
    · rename_i h; congr 1; have := h.2; revert this; cases c.issued.mark <;> simp [ClampFlag.code]
    · rfl
  rw [List.foldl_ext _ _ _ hf] at this
  rw [ht.1, ht.2]; exact this

/-- The first element that gives a value gives the value of the search. -/
theorem findSome?_first {α β : Type} (f : α → Option β) (b : β) : ∀ (l : List α) (k : Nat) (a : α), l[k]? = some a → f a = some b →
    (∀ (j : Nat) (x : α), j < k → l[j]? = some x → f x = none) → l.findSome? f = some b := by
  intro l
  induction l with
  | nil => intro k a h; simp at h
  | cons y l ih =>
    intro k a h hb hn
    cases k with
    | zero =>
      obtain rfl : y = a := by simpa using h
      rw [List.findSome?_cons, hb]
    | succ k =>
      rw [List.findSome?_cons, hn 0 y (Nat.succ_pos k) rfl]
      exact ih k a (by simpa using h) hb fun j x hj hx => hn (j + 1) x (Nat.succ_lt_succ hj) (by simpa using hx)

/-- The value that a search gives comes from the first element that gives one. -/
theorem exists_of_findSome? {α β : Type} (f : α → Option β) (b : β) : ∀ l : List α, l.findSome? f = some b →
    ∃ k a, l[k]? = some a ∧ f a = some b ∧ ∀ (j : Nat) (x : α), j < k → l[j]? = some x → f x = none := by
  intro l
  induction l with
  | nil => intro h; cases h
  | cons y l ih =>
    intro h
    rw [List.findSome?_cons] at h
    cases hy : f y with
    | some c => rw [hy] at h; exact ⟨0, y, rfl, hy.trans h, fun j x hj => absurd hj (Nat.not_lt_zero j)⟩
    | none =>
      rw [hy] at h
      obtain ⟨k, a, h1, h2, h3⟩ := ih h
      refine ⟨k + 1, a, by simpa using h1, h2, fun j x hj hx => ?_⟩
      cases j with
      | zero => obtain rfl : y = x := by simpa using hx
                exact hy
      | succ j => exact h3 j x (Nat.lt_of_succ_lt_succ hj) (by simpa using hx)

/-- Point w on field f matches v at entry number k of a member whose candidate this is (R133, R135). -/
def State.MatchesAt (s : State) (f : WatchField) (entries : List Entry) (c : Candidate) (k : Nat) (w : WatchId) (v : Int) : Prop :=
  ∃ e, entries[k]? = some e ∧ e.node.toNat = (s.memberNode c.record).val + 1 ∧ s.issuedMatch f c e w = some v

/-- No stop at entry number k of a member is no match there. -/
theorem State.stopAt_none (s : State) (f : WatchField) (entries : List Entry) (c : Candidate) (k : Nat) (e : Entry) (hk : entries[k]? = some e) :
    s.stopAt f c (e, k) = none ↔ ∀ w v, ¬ s.MatchesAt f entries c k w v := by
  unfold State.stopAt
  have hall : ∀ w : WatchId, w ∈ watchIds := by decide
  constructor
  · rintro h w v ⟨e', he', hn, hm⟩
    rw [hk] at he'; cases he'
    rw [if_pos ((nodeOf_eq_some _ _).2 hn), List.findSome?_eq_none_iff] at h
    have := h w (hall w)
    rw [hm] at this; cases this
  · intro h
    split
    · rename_i hn
      rw [List.findSome?_eq_none_iff]
      intro w _
      cases hm : s.issuedMatch f c e w with
      | none => rfl
      | some v => exact absurd ⟨e, hk, (nodeOf_eq_some _ _).1 hn, hm⟩ (h w v)
    · rfl

/-- No stop at any entry of a member is no match at any. -/
theorem State.stopEntries_none (s : State) (f : WatchField) (entries : List Entry) (c : Candidate) :
    entries.zipIdx.findSome? (s.stopAt f c) = none ↔ ∀ k w v, ¬ s.MatchesAt f entries c k w v := by
  rw [List.findSome?_eq_none_iff]
  constructor
  · rintro h k w v ⟨e, hk, hn, hm⟩
    exact (s.stopAt_none f entries c k e hk).1 (h (e, k) (List.mk_mem_zipIdx_iff_getElem?.2 hk)) w v ⟨e, hk, hn, hm⟩
  · rintro h ⟨e, k⟩ he
    exact (s.stopAt_none f entries c k e (List.mk_mem_zipIdx_iff_getElem?.1 he)).2 (h k)

/-- One test finds nothing exactly where no point on its field matches at any entry of any candidate's member (R135). -/
theorem State.stopPass_none (s : State) (f : WatchField) (entries : List Entry) (cs : List Candidate) :
    s.stopPass f entries cs = none ↔ ∀ c ∈ cs, ∀ k w v, ¬ s.MatchesAt f entries c k w v := by
  unfold State.stopPass
  rw [List.findSome?_eq_none_iff]
  exact forall_congr' fun c => forall_congr' fun _ => s.stopEntries_none f entries c

/-- One test finds the first match in the order of candidates, entries and points (R135). -/
theorem State.stopPass_first (s : State) (f : WatchField) (entries : List Entry) (cs : List Candidate) (m : Nat) (c : Candidate) (k : Nat)
    (w : WatchId) (v : Int) (hc : cs[m]? = some c) (h : s.MatchesAt f entries c k w v)
    (hw : ∀ w' v', w' < w → ¬ s.MatchesAt f entries c k w' v') (hk : ∀ k' w' v', k' < k → ¬ s.MatchesAt f entries c k' w' v')
    (hm : ∀ (j : Nat) (d : Candidate), j < m → cs[j]? = some d → ∀ k' w' v', ¬ s.MatchesAt f entries d k' w' v') :
    s.stopPass f entries cs = some ⟨w, k, c.record, v⟩ := by
  obtain ⟨e, he, hn, hv⟩ := h
  refine findSome?_first _ _ cs m c hc ?_ fun j d hj hd => (s.stopEntries_none f entries d).2 (hm j d hj hd)
  refine findSome?_first _ _ entries.zipIdx k (e, k) (by simp [List.getElem?_zipIdx, he]) ?_ ?_
  · unfold State.stopAt
    rw [if_pos ((nodeOf_eq_some _ _).2 hn)]
    have hid : ∀ u : WatchId, watchIds[u.val]? = some u := by decide
    refine findSome?_first _ _ watchIds w.val w (hid w) (by rw [hv]; rfl) fun j u hj hu => ?_
    have hlt : j < 4 := (List.getElem?_eq_some_iff.1 hu).1
    have : u = ⟨j, hlt⟩ := by have h4 := hid ⟨j, hlt⟩; simp only at h4; rw [hu] at h4; exact Option.some.inj h4
    cases hx : s.issuedMatch f c e u with
    | none => rfl
    | some v' => exact absurd ⟨e, he, hn, hx⟩ (hw u v' (by rw [this]; exact hj))
  · rintro j ⟨e', k'⟩ hj hx
    rw [List.getElem?_zipIdx] at hx
    cases hg : entries[j]? with
    | none => rw [hg] at hx; simp at hx
    | some e'' =>
      rw [hg] at hx
      obtain ⟨rfl, rfl⟩ : e'' = e' ∧ j = k' := by simpa using hx
      exact (s.stopAt_none f entries c j _ hg).2 fun w' v' => hk j w' v' hj

/-- A stop that one test finds is the first match in the order of candidates, entries and points (R135). -/
theorem State.stopPass_some (s : State) (f : WatchField) (entries : List Entry) (cs : List Candidate) (stop : IssuedStop)
    (h : s.stopPass f entries cs = some stop) : ∃ m c k w v, cs[m]? = some c ∧ s.MatchesAt f entries c k w v ∧
      (∀ w' v', w' < w → ¬ s.MatchesAt f entries c k w' v') ∧ (∀ k' w' v', k' < k → ¬ s.MatchesAt f entries c k' w' v') ∧
      (∀ (j : Nat) (d : Candidate), j < m → cs[j]? = some d → ∀ k' w' v', ¬ s.MatchesAt f entries d k' w' v') ∧
      stop = ⟨w, k, c.record, v⟩ := by
  obtain ⟨m, c, h1, h2, h3⟩ := exists_of_findSome? _ _ _ h
  obtain ⟨k, ⟨e, k'⟩, h4, h5, h6⟩ := exists_of_findSome? _ _ _ h2
  obtain ⟨he, rfl⟩ : entries[k]? = some e ∧ k = k' := by
    rw [List.getElem?_zipIdx] at h4
    cases hg : entries[k]? with
    | none => rw [hg] at h4; simp at h4
    | some e' => rw [hg] at h4; simpa using h4
  unfold State.stopAt at h5
  split at h5
  · rename_i hn
    obtain ⟨x, w, h7, h8, h9⟩ := exists_of_findSome? _ _ _ h5
    have hid : ∀ u : WatchId, watchIds[u.val]? = some u := by decide
    have hx : x = w.val := by
      have hlt : x < 4 := (List.getElem?_eq_some_iff.1 h7).1
      have h := hid ⟨x, hlt⟩; simp only at h; rw [h7] at h; exact congrArg Fin.val (Option.some.inj h).symm
    cases hv : s.issuedMatch f c e w with
    | none => rw [hv] at h8; cases h8
    | some v =>
      rw [hv] at h8
      refine ⟨m, c, k, w, v, h1, ⟨e, he, (nodeOf_eq_some _ _).1 hn, hv⟩, ?_, ?_, ?_, (Option.some.inj h8).symm⟩
      · rintro w' v' hw ⟨e', he', _, hm⟩
        rw [he] at he'; cases he'
        have := h9 w'.val w' (by rw [hx]; exact hw) (hid w')
        rw [hm] at this; cases this
      · intro k' w' v' hk hm
        obtain ⟨e', he', _⟩ := id hm
        exact (s.stopAt_none f entries c k' e' he').1 (h6 k' (e', k') hk (by simp [List.getElem?_zipIdx, he'])) w' v' hm
      · intro j d hj hd
        exact (s.stopEntries_none f entries d).1 (h3 j d hj hd)
  · cases h5

/-- The section is not stopped exactly where no point matches on either field (R133, R135). -/
theorem State.stopTest_none (s : State) (entries : List Entry) (cs : List Candidate) :
    s.stopTest entries cs = none ↔
      ∀ f, f = .reference ∨ f = .command → ∀ c ∈ cs, ∀ k w v, ¬ s.MatchesAt f entries c k w v := by
  unfold State.stopTest
  simp only [Option.or_eq_none_iff, State.stopPass_none, forall_eq_or_imp, forall_eq]

/-- What the REFERENCE test of R135 finds is the stop. -/
theorem State.stopTest_reference (s : State) (entries : List Entry) (cs : List Candidate) (stop : IssuedStop)
    (h : s.stopPass .reference entries cs = some stop) : s.stopTest entries cs = some stop := by
  unfold State.stopTest; rw [h]; rfl

/-- Where the REFERENCE test of R135 finds nothing, the stop is that of the COMMAND points (R133). -/
theorem State.stopTest_command (s : State) (entries : List Entry) (cs : List Candidate)
    (h : s.stopPass .reference entries cs = none) : s.stopTest entries cs = s.stopPass .command entries cs := by
  unfold State.stopTest; rw [h]; rfl

/-- The least order number is at most that of each frame. -/
theorem earliest_le (xs : List (UpPlace × ReadyFrame)) : ∀ x ∈ xs, earliest xs ≤ x.2.ready := by
  induction xs with
  | nil => intro x h; cases h
  | cons a xs ih =>
    intro x h
    cases xs with
    | nil => rw [List.mem_singleton] at h; subst h; exact Nat.le_refl _
    | cons b ys =>
      show min a.2.ready (earliest (b :: ys)) ≤ _
      rcases List.mem_cons.1 h with h | h
      · subst h; exact Nat.min_le_left ..
      · exact (Nat.min_le_right ..).trans (ih x h)

/-- Of frames that wait, one has the least order number. -/
theorem exists_earliest (xs : List (UpPlace × ReadyFrame)) (h : xs ≠ []) : ∃ y ∈ xs, y.2.ready = earliest xs := by
  induction xs with
  | nil => exact absurd rfl h
  | cons a xs ih =>
    cases xs with
    | nil => exact ⟨a, List.mem_cons_self, rfl⟩
    | cons b ys =>
      obtain ⟨y, hy, he⟩ := ih (List.cons_ne_nil _ _)
      by_cases h : a.2.ready ≤ earliest (b :: ys)
      · exact ⟨a, List.mem_cons_self, (Nat.min_eq_left h).symm⟩
      · exact ⟨y, List.mem_cons_of_mem _ hy, he.trans (Nat.min_eq_right (by omega)).symm⟩

/-- A frame is among the first ready exactly where no waiting frame became ready before it (R156). -/
theorem mem_firstReady (xs : List (UpPlace × ReadyFrame)) (x : UpPlace × ReadyFrame) :
    x ∈ firstReady xs ↔ x ∈ xs ∧ ∀ y ∈ xs, x.2.ready ≤ y.2.ready := by
  simp only [firstReady, List.mem_filter, decide_eq_true_eq]
  constructor
  · rintro ⟨h, he⟩; exact ⟨h, fun y hy => he ▸ earliest_le xs y hy⟩
  · rintro ⟨h, hl⟩
    obtain ⟨y, hy, he⟩ := exists_earliest xs (List.ne_nil_of_mem h)
    exact ⟨h, Nat.le_antisymm (he ▸ hl y hy) (earliest_le xs x h)⟩

/-- The places that the upstream port sends from differ. -/
theorem State.upstreamHeads_nodup (s : State) : s.upstreamHeads.Nodup := by
  unfold State.upstreamHeads
  cases s.throughQueue.head? <;> cases s.replyQueue.head? <;> cases s.stationToSend <;> simp

/-- The frames that may be sent next, one by one (R156, R157). -/
theorem State.mem_upstreamHeads (s : State) (x : UpPlace × ReadyFrame) :
    x ∈ s.upstreamHeads ↔ x.1 = .through ∧ s.throughQueue.head? = some x.2 ∨ x.1 = .reply ∧ s.replyQueue.head? = some x.2 ∨
      x.1 = .slot ∧ s.timer = .running ∧ s.stationSlot = some x.2 := by
  obtain ⟨p, f⟩ := x
  unfold State.upstreamHeads State.stationToSend
  cases s.throughQueue.head? <;> cases s.replyQueue.head? <;> cases s.stationSlot <;> by_cases h : s.timer = .running <;>
    cases p <;> simp [h, eq_comm]

/-- The one frame that became ready first is sent (R156). -/
theorem State.arbitrate_first (s : State) (x : UpPlace × ReadyFrame) (h : x ∈ s.upstreamHeads)
    (hl : ∀ y ∈ s.upstreamHeads, y ≠ x → x.2.ready < y.2.ready) : s.arbitrate = s.sendUp x := by
  have hm : ∀ y, y ∈ firstReady s.upstreamHeads ↔ y = x := by
    intro y; rw [mem_firstReady]
    constructor
    · rintro ⟨hy, hle⟩
      by_contra hne
      exact absurd (hle x h) (Nat.not_le.2 (hl y hy hne))
    · rintro rfl
      refine ⟨h, fun z hz => ?_⟩
      by_cases he : z = y
      · rw [he]
      · exact (hl z hz he).le
  have hn : (firstReady s.upstreamHeads).Nodup := s.upstreamHeads_nodup.filter _
  unfold State.arbitrate
  match hf : firstReady s.upstreamHeads with
  | [] => exact absurd ((hm x).2 rfl) (by rw [hf]; simp)
  | [y] => rw [(hm y).1 (by rw [hf]; simp)]
  | y :: z :: ys =>
    rw [hf] at hn hm
    have := (hm y).1 (by simp); have := (hm z).1 (by simp)
    simp_all

/-- Where frames wait, the arbiter sends one that no other became ready before; in a tie it draws a free value (R156). -/
theorem State.arbitrate_spec (s : State) (h : s.upstreamHeads ≠ []) : ∃ x ∈ s.upstreamHeads,
    (∀ y ∈ s.upstreamHeads, x.2.ready ≤ y.2.ready) ∧ ∃ draws, s.arbitrate = State.sendUp { s with freeDraws := draws } x := by
  unfold State.arbitrate
  match hf : firstReady s.upstreamHeads with
  | [] =>
    obtain ⟨y, hy, he⟩ := exists_earliest _ h
    have hm : y ∈ firstReady s.upstreamHeads := (mem_firstReady _ y).2 ⟨hy, fun z hz => he ▸ earliest_le _ z hz⟩
    rw [hf] at hm; cases hm
  | [x] =>
    obtain ⟨hx, hl⟩ := (mem_firstReady _ x).1 (by rw [hf]; simp)
    exact ⟨x, hx, hl, s.freeDraws, rfl⟩
  | x :: y :: ys =>
    dsimp only
    have hk := Nat.mod_lt (Config.upstreamTie s.freeDraws) (show 0 < (x :: y :: ys).length by simp)
    generalize Config.upstreamTie s.freeDraws % (x :: y :: ys).length = k at hk ⊢
    obtain ⟨hx, hl⟩ := (mem_firstReady s.upstreamHeads ((x :: y :: ys).getD k x)).1 (by
      rw [hf, List.getD_eq_getElem _ _ hk]; exact List.getElem_mem _)
    exact ⟨_, hx, hl, _, rfl⟩

/-! ## Segment boundaries -/

/-- The sections take no part in posting an event. -/
theorem State.post_sections (s : State) (v : Vector Section 16) (k : EventKind) (a : Option SecId) (n : Option NodeId)
    (p : Option Pos) (c : Word16) (x : Option Int) (d : Nat) :
    State.post { s with sections := v } k a n p c x d = { s.post k a n p c x d with sections := v } := by
  unfold State.post; dsimp only; split <;> rfl

/-- The sections take no part in a trigger (R147). -/
theorem State.signal_sections (s : State) (k : TriggerKind) (x : Nat) (v : Vector Section 16) :
    State.signal { s with sections := v } k x = { s.signal k x with sections := v } := by
  unfold State.signal State.takeTrigger
  dsimp only
  split
  · split
    · rfl
    · split
      · unfold State.captureDone State.modCapture
        dsimp only
        rw [← State.post_sections]
      · rfl
    · rfl
  · rfl

/-- Everything that a segment boundary does (R106 step 2, R124, R147). -/
theorem State.signalBoundary_spec (s : State) (i : SecId) :
    let t := s.signalBoundary i
    t = { s.signal .segmentBoundary i.val with sections := t.sections } ∧
      t.sec i = { s.sec i with monitor := { (s.sec i).monitor with zeroCross := 0, fired := false } } ∧
      ∀ j, j ≠ i → t.sec j = s.sec j := by
  have h : ∀ (u : State) j, (u.signal .segmentBoundary i.val).sec j = u.sec j := by
    intro u j; rw [State.signal_frame]; rfl
  refine ⟨?_, ?_, fun j hj => ?_⟩
  · unfold State.signalBoundary State.modMonitor State.modSec
    rw [State.signal_sections]
  · unfold State.signalBoundary; rw [h]; unfold State.modMonitor; rw [State.sec_modSec_self]
  · unfold State.signalBoundary; rw [h]; unfold State.modMonitor; exact State.sec_modSec_ne _ hj _

/-! ## The dispatch and the entries that it rewrites -/

/-- A DISPATCH that its layout can carry is the work of an accepted dispatch (R153). -/
theorem exec_dispatch (s : State) (f : DispatchFrame) (hp : s.powered = true) (hl : f.entries.length ≤ 62) :
    exec (.dispatch f) s = .next (s.dispatchWork f) := by
  have : f.wf = true := by unfold DispatchFrame.wf; simpa using hl
  show State.whenPowered s (fun s => if f.wf then s.dispatchWork f else s) = _
  rw [State.whenPowered_on _ _ hp, if_pos this]

/-- The nodes that step 5 rewrites for a section are those of its members where the section rewrites, and none else (R56, R61). -/
theorem Formed.nodes_takeSection (entries : List Entry) (a : Formed) (i : SecId) :
    (Formed.takeSection entries a i).rewrites.map Rewrite.node = a.rewrites.map Rewrite.node ++
      if (a.state.sec i).state.rewriting then (a.state.members i).map a.state.memberNode else [] := by
  have hst := Stable.takeSection entries a i
  have hnodes : ∀ t : State, Stable a.state t → (t.rewritesOf i).map Rewrite.node = (a.state.members i).map a.state.memberNode := by
    intro t ht
    unfold State.rewritesOf
    rw [(ht.sec i).1, List.map_map]
    exact List.map_congr_left fun r _ => ht.memberNode r
  have hend : ∀ t : State, Stable a.state (t.endRelease i) → (t.rewritesOf i).map Rewrite.node = (a.state.members i).map a.state.memberNode := by
    intro t ht
    rw [← hnodes _ ht]
    have hs : Stable t (t.endRelease i) := by
      unfold State.endRelease; split
      · exact Stable.enterPassing ..
      · exact Stable.refl _
    unfold State.rewritesOf
    rw [(hs.sec i).1, List.map_map, List.map_map]
    exact List.map_congr_left fun r _ => (hs.memberNode r).symm
  unfold Formed.takeSection at hst ⊢
  dsimp only at hst ⊢
  split <;> rename_i h <;> rw [h] at hst <;> simp only [h, SectionState.rewriting, if_true, List.map_append]
  · rw [hnodes _ hst]
  · rw [hnodes _ hst]
  · rw [hend _ hst]
  · rw [hnodes _ hst]
  all_goals simp

/-- The node of a member stands in the list of one section alone (R9). -/
theorem MembersConsistent.section_unique {s : State} (hm : MembersConsistent s) {i j : SecId} {q r : RecId} (hq : q ∈ s.members i)
    (hr : r ∈ s.members j) (h : s.memberNode q = s.memberNode r) : i = j := by
  have h1 := (hm.facts hq).2.1
  have h2 := (hm.facts hr).2.1
  rw [h, h2] at h1
  exact (Option.some.inj h1).symm

/-- Forming the references of different sections rewrites no node twice (R9, R56). -/
theorem Formed.nodes_nodup (entries : List Entry) {s : State} (hm : MembersConsistent s) : ∀ (is : List SecId) (a : Formed), is.Nodup →
    Stable s a.state → (a.rewrites.map Rewrite.node).Nodup →
    (∀ i ∈ is, ∀ r ∈ s.members i, s.memberNode r ∉ a.rewrites.map Rewrite.node) →
    ((is.foldl (Formed.takeSection entries) a).rewrites.map Rewrite.node).Nodup
  | [], _, _, _, h, _ => h
  | i :: is, a, hn, hs, h, hd => by
    obtain ⟨hi, hn⟩ := List.nodup_cons.1 hn
    have hm' : (a.state.members i).map a.state.memberNode = (s.members i).map s.memberNode := by
      rw [(hs.sec i).1]; exact List.map_congr_left fun r _ => hs.memberNode r
    have hnodes := Formed.nodes_takeSection entries a i
    rw [hm'] at hnodes
    refine Formed.nodes_nodup entries hm is _ hn (hs.trans (Stable.takeSection entries a i)) ?_ ?_
    · rw [hnodes]
      split
      · rw [List.nodup_append']
        refine ⟨h, hm.nodup_nodes i, ?_⟩
        intro n h1 h2
        obtain ⟨r, hr, rfl⟩ := List.mem_map.1 h2
        exact hd i List.mem_cons_self r hr h1
      · simpa using h
    · intro j hj r hr
      rw [hnodes, List.mem_append, not_or]
      refine ⟨hd j (List.mem_cons_of_mem _ hj) r hr, ?_⟩
      split
      · rw [List.mem_map]
        rintro ⟨q, hq, he⟩
        exact hi (hm.section_unique hq hr he ▸ hj)
      · simp

/-- An entry that no rewrite names stays as it is; where no two rewrites name one node, an entry of a rewritten node gets its speed (R56). -/
theorem Entry.rewrite_spec (ws : List Rewrite) (e : Entry) :
    ((∀ w ∈ ws, e.node.toNat ≠ w.node.val + 1) → Entry.rewrite ws e = e) ∧
    ((ws.map Rewrite.node).Nodup → ∀ w ∈ ws, e.node.toNat = w.node.val + 1 → Entry.rewrite ws e = { e with speed := w.speed }) := by
  unfold Entry.rewrite
  constructor
  · intro h
    rw [List.find?_eq_none.2]
    intro w hw; simpa [nodeOf_eq_some] using h w hw
  · intro hn w hw he
    obtain ⟨v, hv⟩ : ∃ v, ws.find? (fun w => decide (nodeOf e.node.toNat = some w.node)) = some v :=
      Option.isSome_iff_exists.1 (List.find?_isSome.2 ⟨w, hw, by simpa [nodeOf_eq_some] using he⟩)
    have h1 := List.mem_of_find?_eq_some hv
    have h2 : e.node.toNat = v.node.val + 1 := by simpa [nodeOf_eq_some] using List.find?_some hv
    have : v = w := List.inj_on_of_nodup_map hn h1 hw (Fin.ext (by omega))
    rw [hv, this]

end Sys2Proof.Machine
end

