-- ==== Sys2Proof/Tests/Slice0.lean ====
section
/-! SUPPORT. Small checks: the arithmetic and frames of the spec's worked cases, ill-formed commands, one step of every command, and
a state that meets the hypotheses of every statement. -/

namespace Sys2Proof.Tests

open Sys2Proof Sys2Proof.Machine

set_option maxRecDepth 20000
set_option Elab.async false

/-! ## Small states -/

/-- The state that a command leaves; the state after reset where there is none. -/
def after (o : Out) : State :=
  match o with
  | .next t => t
  | _ => State.reset

/-- After reset with the permit line active; the station is node 62. -/
def base : State := { State.reset with permit := true }

/-- Section 3 with nodes 12, 17 and 18 in records 0, 1 and 2, in a state. -/
def group (st : SectionState) : State :=
  (((base.addMember 3 11 1 0).addMember 3 16 1 1).addMember 3 17 2 2).modSec 3 fun x => { x with state := st }

/-- A request for this station. -/
def ask (level code : Nat) (ops : List Int) : RequestFrame :=
  ⟨62, 0, 9, BitVec.ofNat 8 level, BitVec.ofNat 8 code, ops.map (BitVec.ofInt 32)⟩

/-- The result code and data of the reply posted last. -/
def answer (s : State) : Nat × List Int :=
  match s.replyQueue.getLast? with
  | some ⟨_, .reply f⟩ => (f.result.toNat, f.data.map BitVec.toInt)
  | _ => (999, [])

/-- The state after a service command took a COMMISSION request. -/
def served (s : State) (c : Instr) (code : Nat) (ops : List Int) : State :=
  after (exec c { s with requests := [ask 1 code ops] })

/-- A dispatch entry. -/
def entry (node : Nat) (cmd : DriveCommand) (speed : Int) : Entry := ⟨BitVec.ofNat 8 node, cmd, BitVec.ofInt 24 speed⟩

/-- All members reporting READY and RUNNING for cycle 0. -/
def reported (s : State) (st : BitVec 5) : State :=
  { s with drives := s.drives.map fun d => { d with feedback := { d.feedback with status := st, ever := true } } }

/-! ## Arithmetic of the worked cases -/

/-- Halves round away from zero, the quotient is exact before it is rounded (R2; the draw terms of chapter 3). -/
theorem test_rounding :
    [roundDiv 5 2, roundDiv (-5) 2, roundDiv 7 3, roundDiv (-7) 3, drawTerm 851000 1500, drawTerm 800000 2000] =
      [3, -3, 2, -2, 1277, 1600] := by decide

/-- The ramp and square of chapter 6. -/
theorem test_offsets :
    [1, 2, 3].map (Segment.offsetAt ⟨3, 20000, .ramp⟩ 0) = [6667, 13333, 20000] ∧
      [1, 2, 3, 4, 5].map (Segment.offsetAt ⟨5, 10000, .square⟩ 0) = [10000, 10000, 10000, -10000, -10000] ∧
      [4, 5, 6, 7].map (Segment.offsetAt ⟨7, -5000, .ramp⟩ 10000) = [1429, -714, -2857, -5000] := by decide

/-- The calibration of chapter 12. -/
theorem test_followers :
    followerCal 21 (some 1) 50500 151510 50010 150030 = .ok ⟨21, 16223, -6⟩ ∧
      followerCal 22 (some 2) 49600 148800 50010 150030 = .ok ⟨22, 16519, -1⟩ ∧
      followerCal 22 (some 2) 50000 50999 50010 150030 = .error (.spread 22 (some 2) 999) := by decide

/-- The injected and the returned value of chapter 5. -/
theorem test_calibrated :
    let d : DriveEntry := { DriveEntry.powerOn with direction := .minus, gain := 16134, offset := 75 }
    [d.calibrate (-600820), d.calibrate (-600800), d.signLoad (-390)] = [591578, 591559, 390] := by decide

/-- The trim steps of chapter 4, the follower held by its clamp. -/
theorem test_trims :
    [trimStep 40 32, trimStep (-40) 32, antiWindup .high (trimStep (-30) 32), antiWindup .none (trimStep 30 32),
      trimMean [-140, 80]] = [-80, 80, 0, -60, -30] := by decide

/-- The window clamp of chapter 3, and the station that the straps give. -/
theorem test_clamp_and_straps :
    absoluteClamp 1100000 (windowClamp 850000 30000 891587) = ⟨880000, .high⟩ ∧
      absoluteClamp 1100000 (windowClamp 850000 30000 871587) = ⟨871587, .none⟩ ∧
      [stationOfStraps 0, stationOfStraps 1, stationOfStraps 62, stationOfStraps 63] = [61, 0, 61, 61] := by decide

/-! ## Frames and ill-formed commands -/

/-- The check word of the nine characters 1 to 9 with this generator, preset to ones, no inversion. -/
theorem test_check_word : checkWord [0x31, 0x32, 0x33, 0x34, 0x35, 0x36, 0x37, 0x38, 0x39] = 0xAEE7 := by decide +kernel

/-- A return frame written out byte by byte from the layout of R151. -/
theorem test_return_bytes :
    (Frame.ret ⟨12, 0x0C80, 12, 3, 600000, BitVec.ofInt 16 (-2)⟩).content =
      [2, 12, 0x0C, 0x80, 0, 7, 12, 3, 0x09, 0x27, 0xC0, 0xFF, 0xFE] := by decide +kernel

/-- A dispatch frame written out byte by byte is read as that frame, and at the other port it is bad. -/
theorem test_dispatch_bytes :
    let content : List Byte := [1, 0, 0x23, 0x29, 0, 6, 1, 14, 1, 0x0C, 0xF8, 0x50]
    let bytes := content ++ bytes16 (checkWord content)
    receive .upstream bytes = .ok (.dispatch ⟨0, 0x2329, [⟨14, .run, 850000⟩]⟩) ∧
      receive .downstream bytes = .error .port := by decide +kernel

/-- Each test of R152 makes a frame bad. -/
theorem test_bad_frames :
    let whole (c : List Byte) : List Byte := c ++ bytes16 (checkWord c)
    receive .upstream [1, 2, 3] = .error .checkWord ∧
      receive .upstream [1, 0, 0, 0, 0, 1, 0, 0, 0] = .error .checkWord ∧
      receive .upstream (whole [6, 0, 0, 0, 0, 0]) = .error .kind ∧
      receive .upstream (whole [1, 0, 0, 0, 0, 1, 1]) = .error .length ∧
      receive .upstream (whole [1, 0, 0, 0, 0, 6, 1, 14, 6, 0, 0, 0]) = .error .driveCommand ∧
      receive .upstream (whole [3, 12, 0, 0, 0, 5, 13, 0, 0, 5, 0]) = .error .station := by decide +kernel

/-- The ill-formed term of each check is refused: too many entries, operands or data values, a station frame without sixteen states, a
BAD_FRAME of good bytes. -/
theorem test_ill_formed :
    Instr.wf (.dispatch ⟨0, 0, List.replicate 63 (entry 1 .run 0)⟩) = false ∧
      Instr.wf (.serviceRequest ⟨62, 0, 0, 0, 1, List.replicate 17 0⟩) = false ∧
      Instr.wf (.otherStationFrame (.reply ⟨1, 0, 1, 0, 0, List.replicate 17 0⟩)) = false ∧
      Instr.wf (.otherStationFrame (.station ⟨1, 0, 1, 0, 0, 0, List.replicate 15 0⟩)) = false ∧
      Instr.wf (.badFrame .downstream (Frame.ret ⟨12, 0, 12, 3, 0, 0⟩).bytes) = false := by decide +kernel

/-- At the bounds they are well formed. -/
theorem test_well_formed :
    Instr.wf (.dispatch ⟨0, 0, List.replicate 62 (entry 1 .run 0)⟩) = true ∧
      Instr.wf (.serviceRequest ⟨62, 0, 0, 0, 1, List.replicate 16 0⟩) = true ∧
      Instr.wf (.otherStationFrame (.station ⟨1, 0, 1, 0, 0, 0, List.replicate 16 0⟩)) = true ∧
      Instr.wf (.badFrame .upstream []) = true := by decide +kernel

/-! ## One step of the commands -/

/-- POWER_ON reads the straps and the permit line. -/
theorem test_power_on : (after (exec (.powerOn 12 true) base)).readField 10 0 0 = 12 := by decide +kernel

/-- An inactive permit line takes a TRIAL section to RELEASING with target BYPASS. -/
theorem test_permit :
    let t := after (exec (.permitLineChange false) (group .trial))
    ((t.sec 3).state, (t.sec 3).releaseTarget, t.events.length) = (.releasing, some .bypass, 3) := by decide +kernel

/-- An expiring timer faults a SELECTED section. -/
theorem test_expiry :
    ((after (exec .lineTimerExpiry { group .selected with timer := .running })).sec 3).faultCode = some .lineLost := by
  decide +kernel

/-- A dispatch of a FROZEN section carries B plus the held offset, with the direction of each node. -/
theorem test_dispatch :
    let s := ((group .frozen).modRec 1 fun r => { r with held := 300 }).modDrive 16 fun d => { d with direction := .minus }
    let t := after (exec (.dispatch ⟨0, 5, [entry 12 .run 1000, entry 17 .run 0, entry 40 .run 7]⟩) s)
    t.downstreamQueue = [.dispatch ⟨0, 5, [entry 12 .run 1000, entry 17 .run (-1300), entry 40 .run 7]⟩] := by decide +kernel

/-- A QUICK_STOP hands the section back. -/
theorem test_override :
    let f : DispatchFrame := ⟨0, 5, [entry 17 .quickStop 0]⟩
    let t := after (exec (.dispatch f) (group .trial))
    (t.sec 3).state = .bypass ∧ t.downstreamQueue = [.dispatch f] := by decide +kernel

/-- The last return completes the set. -/
theorem test_return :
    let s := { reported (group .selected) 3 with cycleOpen := true, cycle := 5 }
    let s := (s.modDrive 11 fun d => { d with feedback := { d.feedback with fresh := true } }).modDrive 16
      fun d => { d with feedback := { d.feedback with fresh := true } }
    let t := after (exec (.returnFrame ⟨18, 5, 18, 3, 100, 40⟩) s)
    ((t.sec 3).lastSet, (s.sec 3).lastSet, (t.member 2).imbalance) = (some ⟨5, true, none⟩, none, 20) := by decide +kernel

/-- The write that stops of chapter 11. -/
theorem test_write :
    let t := served (group .trial) .write 2 [1, 3, 6, 60000, 25000, 1200000]
    (answer t, t.readField 1 3 6, t.readField 1 3 7, t.readField 1 3 8) = ((8, [2]), 50000, 25000, 1100000) := by decide +kernel

/-- A station frame waits in the slot after a dispatch; once the line timer has expired, none is sent. -/
theorem test_expired_sends_no_station_frame :
    let s := after (exec (.dispatch ⟨0, 5, []⟩) base)
    let sent (u : State) : Option Frame := (after (exec .upstreamSend u)).upstreamSent
    sent s = some (.station s.stationFrame) ∧ sent (after (exec .lineTimerExpiry s)) = none := by decide +kernel

/-- The wrapping cursor of chapter 11, on the COMMISSION cursor. -/
theorem test_cursor :
    let t := served base .setCursor 4 [8, 0, 10]
    let u := after (exec .readNext { t with requests := [ask 1 5 [4]] })
    (answer u, u.commissionCursor, u.observeCursor) = ((128, [0, 0, 0, 0]), ⟨8, 0, 2⟩, ⟨1, 0, 0⟩) := by decide +kernel

/-- READ INDEXED wraps its entry, and PEEK EVENTS leaves what READ EVENTS takes. -/
theorem test_reads :
    answer (served base .readIndexed 3 [3, 61, 2, 0, 2]) = (0, [2, 1]) ∧
      answer (served base .read 1 [10, 0, 0, 3]) = (0, [62, 1, 50]) ∧
      (served base .peekEvents 8 [4]).events.length = 1 ∧ (served base .readEvents 7 [4]).events = [] ∧
      answer (served base .readEvents 7 [4]) = (0, [0, 65280, 65535, 0]) := by decide +kernel

/-- Building a section, as in chapter 1: IN_USE, BAD_VALUE for the station's own node, removal and a new lead. -/
theorem test_members :
    answer (served (group .bypass) .addMember 32 [3, 5, 1]) = (0, [3, 3]) ∧
      answer (served (group .bypass) .addMember 32 [4, 17, 1]) = (9, []) ∧
      answer (served (group .bypass) .addMember 32 [4, 62, 1]) = (5, []) ∧
      ((served (group .bypass) .removeMember 33 [3, 17]).members 3).map Fin.val = [0, 2] ∧
      ((served (group .bypass) .makeLead 34 [3, 18]).members 3).map Fin.val = [2, 0, 1] := by decide +kernel

/-- The commissioning commands from the states that take them. -/
theorem test_commissioning :
    let ready := (reported (group .selected) 3).modSec 3 fun x =>
      { x with lastSet := some ⟨0, true, none⟩, leadCommand := .run }
    let state (t : State) : SectionState := (t.sec 3).state
    state (served (group .bypass) .select 16 [3]) = .selected ∧ state (served (group .selected) .deselect 17 [3]) = .bypass ∧
      state (served ready .start 18 [3]) = .trial ∧ state (served (group .trial) .freeze 19 [3]) = .frozen ∧
      state (served (group .frozen) .continueTrial 20 [3]) = .trial ∧
      state (served (group .frozen) .stepRun 21 [3]) = .trial ∧ state (served (group .trial) .stopTrial 22 [3]) = .releasing ∧
      state (served (group .frozen) .abort 23 [3]) = .bypass ∧
      state (served (group .selected) .calibrate 24 [3]) = .calibrating ∧
      state (served (group .faulted) .clearFault 26 [3]) = .bypass := by decide +kernel

/-- A refused START says which check failed and for which node. -/
theorem test_start_refused : answer (served (group .selected) .start 18 [3]) = (7, [1, 2, 12]) := by decide +kernel

/-- TRIGGER on a running STEP segment, and on none. -/
theorem test_trigger :
    let s := ((group .trial).modSegment 0 fun _ => ⟨5, 100, .step⟩).modSec 3 fun x =>
      { x with profile := { x.profile with cycleCount := 4 } }
    ((served s .trigger 25 [3]).sec 3).profile.cycleCount = 0 ∧ answer (served (group .trial) .trigger 25 [3]) = (2, []) := by
  decide +kernel

/-- INJECT FEEDBACK completes the set of a section with the other members fresh. -/
theorem test_inject :
    let s := { reported (group .selected) 3 with cycleOpen := true }
    let s := (s.modDrive 11 fun d => { d with feedback := { d.feedback with fresh := true } }).modDrive 16
      fun d => { d with feedback := { d.feedback with fresh := true } }
    answer (served s .injectFeedback 35 [18, 100, 40, 3]) = (0, [1]) := by decide +kernel

/-- A snapshot is latched once, read in parts, and part 2 empties the latch. -/
theorem test_snapshot :
    let t := served (group .trial) .latchSnapshot 40 [3]
    (t.sec 3).snapshot.isSome = true ∧ answer (served t .latchSnapshot 40 [3]) = (2, []) ∧
      answer (served t .readSnapshot 41 [3, 0]) = (0, [1, 0, 2, 0, 0, 3, 12, 0, 0, 0, 0, 0, 0]) ∧
      ((served t .readSnapshot 41 [3, 2]).sec 3).snapshot = none := by decide +kernel

/-- A capture starts with an active item, takes one record at a dispatch, and stops. -/
theorem test_capture :
    let s := base.modItem 0 fun c => { c with enable := true }
    let t := { served s .captureStart 48 [] with replyQueue := [] }
    let u := after (exec (.dispatch ⟨0, 5, [entry 1 .run 7]⟩) t)
    answer (served base .captureStart 48 []) = (5, [-1]) ∧ u.logicalRecord 0 = ⟨5, some 0, 7, false⟩ ∧
      u.capture.recordCount = 1 ∧ (served t .captureStop 49 []).capture.state = .done ∧
      answer (served t .triggerCapture 50 []) = (2, []) := by decide +kernel

/-- RESTART leaves one START_UP record and every section in BYPASS; an unknown code is BAD_COMMAND. -/
theorem test_restart :
    let t := served (group .trial) .restart 9 []
    (t.events.map fun e => (e.kind, e.detail), (t.sec 3).state) = ([(.startUp, 1)], .bypass) ∧
      answer (served base .unknownCommandCode 10 []) = (3, []) := by decide +kernel

/-! ## States that meet the hypotheses of the statements -/

/-- A state with one request waiting. -/
def asking (s : State) (level code : Nat) (ops : List Int) : State := { s with requests := [ask level code ops] }

/-- The Service Handler of a powered state with the permit line active takes a COMMISSION request. -/
theorem takesC (s : State) (code : Nat) (ops : List Int)
    (h : (s.powered && s.permit && decide (s.replyQueue.length < 4) && decide (code < 256)) = true) :
    TakesCommission (asking s 1 code ops) (ask 1 code ops) code := by
  simp only [Bool.and_eq_true, decide_eq_true_eq] at h
  exact ⟨⟨h.1.1.1, h.1.2, rfl, by simp [ask]; omega, rfl⟩, h.1.1.2⟩

/-- And an OBSERVE request. -/
theorem takesO (s : State) (code : Nat) (ops : List Int)
    (h : (s.powered && decide (s.replyQueue.length < 4) && decide (code < 256)) = true) :
    TakesObserve (asking s 0 code ops) (ask 0 code ops) code .observe := by
  simp only [Bool.and_eq_true, decide_eq_true_eq] at h
  exact ⟨⟨h.1.1, h.1.2, rfl, by simp [ask]; omega, rfl⟩, fun e => nomatch e⟩

/-- A check of MembersConsistent over the four places a list can have. -/
def membersCheck (s : State) : Bool :=
  decide (∀ i : SecId, (s.members i).length ≤ 4 ∧ ((s.members i).map fun r => (s.member r).node).Nodup) &&
  decide (∀ (i : SecId) (k : Fin 4) (r : RecId), (s.members i)[k.val]? = some r →
    (s.member r).inUse = true ∧ (s.member r).inSection = some i ∧ (s.member r).position.map Fin.val = some k.val ∧
      ∃ n : NodeId, (s.member r).node = some n ∧ (s.drive n).inSection = some i) &&
  decide (∀ (n : NodeId) (i : SecId), (s.drive n).inSection = some i → ∃ r : RecId, r ∈ s.members i ∧ (s.member r).node = some n) &&
  decide (∀ r : RecId, ((s.member r).inUse = true → ∃ i : SecId, r ∈ s.members i) ∧
    ((s.member r).inUse = false → s.member r = PoolRecord.free))

/-- The check is enough. -/
theorem members_of_check (s : State) (h : membersCheck s = true) : MembersConsistent s := by
  simp only [membersCheck, Bool.and_eq_true, decide_eq_true_eq] at h
  obtain ⟨⟨⟨h1, h2⟩, h3⟩, h4⟩ := h
  refine ⟨h1, fun i k r hk => ?_, h3, fun r => ?_⟩
  · have hlt : k < (s.members i).length := (List.getElem?_eq_some_iff.1 hk).1
    exact h2 i ⟨k, by have := (h1 i).1; omega⟩ r hk
  · cases hu : (s.member r).inUse
    · simpa using (h4 r).2 hu
    · simpa using (h4 r).1 hu

/-- Sections in every state: 3 in TRIAL with three members, 4 FROZEN, 5 CALIBRATING, 6 RELEASING with one member, 7 FAULTED, 8
SELECTED, the others in BYPASS. -/
def mixed : State :=
  let s := (group .trial).addMember 6 30 1 3
  let s := s.modRec 3 fun r => { r with held := 700 }
  let s := s.modSec 4 fun x => { x with state := .frozen }
  let s := s.modSec 5 fun x => { x with state := .calibrating }
  let s := s.modSec 6 fun x => { x with state := .releasing, releaseTarget := some .selected }
  let s := s.modSec 7 fun x => { x with state := .faulted, faultCode := some .driveFault }
  let s := s.modSec 8 fun x => { x with state := .selected }
  { s with engine := { Engine.free with holder := some 5, phase := some .settleLow }, cycleOpen := true, cycle := 8 }

theorem mixed_members : MembersConsistent mixed := members_of_check _ (by decide +kernel)

theorem mixed_engine : EngineHeld mixed := by unfold EngineHeld; decide +kernel

theorem mixed_config : ConfigInRange mixed := by
  intro i
  have h : ∀ j : SecId, (mixed.sec j).cfg = SectionConfig.powerOn := by decide +kernel
  rw [h i]; decide

theorem mixed_targets : TargetsAndFaultCodes mixed := by
  intro i
  have h : ∀ j : SecId, ((mixed.sec j).releaseTarget.isSome ↔ (mixed.sec j).state = .releasing) ∧
    ((mixed.sec j).faultCode.isSome ↔ (mixed.sec j).state = .faulted) ∧
    ((mixed.sec j).faultCode = none ∨ (mixed.sec j).faultCode = some .driveFault) := by decide +kernel
  refine ⟨(h i).1, (h i).2.1, fun c hc => ?_⟩
  rcases (h i).2.2 with h0 | h0 <;> rw [h0] at hc
  · cases hc
  · left; exact (Option.some.inj hc).symm

theorem mixed_events : EventsInOrder mixed := by
  refine ⟨by decide +kernel, fun k e he => ?_⟩
  have h : mixed.events = [Event.powerOn] := by decide +kernel
  have hn : mixed.nextSequence = 1 := by decide +kernel
  rw [h] at he ⊢
  match k, he with
  | 0, he => cases he; rw [hn]; rfl

/-- A dispatch in front of the queue of a state with sections in every state. -/
def ticking : State := { mixed with pending := [.dispatch ⟨0, 9, [entry 12 .run 1000, entry 17 .coast 5]⟩] }

/-- The block: an empty queue; supply up and supply lost. -/
theorem test_meets_block :
    State.reset.pending = [] ∧ State.reset.powered = true ∧ (after (exec .powerLoss State.reset)).powered = false ∧
      (∀ straps permit, Instr.read ≠ .powerOn straps permit) := by
  refine ⟨rfl, rfl, by decide +kernel, fun _ _ h => nomatch h⟩

/-- PermitChangeReleasesSections: sections in every state, and an inactive line. -/
theorem test_meets_PermitChangeReleasesSections :
    (mixed.powered = true ∧ mixed.permit = true ∧ EngineHeld mixed ∧ MembersConsistent mixed ∧ mixed.events.length ≤ 14 ∧
      ([3, 4, 5, 6, 7, 8, 9] : List SecId).map (fun i => (mixed.sec i).state) =
        [.trial, .frozen, .calibrating, .releasing, .faulted, .selected, .bypass]) ∧
      State.reset.powered = true ∧ State.reset.permit = false :=
  ⟨⟨by decide +kernel, by decide +kernel, mixed_engine, mixed_members, by decide +kernel, by decide +kernel⟩, rfl, rfl⟩

/-- LineTimerExpiryFaultsSections: a running timer with sections in every state, and one that does not run. -/
theorem test_meets_LineTimerExpiryFaultsSections :
    (let s := { mixed with timer := .running }
     s.powered = true ∧ s.timer = .running ∧ EngineHeld s) ∧ State.reset.timer ≠ .running :=
  ⟨⟨by decide +kernel, rfl, mixed_engine⟩, by decide⟩

/-- UsedReturnWritesFeedback: the lowest node, and the highest that is not the station. -/
theorem test_meets_UsedReturnWritesFeedback :
    ∀ n ∈ ([0, 60] : List NodeId),
      let f : ReturnFrame := ⟨0, 8, BitVec.ofNat 8 (n.val + 1), 3, 100, 40⟩
      mixed.powered = true ∧ mixed.cycleOpen = true ∧ f.cycle = mixed.cycle ∧ f.node.toNat = n.val + 1 ∧ n ≠ mixed.station := by
  decide +kernel

/-- A group in a state at cycle 5 with the first two members' values in, evaluated or not. -/
def collecting (st : SectionState) (evaluated : Bool) : State :=
  let fresh (d : DriveEntry) : DriveEntry := { d with feedback := { d.feedback with fresh := true } }
  let s := ((group st).modDrive 11 fresh).modDrive 16 fresh
  { s.modSec 3 fun x => { x with evaluated := evaluated } with cycleOpen := true, cycle := 5 }

/-- UsedReturnWritesFeedback and InjectionWritesFeedback, the work that follows: a value of a node in no section; values with the FAULT flag in
a section that can fault and in ones that cannot; a value that completes the set, one that does not, and one for a set evaluated before. -/
theorem test_meets_feedback_work :
    let value (s : State) (n : NodeId) (status : BitVec 5) : State := s.modDrive n fun d => d.take 100 40 status s.cycle .link
    ((value (collecting .selected false) 0 3).drive 0).inSection = none ∧
      (∀ st ∈ [SectionState.selected, .trial, .bypass, .faulted],
        let s := value (collecting st false) 17 16
        (s.drive 17).inSection = some 3 ∧ (s.drive 17).feedback.status.getLsbD 4 = true ∧ (s.sec 3).state = st) ∧
      (∀ evaluated ∈ [false, true],
        let s := value (collecting .selected evaluated) 17 3
        (s.drive 17).feedback.status.getLsbD 4 = false ∧ (s.sec 3).evaluated = evaluated ∧
          ∀ r ∈ s.members 3, (s.memberFeedback r).fresh = true) ∧
      ((value (collecting .selected false) 16 3).memberFeedback 2).fresh = false := by decide +kernel

/-- A return with the FAULT flag faults its SELECTED section, naming the node, and completes the set of the FAULTED section (R81, R82). -/
theorem test_drive_fault :
    let t := after (exec (.returnFrame ⟨18, 5, 18, 16, 100, 40⟩) (collecting .selected false))
    ((t.sec 3).state, (t.sec 3).faultCode, (t.sec 3).lastSet) = (.faulted, some .driveFault, some ⟨5, true, none⟩) ∧
      t.events.getLast?.map (fun e => (e.kind, e.node, e.position, e.detail)) = some (.stateChange, some 17, some 2, 12) := by
  decide +kernel

/-- UnusedAndBadFramesChangeNoState: a return before any dispatch, a stale one, nodes 0 and 63, the station's node; a foreign frame. -/
theorem test_meets_UnusedAndBadFramesChangeNoState :
    State.reset.powered = true ∧ State.reset.cycleOpen = false ∧ mixed.powered = true ∧
      (7 : Word16) ≠ mixed.cycle ∧ (0 : Byte).toNat = 0 ∧ 62 < (63 : Byte).toNat ∧ (62 : Byte).toNat = mixed.station.val + 1 ∧
      (ForeignFrame.reply ⟨1, 0, 1, 0, 0, List.replicate 16 0⟩).frame.wf = true := by decide +kernel

/-- ServiceRequestIsQueuedOrForwarded: 16 operands, for this station and for another. -/
theorem test_meets_ServiceRequestIsQueuedOrForwarded :
    base.powered = true ∧ (ask 1 1 (List.replicate 16 0)).operands.length ≤ 16 ∧
      (ask 1 1 []).station.toNat = base.station.val + 1 ∧ ({ ask 1 1 [] with station := 5 }).station.toNat ≠ base.station.val + 1 := by
  decide +kernel

/-- PortsSendEarliestFrame: each place holding the earliest frame with a running timer, nothing waiting, a tie, a downstream frame; and a
timer that does not run with an older frame left in the slot, beside a waiting frame and alone. -/
theorem test_meets_PortsSendEarliestFrame :
    let f : Frame := .ret ⟨1, 0, 1, 0, 0, 0⟩
    let s (a b c : Nat) : State := { base with
      timer := .running, throughQueue := [⟨a, f⟩], replyQueue := [⟨b, f⟩], stationSlot := some ⟨c, f⟩, downstreamQueue := [f] }
    let quiet : State := { s 2 1 0 with timer := .expired }
    ((s 0 1 2).powered = true ∧ (s 0 1 2).timer = .running ∧ (s 0 1 2).throughQueue.head? = some ⟨0, f⟩ ∧
      (∀ y, (s 0 1 2).replyQueue.head? = some y → 0 < y.ready) ∧ (∀ y, (s 0 1 2).stationSlot = some y → 0 < y.ready) ∧
      (s 1 0 2).replyQueue.head? = some ⟨0, f⟩ ∧ (∀ y, (s 1 0 2).throughQueue.head? = some y → 0 < y.ready) ∧
      (s 2 1 0).stationSlot = some ⟨0, f⟩ ∧ (∀ y, (s 2 1 0).replyQueue.head? = some y → 0 < y.ready)) ∧
      (base.throughQueue = [] ∧ base.replyQueue = [] ∧ base.stationSlot = none ∧ base.downstreamQueue = [] ∧
        (s 3 3 3).throughQueue ≠ [] ∧ (s 0 1 2).downstreamQueue = f :: []) ∧
      quiet.timer ≠ .running ∧ quiet.stationSlot = some ⟨0, f⟩ ∧ quiet.replyQueue.head? = some ⟨1, f⟩ ∧
      (∀ y, quiet.throughQueue.head? = some y → 1 < y.ready) ∧ { quiet with throughQueue := [] }.throughQueue = [] := by
  refine ⟨⟨rfl, rfl, rfl, ?_, ?_, rfl, ?_, rfl, ?_⟩, ⟨rfl, rfl, rfl, rfl, by decide, rfl⟩, by decide, rfl, rfl, ?_, rfl⟩ <;>
    (intro y h; cases h; decide)

/-- DispatchCompletes, QuickStopAndCoastPassUnchanged and WrittenReferencesWithinAbsoluteLimit: 62 entries, 7 frames waiting, sections
in every state; the whole frame passing where no section rewrites. -/
theorem test_meets_dispatch :
    (let f : DispatchFrame := ⟨0, 9, List.replicate 61 (entry 12 .run 1000) ++ [entry 17 .coast 5]⟩
     let s := { mixed with downstreamQueue := List.replicate 7 (.dispatch f) }
     s.powered = true ∧ s.cycleOpen = true ∧ f.entries.length ≤ 62 ∧ s.downstreamQueue.length < 8 ∧ EngineHeld s ∧
       MembersConsistent s ∧ ConfigInRange s ∧ f.entries[61]? = some (entry 17 .coast 5)) ∧
    (∀ i : SecId, (base.sec i).state.rewriting = false) :=
  ⟨⟨by decide +kernel, by decide +kernel, by decide +kernel, by decide +kernel, mixed_engine, mixed_members, mixed_config,
    by decide +kernel⟩, by decide +kernel⟩

/-- DispatchCompletes, the frame: two entries of a rewritten node, and one of a node in no section. -/
theorem test_meets_rewrites :
    let f : List Entry := [entry 12 .run 1000, entry 40 .run 7, entry 12 .crawl 0]
    let formed := (mixed.formReferences f)
    (∃ w ∈ formed.rewrites, (entry 12 .run 1000).node.toNat = w.node.val + 1) ∧
      (∀ w ∈ formed.rewrites, (entry 40 .run 7).node.toNat ≠ w.node.val + 1) ∧
      f.map (Entry.rewrite formed.rewrites) =
        [{ entry 12 .run 1000 with speed := BitVec.ofInt 24 (mixed.sec 3).lineReference }, entry 40 .run 7,
          { entry 12 .crawl 0 with speed := BitVec.ofInt 24 (mixed.sec 3).lineReference }] := by decide +kernel

/-- A CALIBRATING group that holds the engine in a phase. -/
def calibratingAt (phase : Phase) : State :=
  { group .calibrating with engine := { Engine.free with holder := some 3, phase := some phase } }

/-- QuickStopAndCoastPassUnchanged, one section's check: a rewriting section with a COAST behind another entry, one without, one that holds the
engine, and a section that does not rewrite. -/
theorem test_meets_override :
    let entries := [entry 12 .run 0, entry 17 .coast 5, entry 18 .quickStop 5]
    let holding := calibratingAt .settleLow
    (∀ s ∈ [group .trial, holding], MembersConsistent s ∧ (s.sec 3).state.rewriting = true ∧ (1 : RecId) ∈ s.members 3 ∧
      (s.member 1).node = some 16) ∧ entries[1]? = some (entry 17 .coast 5) ∧ (entry 17 .coast 5).node.toNat = (16 : NodeId).val + 1 ∧
      overriding .run = false ∧ holding.engine.holder = some 3 ∧ (group .selected).members 3 = [0, 1, 2] ∧
      ((group .selected).sec 3).state.rewriting = false := by
  refine ⟨fun s hs => ⟨members_of_check _ ?_, ?_, ?_, ?_⟩, by decide +kernel⟩ <;> fin_cases hs <;> decide +kernel

/-- A COAST frees the engine of the section it hands back, with detail OVERRIDE. -/
theorem test_override_frees_engine :
    let t := State.overrideStep [entry 12 .run 0, entry 17 .coast 5] (calibratingAt .settleLow) 3
    (t.sec 3).state = .bypass ∧ t.engine = Engine.free ∧ (t.events.drop 1).map (fun e => (e.kind, e.node, e.value, e.detail)) =
      [(.calResult, none, some 1, 3), (.stateChange, some 16, some 0, 9)] := by decide +kernel

/-- A state whose watch point 2 stops a TRIAL section 3 at its second member's candidate, its held offsets not all 0. -/
def stopping (src : WatchSource) (mode : CompareMode) : State :=
  let s := (group .trial).modSec 3 fun x => { x with lineReference := 1000 }
  let s := s.modRec 1 fun r => { r with trim := 20, issued := 1005 }
  s.modWatch 2 fun p => { p with action := .stopOnMatch, node := 16, field := .reference, source := src, mode := mode, value := 1020 }

/-- The references of each state: TRIAL with no stop, FROZEN, CALIBRATING, a passing state, RELEASING before its end and at it. -/
theorem test_meets_references :
    let ended := mixed.modRec 3 fun r => { r with held := 500 }
    (mixed.sec 3).state = .trial ∧ (∀ w : WatchId, (mixed.watch w).action ≠ .stopOnMatch) ∧
      (mixed.sec 4).state = .frozen ∧ (mixed.sec 5).state = .calibrating ∧ (mixed.sec 8).state.rewriting = false ∧
      MembersConsistent mixed ∧ (mixed.sec 6).state = .releasing ∧ mixed.members 6 = [3] ∧ (mixed.member 3).held = 700 ∧
      (mixed.sec 6).cfg.releaseRate = 500 ∧ MembersConsistent ended ∧ (ended.sec 6).state = .releasing ∧
      (ended.member 3).held = 500 ∧ (ended.sec 6).releaseTarget = some .selected :=
  ⟨by decide +kernel, by decide +kernel, by decide +kernel, by decide +kernel, by decide +kernel, mixed_members, by decide +kernel,
    by decide +kernel, by decide +kernel, by decide +kernel, members_of_check _ (by decide +kernel), by decide +kernel,
    by decide +kernel, by decide +kernel⟩

/-- OtherStatesIssueTheirReferences and ReleasingDecaysAndEnds, the clamps: values above, at and below the absolute limit; an end to BYPASS
and a section that does not end, with an offset on each side of the release rate. -/
theorem test_meets_clamped_references :
    let frozen (held : Int) : State := ((group .frozen).modSec 3 fun x => { x with lineReference := 1000000 }).modRec 1
      fun r => { r with held := held }
    let set (phase : Phase) (high : Int) : State := (calibratingAt phase).modSec 3 fun x =>
      { x with cfg := { x.cfg with calHigh := high, absoluteLimit := 10000 } }
    (∀ s ∈ [frozen 100001, frozen 100000, frozen (-2100001)], MembersConsistent s ∧ (s.sec 3).state = .frozen) ∧
      ((frozen 100001).sec 3).cfg.absoluteLimit < ((frozen 100001).sec 3).lineReference + ((frozen 100001).member 1).held ∧
      ((frozen 100000).sec 3).lineReference + ((frozen 100000).member 1).held = ((frozen 0).sec 3).cfg.absoluteLimit ∧
      ((frozen 0).sec 3).lineReference + ((frozen (-2100001)).member 1).held < -((frozen 0).sec 3).cfg.absoluteLimit ∧
      ((frozen 0).member 1).clamp = .none ∧
      (∀ phase ∈ [Phase.settleLow, .settleHigh], ((set phase 20000).sec 3).state = .calibrating ∧
        (set phase 20000).engine.phase = some phase ∧ ((set phase 20000).sec 3).cfg.absoluteLimit < 20000) ∧
      (∀ target ∈ [ReleaseTarget.bypass, .selected], ∀ held ∈ [(500 : Int), -500, 501, -501],
        let s := (mixed.modRec 3 fun r => { r with held := held }).modSec 6 fun x => { x with releaseTarget := some target }
        (s.sec 6).state = .releasing ∧ (s.sec 6).releaseTarget = some target ∧ (s.sec 6).cfg.releaseRate = 500 ∧
          (s.member 3).held = held ∧ s.members 6 = [3]) ∧ EngineHeld mixed := by
  refine ⟨fun s hs => ⟨members_of_check _ ?_, ?_⟩, by decide +kernel, by decide +kernel, by decide +kernel, by decide +kernel,
    by decide +kernel, by decide +kernel, mixed_engine⟩ <;> fin_cases hs <;> decide +kernel

/-- TrialIssuesTrialReferences: the second member's candidate, 1,020, meets point 2 and no other candidate meets a point; its first entry
is the frame's second. -/
theorem test_meets_stopping_trial :
    MembersConsistent (stopping .any .equal) ∧ (∀ src ∈ [WatchSource.any, .only .issued],
      let s := stopping src .equal
      (s.sec 3).state = .trial ∧ (s.members 3)[1]? = some 1 ∧ s.members 3 = [0, 1, 2] ∧ (s.member 1).node = some (s.watch 2).node ∧
        (s.watch 2).action = .stopOnMatch ∧ (s.watch 2).source = src ∧ (s.watch 2).field = .reference ∧ (s.watch 2).mode = .equal ∧
        (s.watch 2).value = 1020 ∧
        (s.sec 3).lineReference + roundDiv ((s.sec 3).lineReference * (s.sec 3).cfg.drawOffset) 1000000 + (s.sec 3).profile.offset +
          (s.member 1).trim = 1020 ∧
        (∀ w : WatchId, w ≠ 2 → (s.watch w).action = .off) ∧ (s.member 0).node ≠ some (s.watch 2).node) ∧
      ([entry 12 .run 1000, entry 17 .run 1000, entry 17 .run 5][1]? = some (entry 17 .run 1000) ∧
        (entry 17 .run 1000).node.toNat = (16 : NodeId).val + 1 ∧ (entry 12 .run 1000).node.toNat ≠ (16 : NodeId).val + 1) :=
  ⟨members_of_check _ (by decide +kernel), by decide +kernel⟩

/-- The ISSUED stop: the section freezes with the offsets of the previous dispatch, and the point holds the candidate. -/
theorem test_issued_stop :
    let t := (Formed.takeSection [entry 17 .run 1000] ⟨stopping .any .above |>.modWatch 2 fun p => { p with value := 1019 }, [], []⟩ 3).state
    ((t.sec 3).state, (t.member 1).held, (t.member 1).issued, (t.watch 2).latchValue, (t.sec 3).freeze.sourceIndex) =
      (.frozen, 1005, 2005, 1020, some 2) := by decide +kernel

/-- A TRIAL section whose last dispatch issued 905 to its second member on a base of 900, and whose watch point 2 stops it at a RUN command of
that member. -/
def commandStopping (src : WatchSource) : State :=
  let s := (group .trial).modSec 3 fun x => { x with lineReference := 1000, issueBase := 900 }
  let s := s.modRec 1 fun r => { r with trim := 20, issued := 905 }
  s.modWatch 2 fun p => { p with action := .stopOnMatch, node := 16, field := .command, source := src, mode := .equal, value := 1 }

/-- TrialIssuesTrialReferences, a COMMAND point: the second entry of the second member is its first that matches, and no other point is set; a source that
the stop test does not take. -/
theorem test_meets_command_stop :
    (∀ src ∈ [WatchSource.any, .only .issued],
      let s := commandStopping src
      MembersConsistent s ∧ (s.sec 3).state = .trial ∧ (s.members 3)[1]? = some 1 ∧ (s.member 1).node = some (s.watch 2).node ∧
        (s.watch 2).action = .stopOnMatch ∧ (s.watch 2).source = src ∧ (s.watch 2).field = .command ∧ (s.watch 2).mode = .equal ∧
        (s.watch 2).value = (DriveCommand.run.code : Int) ∧ (∀ w : WatchId, w ≠ 2 → (s.watch w).action = .off) ∧
        (s.member 0).node ≠ some (s.watch 2).node) ∧
      [entry 17 .crawl 0, entry 12 .run 0, entry 17 .run 0][2]? = some (entry 17 .run 0) ∧
      (WatchSource.only .line).accepts .issued = false := by
  refine ⟨fun src hs => ⟨members_of_check _ ?_, ?_⟩, by decide +kernel⟩ <;> fin_cases hs <;> decide +kernel

/-- An ISSUED COMMAND stop freezes the section before the entry is written: this dispatch carries B plus the offsets of the one before, and
the point does not see that entry again. -/
theorem test_issued_command_stop :
    let t := after (exec (.dispatch ⟨0, 5, [entry 12 .run 1000, entry 17 .run 0]⟩) (commandStopping (.only .issued)))
    ((t.sec 3).state, (t.member 1).held, (t.member 1).issued, (t.watch 2).hitCount, (t.watch 2).latchValue) = (.frozen, 5, 1005, 1, 1) ∧
      (t.downstreamQueue.map fun f => match f with
        | .dispatch g => (g.entries.map fun e => e.speed.toInt)[1]?
        | _ => none) = [some 1005] := by decide +kernel

/-- The REFERENCE test comes first: a REFERENCE point of a higher number stops the section although a COMMAND point matches on an earlier
entry; the COMMAND match is then a hit without a request. -/
theorem test_reference_stop_precedes_command :
    let s := (commandStopping (.only .issued)).modWatch 3 fun p => { p with
      action := .stopOnMatch, node := 17, field := .reference, source := .only .issued, mode := .equal, value := 1000 }
    let t := after (exec (.dispatch ⟨0, 5, [entry 12 .run 1000, entry 17 .run 0, entry 18 .run 0]⟩) s)
    ((t.sec 3).state, (t.sec 3).freeze.sourceIndex, (t.watch 3).latchValue, (t.watch 2).hitCount) = (.frozen, some 3, 1000, 1) ∧
      (t.events.drop 1).map (fun e => (e.kind, e.node, e.detail)) =
        [(.watchHit, some 17, 3), (.stateChange, some 17, 1), (.watchHit, some 16, 2)] := by decide +kernel

/-- LineReferenceIsTakenOrMissed: an empty section, an entry, a miss below the limit, one that reaches it, one at the end of the count, and
a section that holds the engine. -/
theorem test_meets_LineReferenceIsTakenOrMissed :
    let lost (n : Nat) : State := (group .selected).modSec 3 fun x => { x with lineMiss := n }
    let held : State := { (group .calibrating).modSec 3 fun x => { x with lineMiss := 2 } with
      engine := { Engine.free with holder := some 3, phase := some .settleLow } }
    base.members 3 = [] ∧ (group .selected).members 3 = 0 :: [1, 2] ∧
      ([entry 12 .run 7].find? fun e => e.node.toNat = ((group .selected).memberNode 0).val + 1) = some (entry 12 .run 7) ∧
      ([entry 17 .run 7].find? fun e => e.node.toNat = ((group .selected).memberNode 0).val + 1) = none ∧
      ¬ ((group .selected).sec 3).cfg.missLimit ≤ 1 ∧ (lost 2).members 3 = 0 :: [1, 2] ∧ ((lost 2).sec 3).cfg.missLimit ≤ 3 ∧
      ((lost 2).sec 3).state = .selected ∧ ¬ ((lost 15).sec 3).lineMiss < 15 ∧ ((lost 15).sec 3).cfg.missLimit ≤ 15 ∧
      held.engine.holder = some 3 ∧ held.members 3 = 0 :: [1, 2] ∧ (held.sec 3).cfg.missLimit ≤ 3 := by decide +kernel

/-- CloseCountsMissingAndOpensSets: a member fresh and one not, a node in no section, a set open and one evaluated. -/
theorem test_meets_CloseCountsMissingAndOpensSets :
    let fresh := mixed.modDrive 11 fun d => { d with feedback := { d.feedback with fresh := true } }
    let s := fresh.modSec 6 fun x => { x with evaluated := true }
    MembersConsistent s ∧ (s.drive 11).inSection = some 3 ∧ (s.drive 11).feedback.fresh = true ∧ (s.drive 16).inSection = some 3 ∧
      (s.drive 16).feedback.fresh = false ∧ (s.drive 0).inSection = none ∧ s.members 3 ≠ [] ∧ (s.sec 3).evaluated = false ∧
      (s.sec 6).evaluated = true ∧ s.members 9 = [] :=
  ⟨members_of_check _ (by decide +kernel), by decide +kernel, by decide +kernel, by decide +kernel, by decide +kernel,
    by decide +kernel, by decide +kernel, by decide +kernel, by decide +kernel, by decide +kernel⟩

/-- A group at the close of cycle 5, its first member fresh, its second with a missing count, its third with the greatest. -/
def closing (st : SectionState) (missing : Nat) (evaluated : Bool) : State :=
  let s := (collecting st evaluated).modDrive 16 fun d => { d with feedback := { d.feedback with fresh := false, missing := missing } }
  s.modDrive 17 fun d => { d with feedback := { d.feedback with missing := 15 } }

/-- CloseCountsMissingAndOpensSets, one section's close: a set evaluated and not, complete and not; a second member that reaches the miss limit
and one that does not, and a third at the end of the count; sections that can fault and that cannot; a section that holds the engine. -/
theorem test_meets_closes :
    (∀ st ∈ [SectionState.selected, .trial, .bypass, .faulted, .calibrating], ∀ missing ∈ [1, 2, 15], ∀ evaluated ∈ [false, true],
      let s := closing st missing evaluated
      s.members 3 ≠ [] ∧ (s.sec 3).state = st ∧ (s.sec 3).evaluated = evaluated ∧ (s.sec 3).cfg.missLimit = 3 ∧
        (s.memberFeedback 0).fresh = true ∧ (s.memberFeedback 1).fresh = false ∧ (s.memberFeedback 1).missing = missing ∧
        (s.memberFeedback 2).fresh = false ∧ (s.memberFeedback 2).missing = 15 ∧ s.members 3 = [0, 1, 2]) ∧
      MembersConsistent (closing .selected 2 false) ∧
      (∀ r ∈ (group .selected).members 3, ((group .selected).memberFeedback r).missing = 0) ∧
      (calibratingAt .sampleLow).engine.holder = some 3 :=
  ⟨by decide +kernel, members_of_check _ (by decide +kernel), by decide +kernel, by decide +kernel⟩

/-- The close faults the section with FEEDBACK_LOST, naming the first member lost; in BYPASS it only counts. -/
theorem test_feedback_lost :
    let t (st : SectionState) (missing : Nat) : State := State.closeSet 5 (closing st missing false) 3
    let named (s : State) : Option (Option NodeId × Option Pos × Nat) := s.events.getLast?.map fun e => (e.node, e.position, e.detail)
    (((t .selected 2).sec 3).faultCode = some .feedbackLost ∧ named (t .selected 2) = some (some 16, some 1, 13) ∧
      ((t .selected 2).memberFeedback 1).missing = 3) ∧
      named (t .selected 1) = some (some 17, some 2, 13) ∧ ((t .bypass 2).sec 3).state = .bypass ∧
      ((t .selected 1).sec 3).lastSet = some ⟨5, false, some 16⟩ := by decide +kernel

/-- ProfileOffsetOfEachSegmentKind: the first and last cycles of each kind. -/
theorem test_meets_ProfileOffsetOfEachSegmentKind :
    ∀ kind ∈ [SegmentKind.hold, .ramp, .step, .square], ∀ k ∈ [1, 65535],
      let g : Segment := ⟨65535, 200000, kind⟩
      1 ≤ k ∧ k ≤ g.length ∧ (g.kind = .hold ∨ g.kind = .step ∨ g.kind = .ramp ∨ g.kind = .square) := by decide

/-- A TRIAL section in a profile of two segments, at a position, with an end action and its drives running or not. -/
def profiling (running : BitVec 5) (idx cycle pass : Nat) (step? : Bool) (a : EndAction) : State :=
  let s := (reported (group .trial) running).modSegment 0 fun _ => ⟨3, 20000, .ramp⟩
  let s := s.modSegment 1 fun _ => ⟨3, 30000, .step⟩
  s.modSec 3 fun x => { x with
    cfg := { x.cfg with profileLength := 2, repeatCount := 1, endAction := a, gateHoldLimit := 1 }
    profile := { x.profile with segmentIndex := idx, cycleCount := cycle, pass := pass, stepPending := step? } }

/-- DispatchCompletes, the late requests: a GATE request with a STOP_ON_CHANGE request of the same dispatch, each without the other, and
sections in a state that takes a request and in one that does not. -/
theorem test_meets_late_requests :
    let quiet := profiling 1 0 2 0 false .hold
    let both := quiet.modWatch 0 fun p => { p with action := .stopOnChange, node := 16, lastSeen := 5, lastSeenFlag := true }
    let f : DispatchFrame := ⟨0, 9, [entry 12 .run 0, entry 17 .run 6]⟩
    let line (s : State) : Watched := (s.startCycle f.cycle).lineArrival f.entries
    let late (s : State) : List LateRequest := ((line s).state.cycleWork s.previousCycle f.entries).advanceProfiles.late
    late both = [.freeze 3 .gate none none none] ∧ (line both).late = [.freeze 3 .watch (some 0) (some 16) (some 1)] ∧
      late quiet ≠ [] ∧ (line quiet).late = [] ∧ late (profiling 3 0 2 0 false .hold) = [] ∧ (quiet.sec 3).state = .trial ∧
      (mixed.sec 4).state = .frozen ∧ (mixed.sec 8).state ≠ .trial ∧ (mixed.sec 8).state ≠ .frozen := by decide +kernel

/-- The end of a segment triggers the capture; at the end of the profile the CAPTURE_DONE of a LOOP with post count 0 stands before
PROFILE_END (R106, R108). -/
theorem test_segment_boundary :
    let caught (m : CaptureMode) (x : CaptureState) (s : State) : State := s.modCapture fun c =>
      { c with mode := m, state := x, triggerKind := .segmentBoundary, triggerIndex := 3, postCount := 0 }
    ((caught .triggered .waiting (profiling 3 0 3 0 false .hold)).advanceProfile 3).state.capture.state = .running ∧
      (((caught .loop .running (profiling 3 1 3 1 false .reload)).advanceProfile 3).state.events.drop 1).map (fun e => (e.kind, e.detail)) =
        [(.captureDone, 1), (.profileEnd, 1)] := by decide +kernel

/-- ProfileAdvancesOneCycle: a closed gate at its limit, a cycle within the segment, and the end of the segment, in a step run and
not. -/
theorem test_meets_ProfileAdvancesOneCycle :
    let s (running : BitVec 5) (cycle : Nat) (step? : Bool) : State := profiling running 0 cycle 0 step? .hold
    ((s 3 2 false).sec 3).state = .trial ∧ ((s 3 2 false).sec 3).profile.finished = false ∧ (s 1 2 false).gateOpen 3 = false ∧
      (s 3 2 false).gateOpen 3 = true ∧ ((s 3 2 false).sec 3).profile.cycleCount < ((s 3 2 false).segment 0).length ∧
      ((s 3 3 true).segment 0).length ≤ ((s 3 3 true).sec 3).profile.cycleCount ∧
      ((s 3 3 true).sec 3).profile.segmentIndex + 1 < ((s 3 3 true).sec 3).cfg.profileLength ∧
      ((s 3 3 true).sec 3).profile.stepPending = true ∧ ((s 3 3 false).sec 3).profile.stepPending = false ∧
      ((group .frozen).sec 3).state ≠ .trial ∧
      (((s 3 2 false).modProfile 3 fun q => { q with finished := true }).sec 3).profile.finished = true := by decide +kernel

/-- ProfileEndAction: the last segment of the first pass and of the last, with each end action. -/
theorem test_meets_ProfileEndAction :
    ∀ a ∈ [EndAction.hold, .reload, .release], ∀ pass ∈ [0, 1],
      let s := profiling 3 1 3 pass false a
      (s.sec 3).state = .trial ∧ (s.sec 3).profile.finished = false ∧ s.gateOpen 3 = true ∧
        (s.segment ((s.sec 3).cfg.profileStart + (s.sec 3).profile.segmentIndex)).length ≤ (s.sec 3).profile.cycleCount ∧
        (s.sec 3).cfg.profileLength ≤ (s.sec 3).profile.segmentIndex + 1 ∧ (s.sec 3).cfg.endAction = a ∧
        (if pass = 0 then (s.sec 3).profile.pass < (s.sec 3).cfg.repeatCount
          else (s.sec 3).cfg.repeatCount ≤ (s.sec 3).profile.pass) ∧ s.capture.triggerKind ≠ .segmentBoundary := by
  decide +kernel

/-- A CALIBRATING group that holds the engine. -/
def calibrating (phase : Phase) (settled : Nat) (lineRef : Int) : State :=
  let s := (calibratingAt phase).modSec 3 fun x => { x with lineReference := lineRef }
  { s with engine := { s.engine with settleCount := settled } }

/-- EngineSettlesOrAbandons: above the crawl limit and at it, a phase that settles and one that has settled, the sample phases one set
below the last and at it, and a skip count below its limit and at it. -/
theorem test_meets_EngineSettlesOrAbandons :
    let s := calibrating .settleLow 199 100000
    let sampled (p : Phase) (n skips : Nat) : State := { calibrating p 200 0 with
      engine := { (calibrating p 200 0).engine with sampleCount := n, skipCount := skips } }
    s.engine.holder = some 3 ∧ (s.sec 3).state = .calibrating ∧ ((s.sec 3).lineReference.natAbs : Int) ≤ (s.sec 3).cfg.crawlLimit ∧
      s.engine.phase = some .settleLow ∧ s.engine.settleCount < (s.sec 3).cfg.settleCycles ∧
      ((s.sec 3).cfg.settleCycles ≤ (calibrating .settleHigh 200 0).engine.settleCount) ∧
      (calibrating .settleHigh 200 0).engine.phase = some .settleHigh ∧
      (s.sec 3).cfg.crawlLimit < (((calibrating .settleLow 0 (-100001)).sec 3).lineReference.natAbs : Int) ∧
      ∀ p ∈ [Phase.sampleLow, .sampleHigh],
        (sampled p 0 0).engine.holder = some 3 ∧ (sampled p 0 0).engine.phase = some p ∧
          2 ^ ((sampled p 0 0).sec 3).cfg.sampleExponent = 64 ∧ (sampled p 62 0).engine.sampleCount + 1 < 64 ∧
          64 ≤ (sampled p 63 0).engine.sampleCount + 1 ∧ ((sampled p 0 0).sec 3).state = .calibrating ∧
          (sampled p 0 63).engine.skipCount + 1 ≤ 64 ∧ 64 < (sampled p 0 64).engine.skipCount + 1 := by decide +kernel

/-- A CALIBRATING group at the end of its samples, 4 of each point: its lead's average speeds and those of its two followers. -/
def sampled (leadHigh followerHigh : Int) : State :=
  let s := (calibrating .compute 200 0).modSec 3 fun x => { x with cfg := { x.cfg with sampleExponent := 2 } }
  { s with engine := { s.engine with
    leadLow := 4 * 50010, leadHigh := 4 * leadHigh, followerLow := #v[4 * 50500, 4 * 49600, 0]
    followerHigh := #v[4 * 151510, 4 * followerHigh, 0] } }

/-- CalibrationWritesAllOrNothing: a holder whose followers all have values, one whose second follower fails after the first has not, and
one whose lead's spread fails. -/
theorem test_meets_CalibrationWritesAllOrNothing :
    (∀ s ∈ [sampled 150030 148800, sampled 150030 50599, sampled 51009 148800],
      s.engine.holder = some 3 ∧ s.members 3 = 0 :: [1, 2] ∧ [(1 : RecId), 2].length ≤ 3) ∧
      MembersConsistent (sampled 150030 148800) ∧
      (sampled 150030 148800).computeCal 3 = .ok [⟨16, 16223, -6⟩, ⟨17, 16519, -1⟩] ∧
      (sampled 150030 50599).computeCal 3 = .error (.spread 17 (some 2) 999) ∧
      (sampled 51009 148800).computeCal 3 = .error (.spread 11 (some 0) 999) ∧
      followerCal 16 (some 1) 50500 151510 50010 150030 = .ok ⟨16, 16223, -6⟩ ∧
      followerCal 17 (some 2) 49600 50599 50010 150030 = .error (.spread 17 (some 2) 999) :=
  ⟨by decide +kernel, members_of_check _ (by decide +kernel), by decide +kernel⟩

/-- BalancerStoresImbalancesAndTrims: a set that updates the trims, and one in SELECTED that does not. -/
theorem test_meets_BalancerStoresImbalancesAndTrims :
    let s := (group .trial).modSec 3 fun x => { x with cfg := { x.cfg with shareGain := 32 } }
    MembersConsistent s ∧ (s.sec 3).state = .trial ∧ (s.sec 3).startPending = false ∧ 0 < (s.sec 3).cfg.shareGain ∧
      MembersConsistent (group .selected) ∧ ((group .selected).sec 3).state ≠ .trial :=
  ⟨members_of_check _ (by decide +kernel), by decide +kernel, by decide +kernel, by decide +kernel,
    members_of_check _ (by decide +kernel), by decide +kernel⟩

/-- LimitAndZeroCrossTables: a limit and a sign memory in each state, values at both sides of the threshold and the band. -/
theorem test_meets_LimitAndZeroCrossTables :
    let l (st : LimitState) (n : Nat) : Limit := ⟨700, 2, .event, st, n⟩
    let m (sg : SignMemory) (n : Nat) : Monitor := { Monitor.powerOn with sign := sg, zeroCross := n }
    ((l .inside 0).threshold ≠ 0 ∧ (l .inside 0).threshold < 701 ∧ (l .inside 0).counter + 1 < (l .inside 0).dwell) ∧
      (l .inside 1).dwell ≤ (l .inside 1).counter + 1 ∧ ¬ (l .outside 2).threshold < 700 ∧ (l .outside 2).state = .outside ∧
      0 ≤ (m .negative 255).band ∧ (m .negative 255).zeroCross ≤ 255 ∧ (m .negative 255).band < 501 ∧
      -501 < -(m .positive 254).band ∧ (m .none 0).sign = .none ∧ -(m .none 0).band ≤ -500 ∧ 500 ≤ (m .none 0).band := by
  decide

/-- A group whose lead's error crosses to positive, with an action, an oscillation limit and a fired flag. -/
def crossingGroup (st : SectionState) (a : LimitAction) (limit : Nat) (fired : Bool) : State :=
  let s := (group st).modDrive 11 fun d => { d with feedback := { d.feedback with calibratedSpeed := 501 } }
  s.modMonitor 3 fun m => { m with
    sign := .negative, zeroCross := 3, oscillationLimit := limit, oscillationAction := a, fired := fired }

/-- LimitAndZeroCrossTables, the zero-cross step: a crossing that fires with each action, one below the limit, one with limit 0, one fired
before; a section in another state, one start-pending and an empty one. -/
theorem test_meets_oscillation :
    (∀ a ∈ [LimitAction.event, .freeze, .release, .abort],
      let s := crossingGroup .trial a 4 false
      let step := (s.sec 3).monitor.crossing ((s.memberFeedback 0).calibratedSpeed - (s.member 0).issued)
      EngineHeld s ∧ s.members 3 = 0 :: [1, 2] ∧ (s.sec 3).state = .trial ∧ (s.sec 3).startPending = false ∧ step.2 = true ∧
        step.1.oscillationLimit = 4 ∧ step.1.zeroCross = 4 ∧ step.1.fired = false ∧ step.1.oscillationAction = a) ∧
      (let m := ((crossingGroup .trial .freeze 5 false).sec 3).monitor
       m.oscillationLimit = 5 ∧ (m.crossing 501).1.zeroCross = 4 ∧ (m.crossing 500).2 = false) ∧
      ((crossingGroup .trial .freeze 0 false).sec 3).monitor.oscillationLimit = 0 ∧
      ((crossingGroup .trial .freeze 4 true).sec 3).monitor.fired = true ∧ ((crossingGroup .frozen .abort 4 false).sec 3).state ≠ .trial ∧
      base.members 3 = [] := by
  refine ⟨fun a ha => ⟨?_, ?_⟩, by decide +kernel⟩
  · unfold EngineHeld; fin_cases ha <;> decide +kernel
  · fin_cases ha <;> decide +kernel

/-- OSCILLATION is posted with the count and the action's code, and its freeze names the lead. -/
theorem test_oscillation :
    let t := (crossingGroup .trial .freeze 4 false).zeroCrossStep 3 5
    ((t.sec 3).state, (t.sec 3).freeze.cause, (t.sec 3).monitor.fired) = (.frozen, some .oscillation, true) ∧
      (t.events.drop 1).map (fun e => (e.kind, e.node, e.value, e.detail)) =
        [(.oscillation, some 11, some 4, 1), (.stateChange, some 11, some 3, 3)] := by decide +kernel

/-- A group whose limit of a kind compares 730 for the second member and 0 for the others, with an action, in a limit state. -/
def overKind (kind : LimitKind) (st : SectionState) (a : LimitAction) (x : LimitState) (threshold : Int) : State :=
  let s := ((group st).modDrive 16 fun d => { d with feedback := { d.feedback with signedLoad := 730, calibratedSpeed := -730 } }).modRec 1
    fun r => { r with imbalance := -730 }
  s.modMonitor 3 fun m => m.setLimit kind ⟨threshold, 2, a, x, 1⟩

/-- LimitOutsidePostsAndRequests: each kind going OUTSIDE, with each action in states that take its request and in one that does not, and
coming back INSIDE. -/
theorem test_meets_LimitOutsidePostsAndRequests :
    ∀ kind ∈ [LimitKind.speedError, .imbalance, .loadHigh],
      (∀ a ∈ [LimitAction.event, .freeze, .release, .abort], ∀ st ∈ [SectionState.trial, .frozen, .selected],
        let s := overKind kind st a .inside 700
        let l := (s.sec 3).monitor.limit kind
        (s.members 3)[1]? = some 1 ∧ s.members 3 = [0, 1, 2] ∧ s.comparedOf kind 0 < s.comparedOf kind 1 ∧
          s.comparedOf kind 2 ≤ s.comparedOf kind 1 ∧ l.state = .inside ∧ l.threshold ≠ 0 ∧ l.threshold < s.comparedOf kind 1 ∧
          l.dwell ≤ l.counter + 1 ∧ l.action = a ∧ (s.sec 3).state = st) ∧
      (let s := overKind kind .trial .freeze .outside 730
       ((s.sec 3).monitor.limit kind).state = .outside ∧ ¬ ((s.sec 3).monitor.limit kind).threshold < s.comparedOf kind 1) ∧
      (let l := ((overKind kind .trial .event .outside 729).sec 3).monitor.limit kind
       l.state = .outside ∧ l.threshold ≠ 0 ∧ l.threshold < 730) ∧
      (let l := (((overKind kind .trial .event .inside 729).modMonitor 3 fun m =>
         m.setLimit kind { m.limit kind with dwell := 3 }).sec 3).monitor.limit kind
       l.state = .inside ∧ l.threshold < 730 ∧ l.counter + 1 < l.dwell) ∧
      (((overKind kind .trial .event .inside 0).sec 3).monitor.limit kind).threshold = 0 ∧ base.members 3 = [] := by
  decide +kernel

/-- A limit's ABORT posts LIMIT_OUT and then the STATE_CHANGE, with the entry effects of BYPASS; its RELEASE forms the held offsets. -/
theorem test_limit_actions :
    let t (a : LimitAction) : State := ((overKind .loadHigh .trial a .inside 700).modRec 1 fun r => { r with issued := 40, trim := 9 }).evaluateLimit
      3 7 .loadHigh
    let told (s : State) : List (EventKind × Option Int × Nat) := (s.events.drop 1).map fun e => (e.kind, e.value, e.detail)
    ((t .abort).sec 3).state = .bypass ∧ ((t .abort).member 1).trim = 0 ∧
      told (t .abort) = [(.limitOut, some 730, 2), (.stateChange, some 0, 10)] ∧
      ((t .release).sec 3).state = .releasing ∧ ((t .release).member 1).held = 40 ∧
      told (t .release) = [(.limitOut, some 730, 2), (.stateChange, some 5, 2)] := by decide +kernel

/-- A TRIAL group watched by point 0 on node 17. -/
def watching (a : WatchAction) (seen : Option Int) : State :=
  (group .trial).modWatch 0 fun p => { p with
    action := a, node := 16, mode := .above, value := 100, lastSeen := seen.getD 0, lastSeenFlag := seen.isSome, hitCount := 65535 }

/-- WatchOccurrenceHitsAndLatches: each action, a change seen late and now, a value not seen before, a section in another state, a point that
is OFF, watches another node or another source, and an entry and a value of a watched node. -/
theorem test_meets_WatchOccurrenceHitsAndLatches :
    let changed := watching .stopOnChange (some 5)
    (∀ a ∈ [WatchAction.monitor, .stopOnChange, .stopOnMatch], ((watching a none).watch 0).action = a ∧ a ≠ .off ∧
      ((watching a none).watch 0).hitCount = 65535) ∧
      ((changed.watch 0).lastSeenFlag = true ∧ (6 : Int) ≠ (changed.watch 0).lastSeen ∧
        (changed.drive (changed.watch 0).node).inSection = some 3 ∧ (changed.sec 3).state = .trial ∧
        changed.capture.triggerKind ≠ .watch) ∧
      (((watching .stopOnMatch none).watch 0).mode = .above ∧ ((watching .stopOnMatch none).watch 0).value < 101 ∧
        ¬ ((watching .stopOnMatch none).watch 0).value < 100) ∧
      ((watching .stopOnChange none).watch 0).lastSeenFlag = false ∧
      ((changed.modSec 3 fun x => { x with state := .selected }).sec 3).state ≠ .trial ∧
      ((watching .off none).watch 0).action = .off ∧ (changed.watch 0).node ≠ 17 ∧ (changed.watch 0).source = .only .line ∧
      ([(WatchField.reference, (7 : Int))].find? fun x => x.1 = (changed.watch 0).field) = some (.reference, 7) ∧
      ([(WatchField.load, (7 : Int))].find? fun x => x.1 = (changed.watch 0).field) = none ∧
      (entry 17 .run 7).node.toNat = (16 : NodeId).val + 1 ∧ (entry 40 .run 7).node.toNat = (39 : NodeId).val + 1 ∧
      (∀ n : NodeId, (entry 63 .run 7).node.toNat ≠ n.val + 1) ∧ [((0 : WatchId), 4)].find? (fun x => x.2 = 4) = some (0, 4) ∧
      changed.recordOf 39 = none ∧ changed.recordOf 16 = some 1 := by decide +kernel

/-- A STOP_ON_CHANGE hit on a DRIVE value freezes at once; one on a LINE value leaves its request for after the references; an OFF point
keeps its last-seen value. -/
theorem test_stop_on_change :
    let s := watching .stopOnChange (some 5)
    let p (c : ChangeStop) : Watched := Watched.point ⟨s, []⟩ 16 .line [(.reference, 6)] c 0
    let off := Watched.point ⟨watching .off none, []⟩ 16 .line [(.reference, 6)] .now 0
    ((p .now).state.sec 3).state = .frozen ∧ (p .now).late = [] ∧ ((p .late).state.sec 3).state = .trial ∧
      (p .late).late = [.freeze 3 .watch (some 0) (some 16) (some 1)] ∧ (off.state.watch 0).lastSeenFlag = false := by decide +kernel

/-- CaptureBufferReadsBackWhatIsWritten, a record: an empty buffer, a full LOOP ring before and after its first turn, a full ONCE buffer. -/
theorem test_meets_CaptureBufferReadsBackWhatIsWritten :
    let s (count index : Nat) (wrapped : Bool) (m : CaptureMode) : State := { base with
      capture := { CaptureControl.powerOn with recordCount := count, writeIndex := index, wrapped := wrapped, mode := m } }
    BufferWithinBounds (s 0 0 false .once) ∧ BufferWithinBounds (s 1023 1023 false .once) ∧
      BufferWithinBounds (s 1024 0 false .loop) ∧ BufferWithinBounds (s 1024 1023 true .loop) ∧
      BufferWithinBounds (s 1024 0 false .once) := by
  refine ⟨?_, ?_, ?_, ?_, ?_⟩ <;> (unfold BufferWithinBounds; decide +kernel)

/-- A capture of two items in a mode and a state, its record count and sweeps remaining as given. -/
def capturing (m : CaptureMode) (x : CaptureState) (k : SweepKind) (count remaining : Nat) : State :=
  let s := (base.modItem 0 fun c => { c with enable := true }).modItem 1 fun c => { c with enable := true, source := .issued }
  s.modCapture fun c => { c with
    mode := m, state := x, sweep := k, recordCount := count, writeIndex := count % 1024, remaining := remaining, nextItem := 1 }

/-- CaptureBufferReadsBackWhatIsWritten, a sweep: both kinds in each mode, below and at the fill of the buffer, before and at the last
sweep of a run and of a post, and the states that take none. -/
theorem test_meets_sweeps :
    (∀ m ∈ [CaptureMode.once, .triggered], ∀ k ∈ [SweepKind.simultaneous, .sequential],
      let low := capturing m .running k 0 2
      let full := capturing m .running k 1023 1
      low.capture.state = .running ∧ low.capture.mode = m ∧ low.capture.sweep = k ∧
        (low.captureList.toList.takeWhile (·.enable)).length = 2 ∧
        (low.captureList.toList.takeWhile (·.enable))[low.capture.nextItem]?.isSome = true ∧
        (low.takeSweep ⟨[], [], none⟩).capture.recordCount ≠ 1024 ∧ (full.takeSweep ⟨[], [], none⟩).capture.recordCount = 1024) ∧
      (capturing .loop .running .sequential 0 0).capture.state = .running ∧
      (capturing .loop .post .sequential 0 2).capture.remaining - 1 ≠ 0 ∧
      (capturing .loop .post .sequential 0 1).capture.remaining - 1 = 0 ∧
      (capturing .loop .post .sequential 0 1).capture.state = .post ∧
      (∀ x ∈ [CaptureState.idle, .waiting, .done], (capturing .once x .sequential 0 0).capture.state = x ∧ x ≠ .running ∧ x ≠ .post) := by
  decide +kernel

/-- CaptureBufferReadsBackWhatIsWritten, the values: a lead, a member that is no lead, a node in no section, each with an entry and
without one; and a trigger that matches and one that does not, in each mode that takes it. -/
theorem test_meets_capture_values :
    (let s := group .trial
     MembersConsistent s ∧ (0 : RecId) ∈ s.members 3 ∧ (s.member 0).node = some 11 ∧ (s.members 3).head? = some 0 ∧
       (1 : RecId) ∈ s.members 3 ∧ (s.member 1).node = some 16 ∧ (s.members 3).head? ≠ some 1 ∧ (s.drive 39).inSection = none ∧
       ([entry 12 .run 7].find? fun e => e.node.toNat = (11 : NodeId).val + 1) = some (entry 12 .run 7) ∧
       ([entry 12 .run 7].find? fun e => e.node.toNat = (39 : NodeId).val + 1) = none) ∧
      (let c := (capturing .triggered .waiting .sequential 0 0).capture
       c.triggerKind = .command ∧ c.mode = .triggered ∧ c.state = .waiting) ∧
      (∀ post ∈ [0, 1],
        let c := ((capturing .loop .running .sequential 0 0).modCapture fun c =>
          { c with triggerKind := .limit, triggerIndex := 3, postCount := post }).capture
        c.triggerKind = .limit ∧ c.triggerIndex = 3 ∧ c.triggerIndex ≠ 4 ∧ c.mode = .loop ∧ c.state = .running ∧ c.postCount = post) :=
  ⟨⟨members_of_check _ (by decide +kernel), by decide +kernel⟩, by decide +kernel, by decide +kernel⟩

/-- A sweep of two items writes a record of each, and the 1,024th record ends a ONCE capture. -/
theorem test_sweep :
    let v : FrameView := ⟨[entry 1 .run 7], [entry 1 .run 9], none⟩
    let t := (capturing .once .running .simultaneous 0 0).takeSweep v
    (t.logicalRecord 0, t.logicalRecord 1, t.capture.recordCount) = (⟨0, some 0, 7, false⟩, ⟨0, some 1, 9, false⟩, 2) ∧
      ((capturing .once .running .simultaneous 1023 0).takeSweep v).capture.state = .done := by decide +kernel

/-- PostAppendsOrMarksOverflow: 31 records, and 32. -/
theorem test_meets_PostAppendsOrMarksOverflow :
    let s (n : Nat) : State := { base with events := List.replicate n Event.powerOn }
    (s 31).events.length < 32 ∧ (s 32).events = List.replicate 31 Event.powerOn ++ [Event.powerOn] ∧ 32 ≤ (s 32).events.length := by
  decide +kernel

/-- ServiceChecksInOrder: a code and a level that are unknown, a row of the table, and counts below and above it. -/
theorem test_meets_ServiceChecksInOrder :
    (let s := asking base 2 1 []
     s.powered = true ∧ s.replyQueue.length < 4 ∧ s.requests.head? = some (ask 2 1 []) ∧ 1 < (ask 2 1 []).level.toNat) ∧
      (serviceRows.all fun row => decide ((ask 1 10 []).code.toNat ≠ row.code)) = true ∧
      ((serviceRows.map fun row => row.code).contains 24) = true ∧
      Takes (asking base 1 24 []) (ask 1 24 []) 24 .commission ∧ (asking base 1 24 []).permit = true ∧
      (ask 1 24 []).operands.length < 1 ∧ Takes (asking State.reset 1 24 []) (ask 1 24 []) 24 .commission ∧
      State.reset.permit = false ∧ Takes (asking base 0 2 [1, 2]) (ask 0 2 [1, 2]) 2 .observe :=
  ⟨by decide +kernel, by decide +kernel, by decide +kernel, ⟨by decide, by decide, rfl, rfl, rfl⟩, rfl, by decide,
    ⟨by decide, by decide, rfl, rfl, rfl⟩, rfl, ⟨by decide, by decide, rfl, rfl, rfl⟩⟩

/-- ReadsReturnTheRun and CursorsStepThroughTables: a run of 16 from the last field of a table of one entry, an index below 0, a cursor
at that field. -/
theorem test_meets_reads :
    (TakesObserve (asking base 0 1 [8, 0, 11, 16]) (ask 0 1 [8, 0, 11, 16]) 1 .observe ∧
      operandValues (ask 0 1 [8, 0, 11, 16]) = [8, 0, 11, 16]) ∧
    (TakesObserve (asking base 0 3 [10, 0, -5, 4, 1]) (ask 0 3 [10, 0, -5, 4, 1]) 3 .observe ∧
      operandValues (ask 0 3 [10, 0, -5, 4, 1]) = [10, 0, -5, 4, 1] ∧ 4 < tableFields 10 ∧ 0 < tableEntries 10) ∧
    (TakesObserve (asking base 0 4 [9, 1023, 3]) (ask 0 4 [9, 1023, 3]) 4 .observe ∧
      operandValues (ask 0 4 [9, 1023, 3]) = [9, 1023, 3] ∧ 1023 < tableEntries 9 ∧ 3 < tableFields 9) ∧
    (let s := { asking base 0 5 [16] with observeCursor := ⟨8, 0, 11⟩ }
     TakesObserve s (ask 0 5 [16]) 5 .observe ∧ CursorsExist s ∧ operandValues (ask 0 5 [16]) = [16]) := by
  refine ⟨⟨takesO _ _ _ (by decide), by decide⟩, ⟨takesO _ _ _ (by decide), by decide⟩, ⟨takesO _ _ _ (by decide), by decide⟩,
    ⟨⟨by decide, by decide, rfl, rfl, rfl⟩, fun e => nomatch e⟩, ?_, by decide⟩
  unfold CursorsExist Cursor.exists'; decide

/-- ReadsReturnTheRun, CursorsStepThroughTables and WritesStopAtFirstRefusal, the refusals: tables 0 and 11, an entry and a field below 0 and
past the last, the last that exist; counts 0 and 17; requests that carry them. -/
theorem test_meets_bad_addresses :
    ¬ Addressed 0 0 0 ∧ ¬ Addressed 11 0 0 ∧ ¬ Addressed 1 (-1) 0 ∧ ¬ Addressed 1 16 0 ∧ ¬ Addressed 1 15 (-1) ∧ ¬ Addressed 1 15 42 ∧
      Addressed 1 15 41 ∧ Addressed 10 0 4 ∧
      (∀ count ∈ [(0 : Int), 17], TakesObserve (asking base 0 1 [1, 16, 0, count]) (ask 0 1 [1, 16, 0, count]) 1 .observe ∧
        operandValues (ask 0 1 [1, 16, 0, count]) = [1, 16, 0, count] ∧ operandValues (ask 0 5 [count]) = [count]) ∧
      TakesObserve (asking base 0 3 [0, 0, 1, 0, 1]) (ask 0 3 [0, 0, 1, 0, 1]) 3 .observe ∧
      operandValues (ask 0 3 [0, 0, 1, 0, 1]) = [0, 0, 1, 0, 1] ∧
      TakesObserve (asking base 0 4 [11, 0, 0]) (ask 0 4 [11, 0, 0]) 4 .observe ∧ operandValues (ask 0 4 [11, 0, 0]) = [11, 0, 0] ∧
      TakesCommission (asking base 1 2 [1, -1, 0, 5]) (ask 1 2 [1, -1, 0, 5]) 2 ∧ operandValues (ask 1 2 [1, -1, 0, 5]) = [1, -1, 0, 5] := by
  have operands : ∀ count ∈ [(0 : Int), 17],
      operandValues (ask 0 1 [1, 16, 0, count]) = [1, 16, 0, count] ∧ operandValues (ask 0 5 [count]) = [count] := by decide
  refine ⟨?_, ?_, ?_, ?_, ?_, ?_, ?_, ?_, fun count hc => ⟨takesO _ _ _ (by decide), operands count hc⟩, takesO _ _ _ (by decide),
    by decide, takesO _ _ _ (by decide), by decide, takesC _ _ _ (by decide), by decide⟩ <;> (unfold Addressed; decide)

/-- A field past the last is BAD_ADDRESS before a bad count is seen, and the reply carries no data. -/
theorem test_bad_address :
    answer (served base .read 1 [1, 15, 42, 17]) = (4, []) ∧ answer (served base .read 1 [1, 15, 41, 17]) = (5, []) ∧
      answer (served base .setCursor 4 [0, 0, 0]) = (4, []) ∧ answer (served base .write 2 [1, 16, 6, 5]) = (4, []) := by decide +kernel

/-- WritesStopAtFirstRefusal: a field written, one clamped and one refused; 13 values of WRITE, 16 of WRITE NEXT. -/
theorem test_meets_WritesStopAtFirstRefusal :
    (∃ t, (group .trial).writeAt 1 (3 * 42 + 7) 25000 = .written t) ∧ (∃ t, (group .trial).writeAt 1 (3 * 42 + 6) 60000 = .clamped t) ∧
      (group .trial).writeAt 1 (3 * 42 + 8) 1200000 = .refused .sectionActive [] ∧
      (let ops : List Int := [5, 3, 6] ++ List.replicate 13 1
       TakesCommission (asking base 1 2 ops) (ask 1 2 ops) 2 ∧ operandValues (ask 1 2 ops) = 5 :: 3 :: 6 :: 1 :: List.replicate 12 1) ∧
      (let ops : List Int := List.replicate 16 1
       TakesCommission (asking base 1 6 ops) (ask 1 6 ops) 6 ∧ CursorsExist (asking base 1 6 ops) ∧
         operandValues (ask 1 6 ops) = 1 :: List.replicate 15 1) := by
  refine ⟨⟨_, rfl⟩, ⟨_, rfl⟩, by rfl, ⟨takesC _ _ _ (by decide), by decide⟩, takesC _ _ _ (by decide), ?_, by decide⟩
  unfold CursorsExist Cursor.exists'; decide

/-- A write run goes on from the last field of the last entry to the first of entry 0, with the wrapped indication. -/
theorem test_write_wraps :
    let t := served base .write 2 [4, 127, 1, 500, 3, 70]
    (answer t, t.readField 4 127 1, t.readField 4 127 2, t.readField 4 0 0) = ((128, [3]), 500, 3, 70) := by decide +kernel

/-- ConfigurationWritesReadBack: each row's section states, a profile range that is valid and one that is not, a node in a section that
refuses and in one that takes, a record in use and not. -/
theorem test_meets_ConfigurationWritesReadBack :
    let s := ((group .selected).modSegment 0 fun _ => ⟨1, 0, .hold⟩).modSec 4 fun x => { x with state := .trial }
    (s.sec 4).state ≠ .bypass ∧ (s.sec 4).state ≠ .selected ∧ (s.sec 3).state = .selected ∧ (s.sec 5).state = .bypass ∧
      (s.segment 0).kind ≠ .none ∧ (s.segment 1).kind = .none ∧ (11 : NodeId) ≠ s.station ∧ s.station = 61 ∧
      (s.drive 11).inSection = some 3 ∧ (s.drive 0).inSection = none ∧ ((group .trial).drive 11).inSection = some 3 ∧
      ((group .trial).sec 3).state ≠ .bypass ∧ (s.member 0).inUse = true ∧ (s.member 5).inUse = false := by decide +kernel

/-- ConfigurationWritesReadBack, Tlim: lowered under a trim and raised. -/
theorem test_trim_limit :
    let s := (group .trial).modRec 1 fun r => { r with trim := -4000 }
    let written (v : Int) : State := match s.writeField 1 3 10 v with
      | .written t => t
      | .clamped t => t
      | .refused _ _ => base
    (s.sec 3).cfg.trimLimit = 5000 ∧ ((written 300).member 1).trim = -300 ∧ ((written 20001).member 1).trim = -4000 ∧
      ((written 20001).sec 3).cfg.trimLimit = 20000 := by decide +kernel

/-- TableWritesReadBack: a segment in use and not, a SQUARE and a short record, a capture stopped and running. -/
theorem test_meets_TableWritesReadBack :
    let s := (group .trial).modSec 3 fun x => { x with cfg := { x.cfg with profileStart := 126, profileLength := 2 } }
    let t := (base.modSegment 0 fun _ => ⟨2, 0, .square⟩).modCapture fun c => { c with state := .running }
    (s.sec 3).state = .trial ∧ (s.sec 3).cfg.profileStart ≤ (127 : Fin 128).val ∧
      (127 : Fin 128).val < (s.sec 3).cfg.profileStart + (s.sec 3).cfg.profileLength ∧ s.segmentInUse 125 = false ∧
      (t.segments[(0 : Fin 128)]).kind = .square ∧ (t.segments[(1 : Fin 128)]).length < 2 ∧
      t.capture.state = .running ∧ s.capture.state = .idle := by decide +kernel

/-- EventReadsReturnOldest: counts at and outside the bounds, and the largest detail code. -/
theorem test_meets_EventReadsReturnOldest :
    (∀ count ∈ [(0 : Int), 1, 4, 5], operandValues (ask 0 7 [count]) = [count] ∧ operandValues (ask 0 8 [count]) = [count]) ∧
      TakesObserve (asking base 0 7 [4]) (ask 0 7 [4]) 7 .observe ∧ TakesObserve (asking base 0 8 [5]) (ask 0 8 [5]) 8 .observe ∧
      ({ Event.powerOn with detail := 255 } : Event).detail ≤ 255 :=
  ⟨by decide, takesO _ _ _ (by decide), takesO _ _ _ (by decide), by decide⟩

/-- RestartReturnsEverySectionToBypass: sections in every state. -/
theorem test_meets_RestartReturnsEverySectionToBypass :
    TakesCommission (asking mixed 1 9 []) (ask 1 9 []) 9 ∧ (ask 1 9 []).operands = [] ∧ EngineHeld (asking mixed 1 9 []) ∧
      (mixed.sec 3).state ≠ .bypass ∧ (mixed.sec 9).state = .bypass ∧ (∀ i : SecId, (base.sec i).state = .bypass) :=
  ⟨takesC _ _ _ (by decide +kernel), rfl, mixed_engine, by decide +kernel, by decide +kernel, by decide +kernel⟩

/-- CommissioningCommandsCheckSectionAndState: sections -1 and 16, and a state that is not listed, for each row. -/
theorem test_meets_CommissioningCommandsCheckSectionAndState :
    (∀ row ∈ commissioningRows, ∀ v ∈ [(-1 : Int), 16, 3],
      TakesCommission (asking base 1 row.code [v]) (ask 1 row.code [v]) row.code ∧ operandValues (ask 1 row.code [v]) = [v]) ∧
      (commissioningRows.all fun row => !row.takenIn.contains .faulted || !row.takenIn.contains .selected) = true := by
  refine ⟨fun row hr v _ => ⟨takesC _ _ _ ?_, ?_⟩, by decide⟩
  · fin_cases hr <;> decide +kernel
  · have h : ∀ v ∈ [(-1 : Int), 16, 3], operandValues (ask 1 0 [v]) = [v] := by decide
    exact h v (by assumption)

/-- SelectEntersSelected: an empty list, a range past the table, a segment of kind NONE, and a valid range. -/
theorem test_meets_SelectEntersSelected :
    let ranged (start length : Nat) : State := ((group .bypass).modSegment 0 fun _ => ⟨1, 0, .hold⟩).modSec 3 fun x =>
      { x with cfg := { x.cfg with profileStart := start, profileLength := length } }
    TakesCommission (asking (ranged 0 1) 1 16 [3]) (ask 1 16 [3]) 16 ∧ operandValues (ask 1 16 [3]) = [3] ∧
      ((ranged 0 1).sec 3).state = .bypass ∧ (ranged 0 1).members 4 = [] ∧ (ranged 0 1).members 3 ≠ [] ∧
      128 < ((ranged 127 2).sec 3).cfg.profileStart + ((ranged 127 2).sec 3).cfg.profileLength ∧
      ((ranged 0 2).segment 1).kind = .none ∧ ((ranged 0 2).segment 0).kind ≠ .none ∧ ProfileValid (ranged 0 1) 3 ∧
      (ranged 0 1).engine.holder ≠ some 3 := by
  refine ⟨takesC _ _ _ (by decide +kernel), by decide, by decide +kernel, by decide +kernel, by decide +kernel, by decide +kernel,
    by decide +kernel, by decide +kernel, ⟨by decide +kernel, fun k h1 h2 => ?_⟩, by decide +kernel⟩
  have e1 : (((group .bypass).modSegment 0 fun _ => ⟨1, 0, .hold⟩).modSec 3 fun x =>
      { x with cfg := { x.cfg with profileStart := 0, profileLength := 1 } }).segment 0 = ⟨1, 0, .hold⟩ := by decide +kernel
  have hk : k < 1 := h2.trans_le (by decide +kernel)
  match k, hk with
  | 0, _ => rw [e1]; decide

/-- DeselectAbortClearFaultEnterBypass: the three commands in the states they are taken in, and a member showing FAULT. -/
theorem test_meets_DeselectAbortClearFaultEnterBypass :
    (∀ code ∈ [17, 23, 26], TakesCommission (asking mixed 1 code [3]) (ask 1 code [3]) code ∧ operandValues (ask 1 code [3]) = [3]) ∧
      ((group .selected).sec 3).state = .selected ∧ ((group .calibrating).sec 3).state.rewriting = true ∧
      ((group .faulted).sec 3).state = .faulted ∧
      (∀ q ∈ (group .faulted).members 3, ((group .faulted).memberFeedback q).status.getLsbD 4 = false) ∧
      (reported (group .faulted) 16).members 3 = [0, 1, 2] ∧
      ((reported (group .faulted) 16).memberFeedback 0).status.getLsbD 4 = true := by
  refine ⟨fun code hc => ⟨takesC _ _ _ ?_, ?_⟩, by decide +kernel, by decide +kernel, by decide +kernel, by decide +kernel,
    by decide +kernel, by decide +kernel⟩ <;> fin_cases hc <;> decide +kernel

/-- A SELECTED group whose drives run, with a last evaluated set and a held lead command. -/
def startable (running : BitVec 5) (last : Option LastSet) (cmd : DriveCommand) : State :=
  (reported (group .selected) running).modSec 3 fun x => { x with lastSet := last, leadCommand := cmd }

/-- StartEntersTrial: each check failing with those before it passing, and all passing; the profile is empty, or past the table, or holds
a segment of kind NONE. -/
theorem test_meets_StartEntersTrial :
    let s := startable 3 (some ⟨0, true, none⟩) .crawl
    let ranged (start length : Nat) : State := s.modSec 3 fun x =>
      { x with cfg := { x.cfg with profileStart := start, profileLength := length } }
    TakesCommission (asking s 1 18 [3]) (ask 1 18 [3]) 18 ∧ operandValues (ask 1 18 [3]) = [3] ∧ (s.sec 3).state = .selected ∧
      s.members 3 = 0 :: [1, 2] ∧ ProfileValid s 3 ∧
      (∀ q ∈ s.members 3, (s.memberFeedback q).status.getLsbD 1 = true ∧ (s.memberFeedback q).status.getLsbD 4 = false) ∧
      (s.sec 3).lastSet = some ⟨0, true, none⟩ ∧ (s.sec 3).leadCommand = .crawl ∧
      128 < ((ranged 127 2).sec 3).cfg.profileStart + ((ranged 127 2).sec 3).cfg.profileLength ∧
      ((ranged 0 1).segment 0).kind = .none ∧ ((startable 1 none .run).memberFeedback 0).status.getLsbD 1 = false ∧
      ((startable 3 none .run).sec 3).lastSet = none ∧
      ((startable 3 (some ⟨0, false, some 16⟩) .run).sec 3).lastSet = some ⟨0, false, some 16⟩ ∧
      ((startable 3 (some ⟨0, true, none⟩) .stop).sec 3).leadCommand = .stop := by
  refine ⟨takesC _ _ _ (by decide +kernel), by decide, by decide +kernel, by decide +kernel, ⟨by decide +kernel, fun k h1 h2 => ?_⟩,
    by decide +kernel, by decide +kernel, by decide +kernel, by decide +kernel, by decide +kernel, by decide +kernel,
    by decide +kernel, by decide +kernel, by decide +kernel⟩
  have hk : k < 0 := h2.trans_le (by decide +kernel)
  omega

/-- FreezeAndStopFormOffsets and ContinueAndStepEnterTrial: TRIAL and FROZEN, a profile finished and not. -/
theorem test_meets_trial_commands :
    let done := (group .frozen).modSec 3 fun x => { x with profile := { x.profile with finished := true } }
    (∀ code ∈ [19, 20, 21, 22],
      TakesCommission (asking (group .trial) 1 code [3]) (ask 1 code [3]) code ∧
        TakesCommission (asking (group .frozen) 1 code [3]) (ask 1 code [3]) code ∧ operandValues (ask 1 code [3]) = [3]) ∧
      ((group .trial).sec 3).state = .trial ∧ (group .trial).engine.holder ≠ some 3 ∧ ((group .frozen).sec 3).state = .frozen ∧
      ((group .frozen).sec 3).profile.finished = false ∧ (done.sec 3).profile.finished = true := by
  refine ⟨fun code hc => ⟨takesC _ _ _ ?_, takesC _ _ _ ?_, ?_⟩, by decide +kernel, by decide +kernel, by decide +kernel,
    by decide +kernel, by decide +kernel⟩ <;> fin_cases hc <;> decide +kernel

/-- CalibrateTakesEngine: the passing section at its bounds, each check failing, and an engine that is held. -/
theorem test_meets_CalibrateTakesEngine :
    let set (low high limit lineRef : Int) : State := (group .selected).modSec 3 fun x =>
      { x with cfg := { x.cfg with calLow := low, calHigh := high, absoluteLimit := limit }, lineReference := lineRef }
    let s := set 50000 60000 60000 (-100000)
    TakesCommission (asking s 1 24 [3]) (ask 1 24 [3]) 24 ∧ operandValues (ask 1 24 [3]) = [3] ∧ (s.sec 3).state = .selected ∧
      2 ≤ (s.members 3).length ∧ (s.sec 3).cfg.calLow < (s.sec 3).cfg.calHigh ∧
      10000 ≤ (s.sec 3).cfg.calHigh - (s.sec 3).cfg.calLow ∧ (s.sec 3).cfg.calHigh ≤ (s.sec 3).cfg.absoluteLimit ∧
      -(s.sec 3).cfg.crawlLimit ≤ (s.sec 3).lineReference ∧ (s.sec 3).lineReference ≤ (s.sec 3).cfg.crawlLimit ∧
      s.engine.holder = none ∧ ¬ 2 ≤ (s.members 4).length ∧
      ¬ ((set 5 5 60000 0).sec 3).cfg.calLow < ((set 5 5 60000 0).sec 3).cfg.calHigh ∧
      ¬ 10000 ≤ ((set 5 10004 60000 0).sec 3).cfg.calHigh - ((set 5 10004 60000 0).sec 3).cfg.calLow ∧
      ¬ ((set 5 60001 60000 0).sec 3).cfg.calHigh ≤ ((set 5 60001 60000 0).sec 3).cfg.absoluteLimit ∧
      ((set 5 50000 60000 100001).sec 3).cfg.crawlLimit < ((set 5 50000 60000 100001).sec 3).lineReference ∧
      mixed.engine.holder = some 5 :=
  ⟨takesC _ _ _ (by decide +kernel), by decide, by decide +kernel⟩

/-- TriggerRestartsStepSegment: a running STEP segment, and a profile that is finished. -/
theorem test_meets_TriggerRestartsStepSegment :
    let s := (group .trial).modSegment 0 fun _ => ⟨5, 100, .step⟩
    TakesCommission (asking s 1 25 [3]) (ask 1 25 [3]) 25 ∧ operandValues (ask 1 25 [3]) = [3] ∧ (s.sec 3).state = .trial ∧
      (s.segment ((s.sec 3).cfg.profileStart + (s.sec 3).profile.segmentIndex)).kind = .step ∧
      (s.sec 3).profile.finished = false ∧ (s.sec 3).startPending = false ∧ ((group .trial).segment 0).kind ≠ .step ∧
      ((group .frozen).sec 3).state ≠ .trial :=
  ⟨takesC _ _ _ (by decide +kernel), by decide, by decide +kernel⟩

/-- AddMemberAppends: each check failing in turn, and all passing with record 3 the lowest free one. -/
theorem test_meets_AddMemberAppends :
    let s := group .bypass
    TakesCommission (asking s 1 32 [3, 5, 255]) (ask 1 32 [3, 5, 255]) 32 ∧ operandValues (ask 1 32 [3, 5, 255]) = [3, 5, 255] ∧
      operandValues (ask 1 32 [-1, 5, 1]) = [-1, 5, 1] ∧ operandValues (ask 1 32 [3, 63, 0]) = [3, 63, 0] ∧
      (4 : NodeId) ≠ s.station ∧ (s.sec 3).state = .bypass ∧ (s.drive 4).inSection = none ∧ (s.members 3).length < 4 ∧
      (s.member 3).inUse = false ∧ (∀ p : RecId, p < 3 → (s.member p).inUse = true) ∧ ((group .trial).sec 3).state ≠ .bypass ∧
      (s.drive 11).inSection ≠ none ∧ 4 ≤ ((s.addMember 3 4 1 3).members 3).length :=
  ⟨takesC _ _ _ (by decide +kernel), by decide, by decide, by decide, by decide +kernel⟩

/-- RemoveMemberClosesGap and MakeLeadMovesToFront: the lead, the last member, a section past the last, a node in no section, and a section
that is not in BYPASS. -/
theorem test_meets_members :
    let s := group .bypass
    (∀ code ∈ [33, 34], ∀ node ∈ [(12 : Int), 18],
      TakesCommission (asking s 1 code [3, node]) (ask 1 code [3, node]) code ∧ operandValues (ask 1 code [3, node]) = [3, node]) ∧
      MembersConsistent s ∧ (s.sec 3).state = .bypass ∧ s.members 3 = [0, 1, 2] ∧ (s.member 0).node = some 11 ∧
      (s.member 2).node = some 17 ∧ (s.members 3).head? = some 0 ∧ (s.drive 0).inSection ≠ some 3 ∧
      ((group .trial).sec 3).state ≠ .bypass ∧ operandValues (ask 1 33 [16, 1]) = [16, 1] := by
  refine ⟨fun code hc node hn => ⟨takesC _ _ _ ?_, ?_⟩, members_of_check _ (by decide +kernel), by decide +kernel⟩
  · fin_cases hc <;> decide +kernel
  · fin_cases hc <;> fin_cases hn <;> decide

/-- InjectionWritesFeedback: values at the ends of their ranges and past them, nodes outside the range, in no section, in a state that
refuses, before any dispatch. -/
theorem test_meets_InjectionWritesFeedback :
    let s := { group .selected with cycleOpen := true }
    (∀ ops ∈ [[(12 : Int), -8388608, -32768, 0], [12, 8388607, 32767, 31], [0, 0, 0, 0], [63, 0, 0, 0], [12, 8388608, 0, 0],
        [12, 0, 32768, 0], [12, 0, 0, 32]],
      TakesCommission (asking s 1 35 ops) (ask 1 35 ops) 35 ∧ operandValues (ask 1 35 ops) = ops) ∧
      (s.drive 11).inSection = some 3 ∧ (s.sec 3).state = .selected ∧ s.cycleOpen = true ∧ s.engine.holder ≠ some 3 ∧
      (s.drive 0).inSection = none ∧ ((group .trial).sec 3).state ≠ .selected ∧ (group .selected).cycleOpen = false := by
  refine ⟨fun ops ho => ⟨takesC _ _ _ (by decide +kernel), ?_⟩, by decide +kernel⟩
  fin_cases ho <;> decide

/-- SnapshotLatchesAndReads: a latch empty and full, sections and parts at and outside the bounds. -/
theorem test_meets_SnapshotLatchesAndReads :
    let full := (group .trial).setLatch 3 (some ((group .trial).liveView 3))
    (∀ a ∈ [(-1 : Int), 0, 15, 16], TakesObserve (asking base 0 40 [a]) (ask 0 40 [a]) 40 .observe ∧
      operandValues (ask 0 40 [a]) = [a]) ∧
    (∀ part ∈ [(-1 : Int), 0, 2, 3], TakesObserve (asking full 0 41 [3, part]) (ask 0 41 [3, part]) 41 .observe ∧
      operandValues (ask 0 41 [3, part]) = [3, part]) ∧
      ((group .trial).sec 3).snapshot = none ∧ (full.sec 3).snapshot.isSome = true := by
  refine ⟨fun a ha => ⟨takesO _ _ _ (by decide), ?_⟩, fun a ha => ⟨takesO _ _ _ (by decide +kernel), ?_⟩, by decide +kernel⟩ <;>
    fin_cases ha <;> decide

/-- CaptureCommandsFollowTheirTables: no active item, a pairing that is not allowed behind one that is, a watch index past 3, a capture
that starts; the states of CAPTURE STOP and of TRIGGER CAPTURE. -/
theorem test_meets_CaptureCommandsFollowTheirTables :
    let one := base.modItem 0 fun c => { c with enable := true }
    let two := one.modItem 1 fun c => { c with enable := true, field := .load }
    let st (m : CaptureMode) (x : CaptureState) (post : Nat) : State := base.modCapture fun c =>
      { c with mode := m, state := x, postCount := post }
    let watch := one.modCapture fun c => { c with mode := .loop, triggerKind := .watch, triggerIndex := 4 }
    (∀ code ∈ [48, 49, 50], TakesObserve (asking one 0 code []) (ask 0 code []) code .observe ∧ (ask 0 code []).operands = []) ∧
      base.capture.state = .idle ∧ base.activeList = [] ∧ (two.activeList[1]?).map CaptureItem.allowed = some false ∧
      (two.activeList[0]?).map CaptureItem.allowed = some true ∧ (∀ item ∈ one.activeList, item.allowed = true) ∧
      one.activeList ≠ [] ∧ watch.capture.mode ≠ .once ∧ watch.capture.triggerKind = .watch ∧ 3 < watch.capture.triggerIndex ∧
      (st .once .running 0).capture.state = .running ∧ (st .triggered .waiting 0).capture.triggerKind = .command ∧
      (st .triggered .waiting 0).capture.state = .waiting ∧ (st .loop .running 1).capture.postCount ≠ 0 ∧
      (st .loop .running 0).capture.postCount = 0 := by
  refine ⟨fun code hc => ⟨takesO _ _ _ ?_, rfl⟩, by decide +kernel⟩
  fin_cases hc <;> decide

/-- The pairings that CAPTURE START allows: LINE and ISSUED for REFERENCE, DRIVE and CALIBRATED for the returned fields, any for the others. -/
theorem test_pairings :
    let allowed (f : CaptureField) : List Bool :=
      [CaptureSource.line, .issued, .drive, .calibrated].map fun x => ({ CaptureItem.powerOn with field := f, source := x }).allowed
    [CaptureField.reference, .actualSpeed, .load, .status, .imbalance, .trim].map allowed =
      [[true, true, false, false], [false, false, true, true], [false, false, true, true], [false, false, true, true],
        [true, true, true, true], [true, true, true, true]] := by decide +kernel

/-- FrameRoundTrip: a frame of each kind at its largest count. -/
theorem test_meets_FrameRoundTrip :
    (Frame.dispatch ⟨0, 0, List.replicate 62 (entry 1 .coast (-1))⟩).wf = true ∧ (Frame.ret ⟨1, 0, 1, 0, 0, 0⟩).wf = true ∧
      (Frame.request (ask 1 1 (List.replicate 16 (-1)))).wf = true ∧ (Frame.reply ⟨1, 0, 1, 0, 0, List.replicate 16 0⟩).wf = true ∧
      (Frame.station ⟨1, 0, 1, 0, 0, 0, List.replicate 16 0⟩).wf = true := by decide +kernel

/-- EventsStayInOrder, EngineAndTargetsStayConsistent and PermitStaysRespected: a state with the property, and a step. -/
theorem test_meets_event_and_state_invariants :
    ∃ s t, EventsInOrder s ∧ EngineHeld s ∧ TargetsAndFaultCodes s ∧ PermitRespected s ∧ step s = .next t :=
  ⟨ticking, _, mixed_events, mixed_engine, mixed_targets, (fun h => absurd h (by decide +kernel)), rfl⟩

/-- PermitStaysRespected with the line inactive. -/
theorem test_meets_PermitStaysRespected :
    ∃ s t, s.permit = false ∧ PermitRespected s ∧ step s = .next t := by
  refine ⟨{ State.reset with pending := [.lineTimerExpiry] }, _, rfl, ?_, rfl⟩
  unfold PermitRespected; decide +kernel

/-- MembersStayConsistent and TrimsAndOffsetsStayBounded. -/
theorem test_meets_member_invariants :
    ∃ s t, MembersConsistent s ∧ ConfigInRange s ∧ TrimsInLimit s ∧ PassingMembersClean s ∧ step s = .next t := by
  refine ⟨ticking, _, mixed_members, mixed_config, ?_, ?_, rfl⟩
  · unfold TrimsInLimit; decide +kernel
  · unfold PassingMembersClean; decide +kernel

/-- The invariants of values, queues, counts, cursors and the Capture Buffer. -/
theorem test_meets_value_invariants :
    ∃ s t, CalibrationInRange s ∧ SegmentsInRange s ∧ ProfileInRange s ∧ QueuesBounded s ∧ CountsInRange s ∧ CursorsExist s ∧
      BufferWithinBounds s ∧ step s = .next t := by
  refine ⟨ticking, _, ?_, ?_, ?_, ?_, ?_, ?_, ?_, rfl⟩
  · unfold CalibrationInRange; decide +kernel
  · unfold SegmentsInRange; decide +kernel
  · unfold ProfileInRange; decide +kernel
  · unfold QueuesBounded; decide +kernel
  · unfold CountsInRange; decide +kernel
  · unfold CursorsExist Cursor.exists'; decide +kernel
  · unfold BufferWithinBounds; decide +kernel

end Sys2Proof.Tests
end

section
/-! SUPPORT. The moves that every command's work is made of: changes that no membership, section state or range takes part in, changes
of one member's record, one section's live record or one Drive Map entry, entries to a state, and the three changes of a member list. A
property that every move keeps is kept by every step. -/

namespace Sys2Proof.Machine

/-! ## Moves -/

/-- t has the sections, records, Drive Map, segments and engine of s. -/
structure Quiet (s t : State) : Prop where
  sections : t.sections = s.sections
  pool : t.pool = s.pool
  drives : t.drives = s.drives
  segments : t.segments = s.segments
  engine : t.engine = s.engine

/-- A profile position whose offset, and the offset its segment started from, lie within ±200,000 (R105). -/
def ProfilePosition.InRange (p : ProfilePosition) : Prop :=
  (-200000 ≤ p.offset ∧ p.offset ≤ 200000) ∧ (-200000 ≤ p.startOffset ∧ p.startOffset ≤ 200000)

/-- A segment record within its ranges, a SQUARE at least 2 long (R97). -/
def Segment.InRange (g : Segment) : Prop :=
  (1 ≤ g.length ∧ g.length ≤ 65535) ∧ (-200000 ≤ g.level ∧ g.level ≤ 200000) ∧ (g.kind = .square → 2 ≤ g.length)

/-- A Drive Map entry whose gain and offset lie within their ranges (R18). -/
def DriveEntry.InRange (d : DriveEntry) : Prop :=
  (12288 ≤ d.gain ∧ d.gain ≤ 20480) ∧ (-100000 ≤ d.offset ∧ d.offset ≤ 100000)

/-- The states that have neither the engine, nor a release target, nor a fault code: BYPASS, SELECTED, TRIAL and FROZEN. -/
def SectionState.plain : SectionState → Bool
  | .bypass => true | .selected => true | .trial => true | .frozen => true
  | .calibrating => false | .releasing => false | .faulted => false

/-- A change of a section's record that leaves its fault code, keeps its state or goes from a plain state to a plain one, keeps the
presence of a release target or gives one to a RELEASING section, and keeps the profile position in range. -/
structure Section.Kept (x y : Section) : Prop where
  state : y.state = x.state ∨ (x.state.plain = true ∧ y.state.plain = true)
  faultCode : y.faultCode = x.faultCode
  target : y.releaseTarget.isSome = x.releaseTarget.isSome ∨ y.state = .releasing ∧ y.releaseTarget.isSome = true
  profile : x.profile.InRange → y.profile.InRange

/-- A pool record of the same member: in use, section, node and position (R10). -/
structure PoolRecord.SameMember (x y : PoolRecord) : Prop where
  inUse : y.inUse = x.inUse
  inSection : y.inSection = x.inSection
  node : y.node = x.node
  position : y.position = x.position

/-- The states that an entry through State.enterPassing leads to, FAULTED with one of the four fault causes (R24, R25). -/
def passingEntry (st : SectionState) (cause : Cause) : Prop :=
  st = .bypass ∨ st = .selected ∨
    st = .faulted ∧ (cause = .driveFault ∨ cause = .feedbackLost ∨ cause = .lineEntryLost ∨ cause = .lineLost)

/-- One move of the block's work, with what is true of the state it is made in. -/
inductive Move : State → State → Prop where
  | quiet {s t : State} (h : Quiet s t) : Move s t
  | record {s : State} {r : RecId} (f : PoolRecord → PoolRecord) (hr : (∃ i, r ∈ s.members i) ∨ (s.member r).inUse = true)
      (hf : ∀ x : PoolRecord, x.SameMember (f x)) : Move s (s.modRec r f)
  | live {s : State} {i : SecId} (f : Section → Section) (hm : (f (s.sec i)).members = (s.sec i).members)
      (hf : (s.sec i).Kept (f (s.sec i))) : Move s (s.modSec i f)
  | entry {s : State} {n : NodeId} (f : DriveEntry → DriveEntry) (hs : (f (s.drive n)).inSection = (s.drive n).inSection)
      (hr : (s.drive n).InRange → (f (s.drive n)).InRange) : Move s (s.modDrive n f)
  | openSets (s : State) : Move s s.openSets
  | segment {s : State} {k : Fin 128} (f : Segment → Segment) (hf : s.segments[k].InRange → (f s.segments[k]).InRange) :
      Move s (s.modSegment k f)
  | engine {s : State} {i : SecId} (f : Engine → Engine) (hi : s.engine.holder = some i) (hf : (f s.engine).holder = some i) :
      Move s (s.modEngine f)
  | passing {s : State} {i : SecId} {st : SectionState} {cause : Cause} (node : Option NodeId) (pos : Option Pos)
      (h : passingEntry st cause) : Move s (s.enterPassing i st cause node pos)
  | releasing {s : State} {i : SecId} (target : ReleaseTarget) (cause : Cause) (result : CalResult) (node : Option NodeId)
      (pos : Option Pos) (h : (s.sec i).state.rewriting = true ∨ s.engine.holder = some i) :
      Move s (s.enterReleasing i target cause result node pos)
  | calibrating {s : State} {i : SecId} (hi : (s.sec i).state = .selected) (he : s.engine.holder = none) :
      Move s (s.enterCalibrating i)
  | addMember {s : State} {i : SecId} {n : NodeId} {r : RecId} (weight : Nat) (hn : (s.drive n).inSection = none)
      (hl : (s.members i).length < 4) (hr : (s.member r).inUse = false) : Move s (s.addMember i n weight r)
  | removeMember {s : State} {i : SecId} {n : NodeId} {r : RecId} (hr : r ∈ s.members i) (hn : (s.member r).node = some n) :
      Move s (s.removeMember i n r)
  | makeLead {s : State} {i : SecId} {r : RecId} (hr : r ∈ s.members i) : Move s (s.makeLead i r)

/-- Some moves, one after the other. -/
abbrev Work : State → State → Prop := Relation.ReflTransGen Move

/-! ## Work over lists and branches -/

namespace Work

/-- One move is work. -/
theorem of {s t : State} (h : Move s t) : Work s t := .single h

/-- A change that leaves the five tables is work. -/
theorem quiet {s t : State} (h1 : t.sections = s.sections) (h2 : t.pool = s.pool) (h3 : t.drives = s.drives)
    (h4 : t.segments = s.segments) (h5 : t.engine = s.engine) : Work s t :=
  of (.quiet ⟨h1, h2, h3, h4, h5⟩)

/-- A branch of two works is work. -/
theorem ite {c : Prop} [Decidable c] {s a b : State} (ha : c → Work s a) (hb : ¬ c → Work s b) : Work s (if c then a else b) := by
  split
  · exact ha ‹_›
  · exact hb ‹_›

/-- Work done or not done. -/
theorem whenTrue {c : Prop} [Decidable c] {s a : State} (ha : c → Work s a) : Work s (if c then a else s) :=
  ite ha fun _ => .refl

/-- Work over a list that carries more than a state, each piece work on the state. -/
theorem foldlOn {α β : Type} (state : β → State) (f : β → α → β) (hf : ∀ b a, Work (state b) (state (f b a))) :
    ∀ (l : List α) (b : β), Work (state b) (state (l.foldl f b))
  | [], _ => .refl
  | a :: l, b => (hf b a).trans (foldlOn state f hf l _)

/-- Work over a list. -/
theorem foldl {α : Type} (f : State → α → State) (hf : ∀ s a, Work s (f s a)) (l : List α) (s : State) : Work s (l.foldl f s) :=
  foldlOn (fun s => s) f hf l s

/-- Work over the sections. -/
theorem forSections (f : State → SecId → State) (hf : ∀ s i, Work s (f s i)) (s : State) : Work s (s.forSections f) :=
  foldl f hf _ _

/-- Work over the records of members of section i, each piece leaving the member lists. -/
theorem foldlMembers {α : Type} (i : SecId) (f : State → α → State) (rec : α → RecId)
    (hf : ∀ t a, rec a ∈ t.members i → Work t (f t a)) (hm : ∀ t a, (f t a).members i = t.members i) :
    ∀ (l : List α) (s : State), (∀ a ∈ l, rec a ∈ s.members i) → Work s (l.foldl f s)
  | [], _, _ => .refl
  | a :: l, s, h =>
    (hf s a (h a List.mem_cons_self)).trans
      (foldlMembers i f rec hf hm l _ fun b hb => hm s a ▸ h b (List.mem_cons_of_mem _ hb))

/-! ## The moves as work -/

/-- A change of a section's live record, whatever the record. -/
theorem modSec (s : State) (i : SecId) (f : Section → Section) (hm : ∀ x, (f x).members = x.members)
    (hf : ∀ x : Section, x.Kept (f x)) : Work s (s.modSec i f) :=
  of (.live f (hm _) (hf _))

/-- A change of a section's record that leaves state, fault code, release target, members and profile. -/
theorem modSecSame (s : State) (i : SecId) (f : Section → Section) (h1 : ∀ x, (f x).members = x.members := by intro; rfl)
    (h2 : ∀ x, (f x).state = x.state := by intro; rfl) (h3 : ∀ x, (f x).faultCode = x.faultCode := by intro; rfl)
    (h4 : ∀ x, (f x).releaseTarget = x.releaseTarget := by intro; rfl)
    (h5 : ∀ x, (f x).profile = x.profile := by intro; rfl) : Work s (s.modSec i f) :=
  modSec s i f h1 fun x => ⟨.inl (h2 x), h3 x, .inl (by rw [h4]), by rw [h5]; exact id⟩

/-- A change of the monitor record. -/
theorem modMonitor (s : State) (i : SecId) (f : Monitor → Monitor) : Work s (s.modMonitor i f) :=
  modSecSame s i _

/-- A change of the configuration. -/
theorem modCfg (s : State) (i : SecId) (f : SectionConfig → SectionConfig) : Work s (s.modCfg i f) :=
  modSecSame s i _

/-- A change of the profile position that keeps it in range. -/
theorem modProfile {s : State} {i : SecId} (f : ProfilePosition → ProfilePosition)
    (hf : (s.sec i).profile.InRange → (f (s.sec i).profile).InRange) : Work s (s.modProfile i f) :=
  of (.live _ rfl ⟨.inl rfl, rfl, .inl rfl, hf⟩)

/-- A change of every member's record that keeps who the members are. -/
theorem modMembers (s : State) (i : SecId) (f : PoolRecord → PoolRecord)
    (hf : ∀ x : PoolRecord, x.SameMember (f x) := by intro; exact ⟨rfl, rfl, rfl, rfl⟩) : Work s (s.modMembers i f) :=
  foldlMembers i _ id (fun _ _ h => of (.record f (.inl ⟨i, h⟩) hf)) (fun _ _ => rfl) _ _ fun _ h => h

/-- A change of a member's record that keeps who the member is. -/
theorem modRec {s : State} {i : SecId} {r : RecId} (f : PoolRecord → PoolRecord) (hr : r ∈ s.members i)
    (hf : ∀ x : PoolRecord, x.SameMember (f x) := by intro; exact ⟨rfl, rfl, rfl, rfl⟩) : Work s (s.modRec r f) :=
  of (.record f (.inl ⟨i, hr⟩) hf)

/-- A change of a Drive Map entry without its section, gain and offset. -/
theorem modDrive (s : State) (n : NodeId) (f : DriveEntry → DriveEntry)
    (h1 : ∀ d, (f d).inSection = d.inSection := by intro; rfl) (h2 : ∀ d, (f d).gain = d.gain := by intro; rfl)
    (h3 : ∀ d, (f d).offset = d.offset := by intro; rfl) : Work s (s.modDrive n f) :=
  of (.entry f (h1 _) (by unfold DriveEntry.InRange; rw [h2, h3]; exact id))

/-- A change of the engine's record while a section holds it, which keeps the holder. -/
theorem modEngine {s : State} {i : SecId} (f : Engine → Engine) (hi : s.engine.holder = some i)
    (hf : ∀ e, (f e).holder = e.holder := by intro; rfl) : Work s (s.modEngine f) :=
  of (.engine f hi ((hf _).trans hi))

/-- A change of a watch point. -/
theorem modWatch (s : State) (w : WatchId) (f : WatchPoint → WatchPoint) : Work s (s.modWatch w f) :=
  quiet rfl rfl rfl rfl rfl

/-- A change of the capture control record. -/
theorem modCapture (s : State) (f : CaptureControl → CaptureControl) : Work s (s.modCapture f) := quiet rfl rfl rfl rfl rfl

/-- Posting an event. -/
theorem post (s : State) (k : EventKind) (a : Option SecId) (n : Option NodeId) (p : Option Pos) (c : Word16) (v : Option Int)
    (d : Nat) : Work s (s.post k a n p c v d) := by
  rw [State.post_frame]; exact quiet rfl rfl rfl rfl rfl

/-- Signalling a trigger. -/
theorem signal (s : State) (k : TriggerKind) (x : Nat) : Work s (s.signal k x) := by
  rw [State.signal_frame]; exact quiet rfl rfl rfl rfl rfl

/-- Posting a reply. -/
theorem postReply (s : State) (tag : Byte) (c : ResultCode) (w : Bool) (d : List Int) : Work s (s.postReply tag c w d) :=
  quiet rfl rfl rfl rfl rfl

/-! ## Entries to a state, requests and conditions -/

/-- Entry to FROZEN from TRIAL. -/
theorem enterFrozen {s : State} {i : SecId} (h : (s.sec i).state = .trial) (cause : Cause) (src : Option Nat)
    (node : Option NodeId) (pos : Option Pos) : Work s (s.enterFrozen i cause src node pos) := by
  unfold State.enterFrozen State.postStateChange State.formOffsets
  refine (modMembers s i _).trans (.trans (of (.live _ rfl ?_)) (post ..))
  exact ⟨.inr ⟨by rw [State.sec_modMembers, h]; rfl, rfl⟩, rfl, .inl rfl, id⟩

/-- TRIAL from FROZEN. -/
theorem resumeTrial {s : State} {i : SecId} (h : (s.sec i).state = .frozen) (stepPending : Bool) :
    Work s (s.resumeTrial i stepPending) := by
  unfold State.resumeTrial State.postStateChange
  refine (modMembers s i _).trans (.trans (of (.live _ rfl ?_)) (post ..))
  exact ⟨.inr ⟨by rw [State.sec_modMembers, h]; rfl, rfl⟩, rfl, .inl rfl, id⟩

/-- TRIAL from SELECTED. -/
theorem startTrial {s : State} {i : SecId} (h : (s.sec i).state = .selected) : Work s (s.startTrial i) := by
  unfold State.startTrial State.postStateChange
  refine (modMembers s i _).trans (.trans (of (.live _ rfl ?_)) ((post ..).trans (signal ..)))
  refine ⟨.inr ⟨by rw [State.sec_modMembers, h]; rfl, rfl⟩, rfl, .inl rfl, fun _ => ?_⟩
  simp [ProfilePosition.InRange, ProfilePosition.atStart, ProfilePosition.powerOn]

/-- Entry to BYPASS. -/
theorem enterBypass (s : State) (i : SecId) (cause : Cause) (node : Option NodeId) (pos : Option Pos) :
    Work s (s.enterPassing i .bypass cause node pos) :=
  of (.passing node pos (.inl rfl))

/-- A freeze request. -/
theorem requestFreeze (s : State) (i : SecId) (cause : Cause) (src : Option Nat) (node : Option NodeId) (pos : Option Pos) :
    Work s (s.requestFreeze i cause src node pos) :=
  whenTrue fun h => enterFrozen h ..

/-- Entry to RELEASING from TRIAL or FROZEN. -/
theorem releaseRun {s : State} {i : SecId} (h : (s.sec i).state = .trial ∨ (s.sec i).state = .frozen) (target : ReleaseTarget)
    (cause : Cause) (result : CalResult) (node : Option NodeId) (pos : Option Pos) :
    Work s (s.enterReleasing i target cause result node pos) :=
  of (.releasing target cause result node pos (.inl (by rcases h with h | h <;> rw [h] <;> rfl)))

/-- A release request. -/
theorem requestRelease (s : State) (i : SecId) (cause : Cause) (node : Option NodeId) (pos : Option Pos) :
    Work s (s.requestRelease i cause node pos) :=
  whenTrue fun h => releaseRun h ..

/-- An abort request. -/
theorem requestAbort (s : State) (i : SecId) : Work s (s.requestAbort i) := whenTrue fun _ => enterBypass ..

/-- A fault condition. -/
theorem faultCondition (s : State) (i : SecId) {cause : Cause} (node : Option NodeId) (pos : Option Pos)
    (h : cause = .driveFault ∨ cause = .feedbackLost ∨ cause = .lineEntryLost ∨ cause = .lineLost) :
    Work s (s.faultCondition i cause node pos) :=
  whenTrue fun _ => of (.passing node pos (.inr (.inr ⟨rfl, h⟩)))

/-- A late request. -/
theorem takeLate (s : State) : ∀ r : LateRequest, Work s (s.takeLate r)
  | .freeze .. => requestFreeze ..
  | .release .. => requestRelease ..

/-- The request of an action. -/
theorem requestAction (s : State) (i : SecId) (a : LimitAction) (cause : Cause) (src : Option Nat) (node : Option NodeId)
    (pos : Option Pos) : Work s (s.requestAction i a cause src node pos) := by
  cases a
  case event => exact .refl
  case freeze => exact requestFreeze ..
  case release => exact requestRelease ..
  case abort => exact requestAbort ..

/-! ## The units' work on a set -/

/-- The Share Balancer's work. -/
theorem balance (s : State) (i : SecId) (complete : Bool) : Work s (s.balance i complete) := by
  have hstore : Work s (s.storeImbalances i) :=
    foldlMembers i _ id (fun _ _ h => modRec _ h) (fun _ _ => by rfl) _ _ fun _ h => h
  exact ite (fun _ => hstore.trans (modMembers ..)) fun _ => hstore

/-- The evaluation of one limit. -/
theorem evaluateLimit (s : State) (i : SecId) (c : Word16) (k : LimitKind) : Work s (s.evaluateLimit i c k) := by
  unfold State.evaluateLimit State.postLimit
  split
  · exact .refl
  · dsimp only
    split
    · exact modMonitor ..
    · exact (modMonitor ..).trans (post ..)
    · exact (modMonitor ..).trans ((post ..).trans ((signal ..).trans (requestAction ..)))

/-- The zero-cross step. -/
theorem zeroCrossStep (s : State) (i : SecId) (c : Word16) : Work s (s.zeroCrossStep i c) := by
  refine whenTrue fun _ => ?_
  split
  · exact .refl
  · exact ite (fun _ => (modMonitor ..).trans ((modMonitor ..).trans ((post ..).trans (requestAction ..)))) fun _ => modMonitor ..

/-- The Section Monitor's work. -/
theorem monitorSet (s : State) (i : SecId) (c : Word16) : Work s (s.monitorSet i c) :=
  (evaluateLimit ..).trans ((evaluateLimit ..).trans ((evaluateLimit ..).trans (zeroCrossStep ..)))

end Work

/-- The values of a follower's calibration lie within their ranges (R92). -/
theorem followerCal_inRange {node : NodeId} {pos : Option Pos} {xl xh yl yh : Int} {v : CalValues}
    (h : followerCal node pos xl xh yl yh = .ok v) :
    (12288 ≤ v.gain ∧ v.gain ≤ 20480) ∧ (-100000 ≤ v.offset ∧ v.offset ≤ 100000) := by
  unfold followerCal at h
  dsimp only at h
  split at h
  · cases h
  · split at h
    · cases h
    · split at h
      · cases h
      · cases h; dsimp only; omega

/-- The values of every follower's calibration lie within their ranges (R92). -/
theorem State.followersCal_inRange (s : State) (n yl yh : Int) : ∀ (rs : List RecId) (j : Nat) (vs : List CalValues),
    s.followersCal n yl yh rs j = .ok vs →
      ∀ v ∈ vs, (12288 ≤ v.gain ∧ v.gain ≤ 20480) ∧ (-100000 ≤ v.offset ∧ v.offset ≤ 100000)
  | [], _, vs, h, v, hv => by cases h; cases hv
  | r :: rs, j, vs, h, v, hv => by
    simp only [State.followersCal] at h
    split at h
    · cases h
    · rename_i u hu
      split at h
      · cases h
      · rename_i us hus
        cases h
        rcases List.mem_cons.1 hv with rfl | hv
        · exact followerCal_inRange hu
        · exact State.followersCal_inRange s n yl yh rs (j + 1) us hus v hv

/-- The values that a calibration writes lie within their ranges (R92, R93). -/
theorem State.computeCal_inRange {s : State} {i : SecId} {vs : List CalValues} (h : s.computeCal i = .ok vs) :
    ∀ v ∈ vs, (12288 ≤ v.gain ∧ v.gain ≤ 20480) ∧ (-100000 ≤ v.offset ∧ v.offset ≤ 100000) := by
  unfold State.computeCal at h
  dsimp only at h
  split at h
  · cases h; intro v hv; cases hv
  · split at h
    · cases h
    · exact State.followersCal_inRange _ _ _ _ _ _ _ h

namespace Work

/-- The writing of calibration values within their ranges. -/
theorem writeCal : ∀ (vs : List CalValues) (s : State),
    (∀ v ∈ vs, (12288 ≤ v.gain ∧ v.gain ≤ 20480) ∧ (-100000 ≤ v.offset ∧ v.offset ≤ 100000)) → Work s (s.writeCal vs)
  | [], _, _ => .refl
  | v :: vs, _, h =>
    (of (.entry (fun d => { d with gain := v.gain, offset := v.offset }) rfl fun _ => h v List.mem_cons_self)).trans (writeCal vs _ fun w hw => h w (List.mem_cons_of_mem _ hw))

/-- The end of a calibration, for the section that holds the engine. -/
theorem finishCal {s : State} {i : SecId} (h : s.engine.holder = some i) : Work s (s.finishCal i) := by
  unfold State.finishCal
  split
  · rename_i vs hvs
    refine (writeCal vs s (State.computeCal_inRange hvs)).trans (of (.releasing _ _ _ _ _ (.inr ?_)))
    rw [State.writeCal_frame]; exact h
  · exact of (.releasing _ _ _ _ _ (.inr h))

/-- The engine's work on a set. -/
theorem engineTakes (s : State) (i : SecId) (complete : Bool) : Work s (s.engineTakes i complete) := by
  refine whenTrue fun ⟨hi, _⟩ => ?_
  unfold State.sampleSet
  split
  · exact ite (fun _ => (modEngine _ hi).trans (modEngine (i := i) _ hi)) fun _ => modEngine _ hi
  · refine ite (fun _ => ((modEngine _ hi).trans (modEngine (i := i) _ ?_)).trans (finishCal ?_)) fun _ => modEngine _ hi
    all_goals exact hi
  all_goals exact .refl

/-- A skipped set. -/
theorem engineSkip (s : State) (i : SecId) : Work s (s.engineSkip i) := by
  refine whenTrue fun ⟨hi, _, _⟩ => ?_
  have hmod : Work s (s.modEngine fun e => { e with skipCount := e.skipCount + 1 }) := modEngine _ hi
  exact ite (fun _ => hmod.trans (of (.releasing _ _ _ _ _ (.inr hi)))) fun _ => hmod

/-- The engine's work at a dispatch. -/
theorem engineDispatch (s : State) : Work s s.engineDispatch := by
  have hsettle (e : Engine) (k : Nat) : (e.settle k).holder = e.holder := by
    unfold Engine.settle; split <;> (try split) <;> rfl
  unfold State.engineDispatch
  split
  · exact .refl
  · rename_i i hi
    exact whenTrue fun _ => ite (fun _ => of (.releasing _ _ _ _ _ (.inr hi))) fun _ =>
      modEngine _ hi fun _ => hsettle _ _

/-- The evaluation of a set. -/
theorem evaluateSet (s : State) (i : SecId) (c : Word16) (complete : Bool) : Work s (s.evaluateSet i c complete) :=
  (modSecSame s i _).trans (whenTrue fun _ => (balance ..).trans ((monitorSet ..).trans (engineTakes ..)))

/-- Set completion. -/
theorem completeSet (s : State) (i : SecId) : Work s (s.completeSet i) :=
  ite (fun _ => .refl) fun _ => whenTrue fun _ => evaluateSet ..

/-! ## Watch points and feedback -/

/-- A hit at a watch point. -/
theorem watchHit (s : State) (w : WatchId) (v : Int) (src : OccurrenceSource) : Work s (s.watchHit w v src) :=
  ite (fun _ => (modWatch ..).trans ((post ..).trans (signal ..))) fun _ => modWatch ..

/-- An occurrence at a watch point. -/
theorem occurrence (s : State) (w : WatchId) (v : Int) (src : OccurrenceSource) (change : ChangeStop) :
    Work s (s.occurrence w v src change).1 := by
  have hhit := (watchHit s w v src).trans (modWatch _ w fun p => p.seen v)
  unfold State.occurrence
  dsimp only
  split
  · generalize (if (s.watch w).action.stops = true then s.watchRequest w else none) = q
    cases q with
    | none => exact hhit
    | some r =>
      dsimp only
      split
      · exact hhit
      · exact hhit.trans (takeLate ..)
  · exact modWatch s w fun p => p.seen v

/-- A run of occurrences over the watch points. -/
theorem points (a : Watched) (n : NodeId) (src : OccurrenceSource) (values : List (WatchField × Int)) (change : ChangeStop)
    (skip : Option WatchId) : Work a.state (a.points n src values change skip).state := by
  refine foldlOn Watched.state _ (fun b w => ?_) _ _
  split
  · exact .refl
  · unfold Watched.point
    dsimp only
    split
    · split
      · exact .refl
      · exact occurrence ..
    · exact .refl

/-- The LINE occurrences of one entry. -/
theorem lineEntry (a : Watched) (e : Entry) : Work a.state (a.lineEntry e).state := by
  unfold Watched.lineEntry
  split
  · exact .refl
  · exact points ..

/-- The ISSUED occurrences of one entry. -/
theorem issuedEntry (skips : List (WatchId × Nat)) (a : Watched) (p : Entry × Nat) : Work a.state (a.issuedEntry skips p).state := by
  unfold Watched.issuedEntry
  split
  · exact .refl
  · exact points ..

/-- A feedback value and the work that follows it. -/
theorem takeFeedback (s : State) (n : NodeId) (raw load : Int) (status : BitVec 5) (src : FeedbackSource) :
    Work s (s.takeFeedback n raw load status src) := by
  unfold State.takeFeedback State.afterFeedback State.feedbackSeen
  refine (modDrive s n (fun d => d.take raw load status s.cycle src)).trans
    (.trans ?_ (points _ _ _ _ _ _))
  dsimp only
  split
  · exact .refl
  · exact (whenTrue fun _ => faultCondition _ _ _ _ (.inl rfl)).trans (completeSet ..)

/-! ## The steps of a dispatch -/

/-- The line-override check of one section. -/
theorem overrideStep (entries : List Entry) (s : State) (i : SecId) : Work s (s.overrideStep entries i) := by
  refine whenTrue fun _ => ?_
  split
  · exact enterBypass ..
  · exact .refl

/-- The close of one section's set. -/
theorem closeSet (c : Word16) (s : State) (i : SecId) : Work s (s.closeSet c i) := by
  have hcount (t : State) : Work t (t.countMissing i) := foldl _ (fun u r => modDrive u _ _) _ _
  have hlost (t : State) : Work t (match t.lostMember i with
      | some r => t.faultCondition i .feedbackLost (t.member r).node (t.member r).position
      | none => t) := by
    split
    · exact faultCondition _ _ _ _ (.inr (.inl rfl))
    · exact .refl
  refine ite (fun _ => .refl) fun _ => ?_
  have hwork := (whenTrue (c := (!(s.sec i).evaluated) = true) fun _ => evaluateSet s i c (s.allFresh i)).trans
    ((hcount _).trans (hlost _))
  exact ite (fun _ => hwork.trans (engineSkip ..)) fun _ => hwork

/-- The close of the sets. -/
theorem closeSets (s : State) : ∀ previous : Option Word16, Work s (s.closeSets previous)
  | none => quiet rfl rfl rfl rfl rfl
  | some c => (forSections _ (closeSet c) s).trans (of (.openSets _))

/-- The line reference step of one section. -/
theorem lineStep (entries : List Entry) (s : State) (i : SecId) : Work s (s.lineStep entries i) := by
  unfold State.lineStep
  split
  · exact .refl
  · split
    · exact modSecSame ..
    · have hmiss := modSecSame s i fun x => { x with lineMiss := raiseCount x.lineMiss }
      exact ite (fun _ => hmiss.trans (faultCondition _ _ _ _ (.inr (.inr (.inl rfl))))) fun _ => hmiss

end Work

/-! ## The Profile Generator (chapter 6) -/

/-- A saturated value lies within its bound. -/
theorem saturate_inRange {m : Int} (v : Int) (h : 0 ≤ m) : -m ≤ saturate m v ∧ saturate m v ≤ m := by
  unfold saturate clampTo
  split
  · omega
  · split <;> omega

/-- What the end of a segment leaves of P is in range (R105, R106). -/
theorem Segment.returned_inRange (g : Segment) {p : ProfilePosition} (h : p.InRange) :
    -200000 ≤ g.returned p ∧ g.returned p ≤ 200000 := by
  unfold Segment.returned
  split
  · exact h.2
  · exact h.2
  all_goals exact h.1

namespace Work

/-- The next segment from a P that is in range where the section's profile position is. -/
theorem nextSegment (s : State) (i : SecId) (idx pass : Nat) {p : Int}
    (hp : (s.sec i).profile.InRange → -200000 ≤ p ∧ p ≤ 200000) : Work s (s.nextSegment i idx pass p).state := by
  unfold State.nextSegment
  dsimp only
  refine modProfile _ fun h => ⟨?_, hp h⟩
  dsimp only
  split
  · exact hp h
  · exact saturate_inRange _ (by decide)

/-- The end of the profile from a P that is in range where the section's profile position is. -/
theorem endProfile (s : State) (i : SecId) {p : Int} (hp : (s.sec i).profile.InRange → -200000 ≤ p ∧ p ≤ 200000) :
    Work s (s.endProfile i p).state := by
  have hstop : Work s (s.modProfile i fun q => { q with finished := true, offset := p }) := modProfile _ fun h => ⟨hp h, h.2⟩
  unfold State.endProfile
  dsimp only
  split
  · exact hstop.trans (post ..)
  · refine (post ..).trans (nextSegment _ i 0 0 ?_)
    rw [State.sec_post]; exact hp
  · exact hstop.trans (post ..)

/-- The end of a segment. -/
theorem endSegment (s : State) (i : SecId) : Work s (s.endSegment i).state := by
  have hboundary : Work s (s.signalBoundary i) := (modMonitor ..).trans (signal ..)
  have hp : ((s.signalBoundary i).sec i).profile.InRange →
      -200000 ≤ (s.currentSegment i).returned (s.sec i).profile ∧ (s.currentSegment i).returned (s.sec i).profile ≤ 200000 := by
    rw [(s.signalBoundary_spec i).2.1]; exact fun h => Segment.returned_inRange _ h
  unfold State.endSegment
  dsimp only
  split
  · exact hboundary.trans (nextSegment _ _ _ _ hp)
  · split
    · exact hboundary.trans (nextSegment _ _ _ _ hp)
    · exact hboundary.trans (endProfile _ _ hp)

/-- The profile work of one section. -/
theorem advanceProfile (s : State) (i : SecId) : Work s (s.advanceProfile i).state := by
  unfold State.advanceProfile
  split
  · exact .refl
  · split
    · have hopen : Work s (s.modProfile i fun q => { q with gateClosed := 0 }) := modProfile _ id
      unfold State.gatedAdvance
      dsimp only
      split
      · dsimp only
        exact hopen.trans (modProfile _ fun h => ⟨saturate_inRange _ (by decide), h.2⟩)
      · exact hopen.trans (endSegment ..)
    · unfold State.gateClosed
      dsimp only
      exact modProfile _ id

/-! ## References and the dispatch (chapter 3) -/

/-- The issue of references to members. -/
theorem issueAll (i : SecId) (cs : List Candidate) (s : State) (h : ∀ c ∈ cs, c.record ∈ s.members i) :
    Work s (s.issueAll i cs) := by
  refine foldlMembers i _ Candidate.record (fun t c hc => ?_) (fun t c => ?_) cs s h
  · have hrec := modRec (fun r => { r with issued := c.issued.value, clamp := c.issued.mark }) hc
    exact ite (fun _ => hrec.trans (post ..)) fun _ => hrec
  · rw [State.issue_frame]; rfl

/-- The issue of the frozen references. -/
theorem issueFrozen (s : State) (i : SecId) : Work s (s.issueFrozen i) := by
  refine issueAll i _ s fun c hc => ?_
  obtain ⟨r, hr, rfl⟩ := List.mem_map.1 hc
  exact hr

/-- The references of a TRIAL section. -/
theorem formTrial (entries : List Entry) (s : State) (i : SecId) : Work s (s.formTrial entries i).1 := by
  unfold State.formTrial
  dsimp only
  split
  · dsimp only
    refine (issueAll i _ s fun c hc => ?_).trans (modSecSame _ i _)
    obtain ⟨r, hr, rfl⟩ := List.mem_map.1 hc
    exact hr
  · exact (watchHit ..).trans ((modWatch ..).trans ((requestFreeze ..).trans (issueFrozen ..)))

/-- The end of a release. -/
theorem endRelease (s : State) (i : SecId) : Work s (s.endRelease i) := by
  refine whenTrue fun _ => of (.passing _ _ ?_)
  cases (s.sec i).releaseTarget.getD .selected
  · exact .inr (.inl rfl)
  · exact .inl rfl

/-- The references of one section. -/
theorem takeSection (entries : List Entry) (a : Formed) (i : SecId) : Work a.state (Formed.takeSection entries a i).state := by
  have hbase (t : State) : Work t (t.setIssueBase i) :=
    modSecSame t i _
  have hline (t : State) : Work t (t.recordLine entries i) := by
    refine foldlMembers i _ id (fun u r hr => ?_) (fun u r => ?_) _ _ fun _ h => h
    · split
      · exact modRec _ hr
      · exact .refl
    · split <;> rfl
  unfold Formed.takeSection
  dsimp only
  split
  · exact (formTrial ..).trans (hbase _)
  · exact (issueFrozen ..).trans (hbase _)
  · exact (modMembers _ i _).trans
      ((issueFrozen ..).trans ((hbase _).trans (endRelease ..)))
  · refine (issueAll i _ _ fun c hc => ?_).trans (hbase _)
    obtain ⟨r, hr, rfl⟩ := List.mem_map.1 hc
    exact hr
  all_goals exact (hline _).trans (hbase _)

/-- The late requests of a dispatch. -/
theorem takeLates (s : State) (profile watch : List LateRequest) : Work s (s.takeLates profile watch) := by
  refine .trans ?_ (foldl _ takeLate _ _)
  unfold State.orderLate
  split
  · exact .refl
  · split
    · exact .refl
    · exact quiet rfl rfl rfl rfl rfl

/-- The end of a capture. -/
theorem captureDone (s : State) (detail : Nat) : Work s (s.captureDone detail) := (modCapture ..).trans (post ..)

/-- The sweep of a dispatch. -/
theorem takeSweep (s : State) (v : FrameView) : Work s (s.takeSweep v) := by
  have hrecords (rs : List CaptureRecord) (t : State) : Work t (rs.foldl State.writeRecord t) := by
    rw [State.writeRecords_control]; exact quiet rfl rfl rfl rfl rfl
  have hitem (t : State) : Work t t.advanceItem := by
    unfold State.advanceItem; split
    · exact .refl
    · exact modCapture ..
  have hend (t : State) : Work t t.endSweep := by
    unfold State.endSweep; dsimp only; split
    · exact whenTrue fun _ => captureDone ..
    · exact ite (fun _ => (modCapture ..).trans (captureDone ..)) fun _ =>
        ite (fun _ => (modCapture ..).trans (modCapture ..)) fun _ => modCapture ..
    · exact whenTrue fun _ => ite (fun _ => (modCapture ..).trans (captureDone ..)) fun _ => modCapture ..
  exact whenTrue fun _ => (hrecords _ _).trans ((hitem _).trans (hend _))

/-- Queueing a frame for the downstream port. -/
theorem forwardDown (s : State) (f : Frame) : Work s (s.forwardDown f) := whenTrue fun _ => quiet rfl rfl rfl rfl rfl

/-- Queueing a frame for the upstream port. -/
theorem forwardUp (s : State) (f : Frame) : Work s (s.forwardUp f) := whenTrue fun _ => quiet rfl rfl rfl rfl rfl

/-- Step 1 of a dispatch and its LINE occurrences. -/
theorem lineArrival (s : State) (entries : List Entry) : Work s (s.lineArrival entries).state := by
  refine .trans (forSections (State.overrideStep entries) (overrideStep entries) s) ?_
  unfold State.lineArrival
  generalize s.forSections (State.overrideStep entries) = t
  exact foldlOn Watched.state Watched.lineEntry lineEntry entries ⟨t, []⟩

/-- Steps 2 and 3 of a dispatch and the engine's work. -/
theorem cycleWork (s : State) (previous : Option Word16) (entries : List Entry) : Work s (s.cycleWork previous entries) :=
  (closeSets ..).trans ((forSections _ (lineStep entries) _).trans (engineDispatch _))

/-- Step 4 of a dispatch. -/
theorem advanceProfiles (s : State) : Work s s.advanceProfiles.state := by
  unfold State.advanceProfiles
  generalize sectionIds = is
  refine foldlOn Advanced.state _ (fun a i => ?_) is ⟨s, []⟩
  exact advanceProfile a.state i

/-- Steps 5 and 6 of a dispatch. -/
theorem formReferences (s : State) (entries : List Entry) : Work s (s.formReferences entries).state := by
  unfold State.formReferences
  generalize sectionIds = is
  exact foldlOn Formed.state (Formed.takeSection entries) (takeSection entries) is ⟨s, [], []⟩

/-- The ISSUED occurrences of a dispatch. -/
theorem issuedEntries (s : State) (skips : List (WatchId × Nat)) (l : List (Entry × Nat)) :
    Work s (l.foldl (Watched.issuedEntry skips) ⟨s, []⟩).state :=
  foldlOn Watched.state _ (issuedEntry skips) l ⟨s, []⟩

/-- The work of an accepted dispatch. -/
theorem dispatchWork (s : State) (f : DispatchFrame) : Work s (s.dispatchWork f) := by
  have hstart : Work s (s.startCycle f.cycle) := quiet rfl rfl rfl rfl rfl
  have hplace (t : State) : Work t t.placeStationFrame := quiet rfl rfl rfl rfl rfl
  unfold State.dispatchWork
  dsimp only
  exact hstart.trans <| (lineArrival ..).trans <| (cycleWork ..).trans <| (advanceProfiles _).trans <|
    (formReferences ..).trans <| (issuedEntries ..).trans <| (takeLates ..).trans <| (forwardDown ..).trans <|
    (takeSweep ..).trans (hplace _)

end Work

end Sys2Proof.Machine
end

section
/-! SUPPORT. Every command is work: what each row of the opcode table does is a sequence of moves, but for POWER_ON and RESET_LINE, which
put the power-on values in place of the state. -/

namespace Sys2Proof.Machine

/-- An answer OK leaves the state it is given. -/
theorem State.state_answerOk (s : State) (data : List Int) : (s.answerOk data).state = s := rfl

/-! ## Writes (R165) -/

/-- The state that a write leaves, where it leaves one, has the property. -/
def WriteResult.Leaves (P : State → Prop) : WriteResult → Prop
  | .written t => P t
  | .clamped t => P t
  | .refused _ _ => True

/-- A clamped value lies within the bounds. -/
theorem clampTo_inRange {lo hi : Int} (v : Int) (h : lo ≤ hi) : lo ≤ clampTo lo hi v ∧ clampTo lo hi v ≤ hi := by
  unfold clampTo
  split
  · omega
  · split <;> omega

/-- A clamping write stores a value within the bounds. -/
theorem clampWrite_leaves {P : State → Prop} {lo hi : Int} {store : Int → State} (v : Int)
    (h : ∀ x, lo ≤ x → x ≤ hi → P (store x)) (hle : lo ≤ hi := by decide) : (clampWrite lo hi v store).Leaves P := by
  unfold clampWrite
  split
  · exact h _ (clampTo_inRange v hle).1 (clampTo_inRange v hle).2
  · exact h _ (by omega) (by omega)

/-- A write that refuses values outside the bounds stores a value within them. -/
theorem rangeWrite_leaves {P : State → Prop} {lo hi : Int} {store : Int → State} (v : Int)
    (h : ∀ x, lo ≤ x → x ≤ hi → P (store x)) : (rangeWrite lo hi v store).Leaves P := by
  unfold rangeWrite
  split
  · trivial
  · exact h _ (by omega) (by omega)

/-- A write of a code stores the code's meaning. -/
theorem codeWrite_leaves {α : Type} {P : State → Prop} {store : α → State} (x : Option α) (h : ∀ a, P (store a)) :
    (codeWrite x store).Leaves P := by
  cases x with
  | none => trivial
  | some a => exact h a

/-- A write behind a check leaves what it leaves where the check does not refuse it. -/
theorem WriteResult.leaves_unless {P : State → Prop} {c : Prop} [Decidable c] {code : ResultCode} {data : List Int} {w : WriteResult}
    (h : ¬ c → w.Leaves P) : (if c then .refused code data else w).Leaves P := by
  split
  · trivial
  · exact h ‹_›

/-- A structural write leaves what its write leaves. -/
theorem State.structural_leaves {P : State → Prop} {s : State} {i : SecId} {w : WriteResult} (h : w.Leaves P) :
    (s.structural i w).Leaves P := by
  unfold State.structural
  split
  · exact h
  · trivial

namespace Work

/-- A write to the Section Table. -/
theorem writeSection (s : State) (i : SecId) (f : Nat) (v : Int) : (s.writeSection i f v).Leaves (Work s) := by
  have hprofile (lo hi : Int) (change : Nat → SectionConfig → SectionConfig) :
      (s.profileWrite i lo hi v change).Leaves (Work s) := by
    refine State.structural_leaves ?_
    split
    · trivial
    · dsimp only
      split
      · trivial
      · exact modCfg ..
  have hlimit (x : Int) : Work s (s.writeTrimLimit i x) :=
    ite (fun _ => (modCfg ..).trans (modMembers ..)) fun _ => modCfg ..
  have hlive (lo hi : Int) (g : Int → SectionConfig → SectionConfig) (hle : lo ≤ hi := by decide) :
      (clampWrite lo hi v fun x => s.modCfg i (g x)).Leaves (Work s) :=
    clampWrite_leaves v (fun _ _ _ => modCfg ..) hle
  have hrange (lo hi : Int) (g : Int → SectionConfig → SectionConfig) :
      (s.structural i (rangeWrite lo hi v fun x => s.modCfg i (g x))).Leaves (Work s) :=
    State.structural_leaves (rangeWrite_leaves v fun _ _ _ => modCfg ..)
  unfold State.writeSection
  split
  · exact hlive ..
  · exact hlive ..
  · exact hrange ..
  · exact hlive ..
  · exact clampWrite_leaves v fun x _ _ => hlimit x
  · exact hprofile ..
  · exact hprofile ..
  · exact hrange ..
  · exact State.structural_leaves (codeWrite_leaves _ fun _ => modCfg ..)
  · exact hrange ..
  · exact hlive ..
  · exact hlive ..
  · exact hrange ..
  · exact hrange ..
  · exact hrange ..
  · exact hrange ..
  · exact hrange ..
  · trivial

/-- A write to the Member Pool. -/
theorem writePool (s : State) (r : RecId) (f : Nat) (v : Int) : (s.writePool r f v).Leaves (Work s) := by
  unfold State.writePool
  split
  · split
    · exact clampWrite_leaves v fun _ _ _ => of (.record _ (.inr ‹_›) fun _ => ⟨rfl, rfl, rfl, rfl⟩)
    · trivial
  · trivial

/-- A write to the Drive Map. -/
theorem writeDrive (s : State) (n : NodeId) (f : Nat) (v : Int) : (s.writeDrive n f v).Leaves (Work s) := by
  refine WriteResult.leaves_unless fun _ => WriteResult.leaves_unless fun _ => WriteResult.leaves_unless fun _ => ?_
  split
  · exact codeWrite_leaves _ fun _ => modDrive ..
  · exact rangeWrite_leaves v fun x h1 h2 => of (.entry (fun d => { d with gain := x }) rfl fun h => ⟨⟨h1, h2⟩, h.2⟩)
  · exact rangeWrite_leaves v fun x h1 h2 => of (.entry (fun d => { d with offset := x }) rfl fun h => ⟨h.1, h1, h2⟩)

/-- A write to the Segment Table. -/
theorem writeSegment (s : State) (k : Fin 128) (f : Nat) (v : Int) : (s.writeSegment k f v).Leaves (Work s) := by
  refine WriteResult.leaves_unless fun _ => ?_
  split
  · refine WriteResult.leaves_unless fun h => of (.segment _ fun hr => ?_)
    rw [not_or, not_or, not_and] at h
    obtain ⟨hlow, hhigh, hsquare⟩ := h
    refine ⟨?_, hr.2.1, fun hk => ?_⟩
    · dsimp only; omega
    · have := hsquare hk
      dsimp only; omega
  · exact clampWrite_leaves v fun x h1 h2 => of (.segment _ fun hr => ⟨hr.1, ⟨h1, h2⟩, hr.2.2⟩)
  · split
    · exact WriteResult.leaves_unless fun h =>
        of (.segment _ fun hr => ⟨hr.1, hr.2.1, fun hk => Nat.le_of_not_lt fun hl => h ⟨hk, hl⟩⟩)
    · trivial
  · trivial

/-- A write to the Limit Set table. -/
theorem writeMonitor (s : State) (i : SecId) (f : Nat) (v : Int) : (s.writeMonitor i f v).Leaves (Work s) := by
  have hclamp (lo hi : Int) (g : Int → Monitor → Monitor) (hle : lo ≤ hi := by decide) :
      (clampWrite lo hi v fun x => s.modMonitor i (g x)).Leaves (Work s) :=
    clampWrite_leaves v (fun _ _ _ => modMonitor ..) hle
  have hcode (x : Option LimitAction) (g : LimitAction → Monitor → Monitor) :
      (codeWrite x fun a => s.modMonitor i (g a)).Leaves (Work s) :=
    codeWrite_leaves _ fun _ => modMonitor ..
  unfold State.writeMonitor
  dsimp only
  split
  · exact hclamp ..
  · exact hclamp ..
  · exact hcode ..
  · exact hclamp ..
  · exact hclamp ..
  · exact hcode ..
  · exact hclamp ..
  · exact hclamp ..
  · exact hcode ..
  · exact hclamp ..
  · exact hclamp ..
  · exact hcode ..
  · trivial

/-- A write to the Watch Table. -/
theorem writeWatch (s : State) (w : WatchId) (f : Nat) (v : Int) : (s.writeWatch w f v).Leaves (Work s) := by
  have hcode {α : Type} (x : Option α) (g : α → WatchPoint → WatchPoint) :
      (codeWrite x fun a => s.modWatch w (g a)).Leaves (Work s) :=
    codeWrite_leaves _ fun _ => modWatch ..
  unfold State.writeWatch
  dsimp only
  split
  · exact hcode ..
  · exact hcode ..
  · exact hcode ..
  · exact hcode ..
  · exact hcode ..
  · exact modWatch s w fun p => WatchPoint.rewritten { p with value := v }
  · trivial

/-- A write to the Capture List. -/
theorem writeItem (s : State) (k : Fin 8) (f : Nat) (v : Int) : (s.writeItem k f v).Leaves (Work s) := by
  have hcode {α : Type} (x : Option α) (g : α → CaptureItem → CaptureItem) :
      (codeWrite x fun a => s.modItem k (g a)).Leaves (Work s) :=
    codeWrite_leaves _ fun _ => quiet rfl rfl rfl rfl rfl
  unfold State.writeItem
  split
  · split
    · exact hcode ..
    · exact hcode ..
    · exact hcode ..
    · exact hcode ..
    · trivial
  · trivial

/-- A write to the Capture Control. -/
theorem writeCapture (s : State) (f : Nat) (v : Int) : (s.writeCapture f v).Leaves (Work s) := by
  have hcode {α : Type} (x : Option α) (g : α → CaptureControl → CaptureControl) :
      (codeWrite x fun a => s.modCapture (g a)).Leaves (Work s) :=
    codeWrite_leaves _ fun _ => modCapture ..
  have hclamp (lo hi : Int) (g : Int → CaptureControl → CaptureControl) (hle : lo ≤ hi := by decide) :
      (clampWrite lo hi v fun x => s.modCapture (g x)).Leaves (Work s) :=
    clampWrite_leaves v (fun _ _ _ => modCapture ..) hle
  refine WriteResult.leaves_unless fun _ => ?_
  split
  · split
    · exact hcode ..
    · exact hcode ..
    · exact hcode ..
    · exact hclamp ..
    · exact hclamp ..
    · exact hclamp ..
  · trivial

/-- A write to the Station Record. -/
theorem writeStation (s : State) (f : Nat) (v : Int) : (s.writeStation f v).Leaves (Work s) := by
  unfold State.writeStation
  split
  · exact clampWrite_leaves v fun _ _ _ => quiet rfl rfl rfl rfl rfl
  · trivial

/-- A write to a field of any table. -/
theorem writeField (s : State) (table e f : Nat) (v : Int) : (s.writeField table e f v).Leaves (Work s) := by
  unfold State.writeField
  split
  · exact writeSection ..
  · exact writePool ..
  · exact writeDrive ..
  · exact writeSegment ..
  · exact writeMonitor ..
  · exact writeWatch ..
  · exact writeItem ..
  · exact writeCapture ..
  · exact writeStation ..
  · trivial

/-- A write run. -/
theorem writeRun (table : Nat) : ∀ (vs : List Int) (s : State) (k n : Nat) (c : Option Nat),
    Work s (State.writeRun table s k vs n c).state
  | [], _, _, _, _ => .refl
  | v :: vs, s, k, n, c => by
    have hfield : (s.writeAt table k v).Leaves (Work s) := writeField ..
    unfold State.writeRun
    split
    · rename_i t ht; rw [ht] at hfield; exact .trans hfield (writeRun table vs ..)
    · rename_i t ht; rw [ht] at hfield; exact .trans hfield (writeRun table vs ..)
    · exact .refl

/-! ## The Service Handler (R161, R162) -/

/-- A row's request: the command's work on whatever state, level and operands it is given. -/
theorem serve (s : State) (row : CommandRow) (body : State → Level → List Int → Answer)
    (h : ∀ (t : State) (l : Level) (ops : List Int), Work t (body t l ops).state) : Work s (s.serve row body) := by
  have hdrop : Work s s.dropRequest := quiet rfl rfl rfl rfl rfl
  unfold State.serve
  split
  · exact .refl
  · dsimp only
    split
    · exact hdrop.trans (postReply ..)
    · exact hdrop.trans ((h ..).trans (postReply ..))

/-- An answer behind a check: its work where the check does not refuse. -/
theorem unlessRefused {s : State} {c : Prop} [Decidable c] {code : ResultCode} {data : List Int} {a : Answer}
    (h : ¬ c → Work s a.state) : Work s (if c then s.refuse code data else a).state := by
  split
  · exact .refl
  · exact h ‹_›

/-- A command of section 2.4: its work on a section in a state listed for it. -/
theorem onSection (s : State) (ops : List Int) (takenIn : SectionState → Bool) (body : SecId → Answer)
    (h : ∀ i, takenIn (s.sec i).state = true → Work s (body i).state) : Work s (s.onSection ops takenIn body).state := by
  unfold State.onSection
  split
  · split
    · exact .refl
    · split
      · exact h _ ‹_›
      · exact .refl
  · exact .refl

/-- A command of a member: its work on the record found. -/
theorem onMember (s : State) (ops : List Int) (body : SecId → NodeId → RecId → Answer)
    (h : ∀ i n r, r ∈ s.members i → (s.member r).node = some n → Work s (body i n r).state) :
    Work s (s.onMember ops body).state := by
  unfold State.onMember
  split
  · split
    · exact .refl
    · split
      · exact .refl
      · split
        · exact .refl
        · split
          · exact .refl
          · rename_i r hr
            exact h _ _ r (List.mem_of_find?_eq_some hr) (by simpa using List.find?_some hr)
  · exact .refl

/-! ## The commands' own work -/

/-- A read reply. -/
theorem readReply (s : State) (table k : Nat) (count : Int) : Work s (s.readReply table k count).state := by
  unfold State.readReply
  split <;> exact .refl

/-- Moving a cursor. -/
theorem setCursor (s : State) (l : Level) (c : Cursor) : Work s (s.setCursor l c) := by
  cases l <;> exact quiet rfl rfl rfl rfl rfl

/-- READ. -/
theorem readBody (s : State) (l : Level) (ops : List Int) : Work s (readBody' s l ops).state := by
  unfold readBody'
  split
  · split
    · exact readReply ..
    · exact .refl
  · exact .refl

/-- READ INDEXED. -/
theorem readIndexedBody (s : State) (l : Level) (ops : List Int) : Work s (Machine.readIndexedBody s l ops).state := by
  unfold Machine.readIndexedBody
  split
  · split
    · exact readReply ..
    · exact .refl
  · exact .refl

/-- SET CURSOR. -/
theorem setCursorBody (s : State) (l : Level) (ops : List Int) : Work s (Machine.setCursorBody s l ops).state := by
  unfold Machine.setCursorBody
  split
  · split
    · exact setCursor ..
    · exact .refl
  · exact .refl

/-- READ NEXT. -/
theorem readNextBody (s : State) (l : Level) (ops : List Int) : Work s (Machine.readNextBody s l ops).state := by
  unfold Machine.readNextBody
  split
  · dsimp only
    split
    · exact .refl
    · exact setCursor ..
  · exact .refl

/-- WRITE. -/
theorem writeBody (s : State) (l : Level) (ops : List Int) : Work s (Machine.writeBody s l ops).state := by
  unfold Machine.writeBody
  split
  · split
    · exact writeRun ..
    · exact .refl
  · exact .refl

/-- WRITE NEXT. -/
theorem writeNextBody (s : State) (l : Level) (ops : List Int) : Work s (Machine.writeNextBody s l ops).state :=
  (writeRun ..).trans (setCursor ..)

/-- READ EVENTS. -/
theorem readEventsBody (s : State) (l : Level) (ops : List Int) : Work s (Machine.readEventsBody s l ops).state := by
  unfold Machine.readEventsBody
  split
  · split
    · exact .refl
    · exact quiet rfl rfl rfl rfl rfl
  · exact .refl

/-- PEEK EVENTS. -/
theorem peekEventsBody (s : State) (l : Level) (ops : List Int) : Work s (Machine.peekEventsBody s l ops).state := by
  unfold Machine.peekEventsBody
  split
  · split <;> exact .refl
  · exact .refl

/-- SELECT. -/
theorem selectBody (s : State) (l : Level) (ops : List Int) : Work s (Machine.selectBody s l ops).state := by
  refine onSection _ _ _ _ fun i _ => ?_
  split
  · exact .refl
  · split
    · exact .refl
    · exact (modMonitor ..).trans (of (.passing _ _ (.inr (.inl rfl))))

/-- DESELECT. -/
theorem deselectBody (s : State) (l : Level) (ops : List Int) : Work s (Machine.deselectBody s l ops).state :=
  onSection _ _ _ _ fun _ _ => enterBypass ..

/-- START. -/
theorem startBody (s : State) (l : Level) (ops : List Int) : Work s (Machine.startBody s l ops).state := by
  refine onSection _ _ _ _ fun i hi => ?_
  split
  · exact .refl
  · split
    · exact .refl
    · split
      · exact .refl
      · split
        · exact startTrial (of_decide_eq_true hi)
        · exact .refl

/-- FREEZE. -/
theorem freezeBody (s : State) (l : Level) (ops : List Int) : Work s (Machine.freezeBody s l ops).state :=
  onSection _ _ _ _ fun _ hi => enterFrozen (of_decide_eq_true hi) ..

/-- CONTINUE. -/
theorem continueBody (s : State) (l : Level) (ops : List Int) : Work s (Machine.continueBody s l ops).state :=
  onSection _ _ _ _ fun _ hi => resumeTrial (of_decide_eq_true hi) ..

/-- STEP. -/
theorem stepBody (s : State) (l : Level) (ops : List Int) : Work s (Machine.stepBody s l ops).state := by
  refine onSection _ _ _ _ fun i hi => ?_
  split
  · exact .refl
  · exact resumeTrial (of_decide_eq_true hi) ..

/-- STOP. -/
theorem stopBody (s : State) (l : Level) (ops : List Int) : Work s (Machine.stopBody s l ops).state :=
  onSection _ _ _ _ fun _ hi => releaseRun (by simpa using hi) ..

/-- ABORT. -/
theorem abortBody (s : State) (l : Level) (ops : List Int) : Work s (Machine.abortBody s l ops).state :=
  onSection _ _ _ _ fun _ _ => enterBypass ..

/-- CALIBRATE. -/
theorem calibrateBody (s : State) (l : Level) (ops : List Int) : Work s (Machine.calibrateBody s l ops).state := by
  refine onSection _ _ _ _ fun i hi => unlessRefused fun _ => unlessRefused fun _ => unlessRefused fun _ => unlessRefused fun _ =>
    unlessRefused fun _ => ?_
  split
  · exact .refl
  · exact of (.calibrating (of_decide_eq_true hi) ‹_›)

/-- TRIGGER. -/
theorem triggerBody (s : State) (l : Level) (ops : List Int) : Work s (Machine.triggerBody s l ops).state := by
  refine onSection _ _ _ _ fun i _ => ?_
  split
  · exact modProfile (fun q => { q with cycleCount := 0 }) id
  · exact .refl

/-- CLEAR FAULT. -/
theorem clearFaultBody (s : State) (l : Level) (ops : List Int) : Work s (Machine.clearFaultBody s l ops).state := by
  refine onSection _ _ _ _ fun i _ => ?_
  split
  · exact .refl
  · exact enterBypass ..

/-- ADD MEMBER. -/
theorem addMemberBody (s : State) (l : Level) (ops : List Int) : Work s (Machine.addMemberBody s l ops).state := by
  unfold Machine.addMemberBody
  split
  · split
    · exact .refl
    · split
      · exact .refl
      · refine unlessRefused fun _ => unlessRefused fun _ => unlessRefused fun hn => unlessRefused fun hl => ?_
        split
        · exact .refl
        · rename_i r hr
          exact of (.addMember _ (by simpa using hn) (by omega) (by simpa using List.find?_some hr))
  · exact .refl

/-- REMOVE MEMBER. -/
theorem removeMemberBody (s : State) (l : Level) (ops : List Int) : Work s (Machine.removeMemberBody s l ops).state :=
  onMember _ _ _ fun _ _ _ hr hn => of (.removeMember hr hn)

/-- MAKE LEAD. -/
theorem makeLeadBody (s : State) (l : Level) (ops : List Int) : Work s (Machine.makeLeadBody s l ops).state := by
  refine onMember _ _ _ fun i n r hr _ => ?_
  split
  · exact .refl
  · exact of (.makeLead hr)

/-- INJECT FEEDBACK. -/
theorem injectBody (s : State) (l : Level) (ops : List Int) : Work s (Machine.injectBody s l ops).state := by
  unfold Machine.injectBody
  split
  · split
    · exact .refl
    · split
      · exact .refl
      · refine unlessRefused fun _ => unlessRefused fun _ => unlessRefused fun _ => unlessRefused fun _ => unlessRefused fun _ => ?_
        dsimp only [State.state_answerOk]
        exact takeFeedback ..
  · exact .refl

/-- Setting a snapshot latch. -/
theorem setLatch (s : State) (i : SecId) (v : Option Snapshot) : Work s (s.setLatch i v) := modSecSame s i _

/-- LATCH SNAPSHOT. -/
theorem latchBody (s : State) (l : Level) (ops : List Int) : Work s (Machine.latchBody s l ops).state := by
  unfold Machine.latchBody
  split
  · split
    · exact .refl
    · split
      · exact .refl
      · exact setLatch ..
  · exact .refl

/-- READ SNAPSHOT. -/
theorem readSnapshotBody (s : State) (l : Level) (ops : List Int) : Work s (Machine.readSnapshotBody s l ops).state := by
  unfold Machine.readSnapshotBody
  split
  · split
    · exact .refl
    · split
      · exact .refl
      · split
        · exact whenTrue fun _ => setLatch ..
        · exact .refl
  · exact .refl

/-- CAPTURE START. -/
theorem captureStartBody (s : State) (l : Level) (ops : List Int) : Work s (Machine.captureStartBody s l ops).state := by
  unfold Machine.captureStartBody
  split
  · split
    · split
      · exact .refl
      · split
        · exact .refl
        · split
          · exact .refl
          · exact quiet rfl rfl rfl rfl rfl
    · exact .refl
  · exact .refl

/-- CAPTURE STOP. -/
theorem captureStopBody (s : State) (l : Level) (ops : List Int) : Work s (Machine.captureStopBody s l ops).state := by
  have hcapture (f : CaptureControl → CaptureControl) : Work s ((s.modCapture f).answerOk []).state := modCapture s f
  unfold Machine.captureStopBody
  split
  · split
    · exact hcapture _
    · exact hcapture _
    · exact hcapture _
    · exact .refl
    · exact .refl
  · exact .refl

/-- TRIGGER CAPTURE. -/
theorem triggerCaptureBody (s : State) (l : Level) (ops : List Int) : Work s (Machine.triggerCaptureBody s l ops).state := by
  unfold Machine.triggerCaptureBody
  split
  · dsimp only
    split
    · exact signal s .command 0
    · exact .refl
  · exact .refl

/-- The effects of RESTART. -/
theorem restartWork (s : State) : Work s s.restartWork := by
  have hsection (t : State) (i : SecId) : Work t (t.restartSection i) := ite (fun _ => .refl) fun _ => enterBypass ..
  have hrecords (t : State) (i : SecId) : Work t (t.restartRecords i) := by
    unfold State.restartRecords State.clearLimits
    exact .trans (setLatch t i none) (modMonitor ..)
  have hcursors (t : State) : Work t { t with observeCursor := Cursor.powerOn, commissionCursor := Cursor.powerOn } :=
    quiet rfl rfl rfl rfl rfl
  have hempty (t : State) : Work t { t with events := [] } := quiet rfl rfl rfl rfl rfl
  have hevents (t : State) : Work t t.restartEvents := (hempty t).trans (post ..)
  unfold State.restartWork
  dsimp only
  exact (forSections _ hsection s).trans <| (modCapture ..).trans <| (hevents _).trans <| (hcursors _).trans <|
    (forSections _ hrecords _).trans <| foldl _ (fun t w => modWatch t w _) _ _

/-! ## Lines and frames -/

/-- A change of the permit line. -/
theorem permitChange (s : State) (active : Bool) : Work s (s.permitChange active) := by
  have hlost (t : State) (i : SecId) : Work t (t.permitLost i) := by
    have hrelease (h : (t.sec i).state.rewriting = true) :
        Work t (t.enterReleasing i .bypass .permit (.abandoned .permit) none none) := of (.releasing _ _ _ _ _ (.inl h))
    unfold State.permitLost
    split
    · rename_i h; exact hrelease (by rw [h]; rfl)
    · rename_i h; exact hrelease (by rw [h]; rfl)
    · rename_i h; exact hrelease (by rw [h]; rfl)
    · exact of (.live _ rfl ⟨.inl rfl, rfl, .inr ⟨‹_›, rfl⟩, id⟩)
    all_goals exact .refl
  have hpermit : Work s { s with permit := active } := quiet rfl rfl rfl rfl rfl
  exact hpermit.trans ((ite (fun _ => .refl) fun _ => forSections _ hlost _).trans (post ..))

end Work
end Sys2Proof.Machine
end

section
/-! SUPPORT. A step is work or a power-up, so what holds after power-up and is kept by every move is kept by every step. -/

namespace Sys2Proof.Machine

namespace Work

/-- The intake of a return. -/
theorem intake (s : State) (f : ReturnFrame) : Work s (s.intake f) := by
  unfold State.intake
  split
  · exact takeFeedback ..
  · exact .refl

/-- The arbiter. -/
theorem arbitrate (s : State) : Work s s.arbitrate := by
  have hsend (t : State) (x : UpPlace × ReadyFrame) : Work t (t.sendUp x) := by
    obtain ⟨p, f⟩ := x
    cases p <;> exact quiet rfl rfl rfl rfl rfl
  have hdraw : Work s { s with freeDraws := s.freeDraws + 1 } := quiet rfl rfl rfl rfl rfl
  unfold State.arbitrate
  split
  · exact .refl
  · exact hsend ..
  · exact hdraw.trans (hsend ..)

/-- Sending the head of the downstream queue. -/
theorem sendDown (s : State) : Work s s.sendDown := by
  unfold State.sendDown
  split
  · exact .refl
  · exact quiet rfl rfl rfl rfl rfl

/-- A command of a powered bridge that is work. -/
theorem of_whenPowered {s t : State} {f : State → State} (h : s.whenPowered f = .next t) (hf : Work s (f s)) : Work s t := by
  cases h
  exact whenTrue fun _ => hf

/-- A row's command. -/
theorem of_serve {s t : State} {row : CommandRow} {body : State → Level → List Int → Answer}
    (h : s.whenPowered (fun s => s.serve row body) = .next t)
    (hbody : ∀ (u : State) (l : Level) (ops : List Int), Work u (body u l ops).state) : Work s t :=
  of_whenPowered h (serve s row body hbody)

/-- Every command but POWER_ON and RESET_LINE is work. -/
theorem of_exec {c : Instr} {s t : State} (h : exec c s = .next t) :
    Work s t ∨ ∃ straps permit, t = s.powerUp straps permit := by
  cases c
  case powerOn straps permit => cases h; exact .inr ⟨straps, permit, rfl⟩
  case resetLine straps permit =>
    cases h
    split
    · exact .inr ⟨straps, permit, rfl⟩
    · exact .inl .refl
  all_goals left
  case permitLineChange active =>
    simp only [exec, execPermitLineChange] at h
    exact of_whenPowered h (ite (fun _ => .refl) fun _ => permitChange ..)
  case lineTimerExpiry =>
    simp only [exec, execLineTimerExpiry] at h
    have hexpired : Work s { s with timer := .expired } := quiet rfl rfl rfl rfl rfl
    exact of_whenPowered h (whenTrue fun _ => hexpired.trans (forSections _
      (fun t i => faultCondition t i none none (.inr (.inr (.inr rfl)))) _))
  case dispatch f =>
    simp only [exec, execDispatch] at h
    exact of_whenPowered h (whenTrue fun _ => dispatchWork s f)
  case returnFrame f =>
    simp only [exec, execReturnFrame] at h
    exact of_whenPowered h ((forwardUp ..).trans (intake ..))
  case serviceRequest f =>
    simp only [exec, execServiceRequest] at h
    refine of_whenPowered h (whenTrue fun _ => ite (fun _ => ?_) fun _ => forwardDown ..)
    exact whenTrue fun _ => quiet rfl rfl rfl rfl rfl
  case otherStationFrame f =>
    simp only [exec, execOtherStationFrame] at h
    exact of_whenPowered h (whenTrue fun _ => forwardUp ..)
  case badFrame => cases h; exact .refl
  case upstreamSend =>
    simp only [exec, execUpstreamSend] at h
    exact of_whenPowered h (arbitrate s)
  case downstreamSend =>
    simp only [exec, execDownstreamSend] at h
    exact of_whenPowered h (sendDown s)
  case powerLoss =>
    simp only [exec, execPowerLoss] at h
    exact of_whenPowered h (quiet rfl rfl rfl rfl rfl)
  case read => exact of_serve h readBody
  case write => exact of_serve h writeBody
  case readIndexed => exact of_serve h readIndexedBody
  case setCursor => exact of_serve h setCursorBody
  case readNext => exact of_serve h readNextBody
  case writeNext => exact of_serve h writeNextBody
  case readEvents => exact of_serve h readEventsBody
  case peekEvents => exact of_serve h peekEventsBody
  case restart =>
    simp only [exec, execRestart] at h
    have hdrop : Work s s.dropRequest := quiet rfl rfl rfl rfl rfl
    refine of_whenPowered h ?_
    split
    · exact .refl
    · split
      · exact hdrop.trans (postReply ..)
      · exact hdrop.trans ((postReply ..).trans (restartWork _))
  case unknownCommandCode =>
    simp only [exec, execUnknownCommandCode] at h
    have hdrop : Work s s.dropRequest := quiet rfl rfl rfl rfl rfl
    refine of_whenPowered h ?_
    split
    · exact .refl
    · exact ite (fun _ => .refl) fun _ => hdrop.trans (postReply ..)
  case select => exact of_serve h selectBody
  case deselect => exact of_serve h deselectBody
  case start => exact of_serve h startBody
  case freeze => exact of_serve h freezeBody
  case continueTrial => exact of_serve h continueBody
  case stepRun => exact of_serve h stepBody
  case stopTrial => exact of_serve h stopBody
  case abort => exact of_serve h abortBody
  case calibrate => exact of_serve h calibrateBody
  case trigger => exact of_serve h triggerBody
  case clearFault => exact of_serve h clearFaultBody
  case addMember => exact of_serve h addMemberBody
  case removeMember => exact of_serve h removeMemberBody
  case makeLead => exact of_serve h makeLeadBody
  case injectFeedback => exact of_serve h injectBody
  case latchSnapshot => exact of_serve h latchBody
  case readSnapshot => exact of_serve h readSnapshotBody
  case captureStart => exact of_serve h captureStartBody
  case captureStop => exact of_serve h captureStopBody
  case triggerCapture => exact of_serve h triggerCaptureBody

end Work

/-- A property that holds after power-up and that every move keeps is kept by every step. -/
theorem KeptByStep.of_moves {P : State → Prop} (hup : ∀ (s : State) (straps : BitVec 6) (permit : Bool), P (s.powerUp straps permit))
    (hmove : ∀ {s t : State}, Move s t → P s → P t) : KeptByStep P := by
  have hwork {s t : State} (h : Work s t) (hs : P s) : P t := by
    induction h with
    | refl => exact hs
    | tail _ hm ih => exact hmove hm ih
  intro s t hs ht
  unfold step at ht
  split at ht
  · cases ht; exact hs
  · rename_i c rest hc
    have hrest : P { s with pending := rest } := hmove (.quiet (s := s) ⟨rfl, rfl, rfl, rfl, rfl⟩) hs
    rcases Work.of_exec ht with h | ⟨straps, permit, rfl⟩
    · exact hwork h hrest
    · exact hup _ straps permit

end Sys2Proof.Machine
end

section
/-! SUPPORT. The membership commands (R12 to R14): what they leave of every table, and that they and every change of anything else keep
member lists, pool records and assigned sections consistent (R9, R10). -/

namespace Sys2Proof.Machine

/-! ## Positions written from the order of a list (R10) -/

/-- Write a position into each record of a list of records with their positions. -/
def State.place (s : State) (l : List (RecId × Nat)) : State :=
  l.foldl (fun t p => t.modRec p.1 fun r => { r with position := some (Fin.ofNat 4 p.2) }) s

/-- Positions are written from the order of the list. -/
theorem State.renumber_eq (s : State) (ms : List RecId) : s.renumber ms = s.place ms.zipIdx := rfl

/-- Writing positions changes the pool alone. -/
theorem State.place_frame (s : State) (l : List (RecId × Nat)) : s.place l = { s with pool := (s.place l).pool } := by
  unfold State.place
  induction l generalizing s with
  | nil => rfl
  | cons x l ih => rw [List.foldl_cons, ih]; rfl

/-- Writing positions leaves a record that is not in the list. -/
theorem State.member_place_other {p : RecId} : ∀ (l : List (RecId × Nat)) (s : State), (∀ x ∈ l, x.1 ≠ p) →
    (s.place l).member p = s.member p
  | [], _, _ => rfl
  | x :: l, s, h => by
    have ih := State.member_place_other l (s.modRec x.1 fun r => { r with position := some (Fin.ofNat 4 x.2) })
      fun y hy => h y (List.mem_cons_of_mem _ hy)
    exact ih.trans (by rw [State.member_modRec, if_neg (h x List.mem_cons_self).symm])

/-- Writing positions from a number on writes the place of each record of a list without repetition. -/
theorem State.member_place {p : RecId} : ∀ (ms : List RecId) (s : State) (n k : Nat), ms.Nodup → ms[k]? = some p →
    (s.place (ms.zipIdx n)).member p = { s.member p with position := some (Fin.ofNat 4 (n + k)) }
  | [], _, _, _, _, h => by simp at h
  | r :: ms, s, n, k, hnd, h => by
    obtain ⟨hr, hms⟩ := List.nodup_cons.1 hnd
    let t := s.modRec r fun q => { q with position := some (Fin.ofNat 4 n) }
    show (t.place (ms.zipIdx (n + 1))).member p = _
    cases k with
    | zero =>
      cases h
      rw [State.member_place_other, State.member_modRec, if_pos rfl]; rfl
      rintro x hx rfl
      exact hr (List.fst_mem_of_mem_zipIdx hx)
    | succ k =>
      have hp : p ≠ r := fun e => hr (e ▸ List.mem_of_getElem? h)
      rw [State.member_place ms t (n + 1) k hms h, State.member_modRec, if_neg hp, Nat.add_right_comm]
      rfl

/-- The record at a place of the list after the positions were written. -/
theorem State.member_renumber (s : State) {ms : List RecId} (hnd : ms.Nodup) {k : Nat} {p : RecId} (h : ms[k]? = some p) :
    (s.renumber ms).member p = { s.member p with position := some (Fin.ofNat 4 k) } := by
  rw [State.renumber_eq, State.member_place ms s 0 k hnd h, Nat.zero_add]

/-- A record outside the list after the positions were written. -/
theorem State.member_renumber_other (s : State) {ms : List RecId} {p : RecId} (h : p ∉ ms) :
    (s.renumber ms).member p = s.member p :=
  State.member_place_other _ s fun _ hx e => h (e ▸ List.fst_mem_of_mem_zipIdx hx)

/-- Writing positions changes the pool alone. -/
theorem State.renumber_frame (s : State) (ms : List RecId) : s.renumber ms = { s with pool := (s.renumber ms).pool } :=
  s.place_frame _

/-! ## The changes of a member list -/

@[simp] theorem State.sec_renumber (s : State) (ms : List RecId) (j : SecId) : (s.renumber ms).sec j = s.sec j := by
  rw [State.renumber_frame]; rfl
@[simp] theorem State.drive_renumber (s : State) (ms : List RecId) (m : NodeId) : (s.renumber ms).drive m = s.drive m := by
  rw [State.renumber_frame]; rfl
@[simp] theorem State.member_setMembers (s : State) (i : SecId) (ms : List RecId) (p : RecId) :
    (s.setMembers i ms).member p = s.member p := rfl
@[simp] theorem State.drive_setMembers (s : State) (i : SecId) (ms : List RecId) (m : NodeId) :
    (s.setMembers i ms).drive m = s.drive m := rfl

/-- A section after section i was given a member list. -/
theorem State.sec_setMembers (s : State) (i : SecId) (ms : List RecId) (j : SecId) :
    (s.setMembers i ms).sec j = if j = i then { s.sec i with members := ms, lastSet := none } else s.sec j := by
  unfold State.setMembers; rw [State.sec_modSec]

/-- ADD MEMBER's section (R9, R12). -/
theorem State.sec_addMember (s : State) (i : SecId) (n : NodeId) (w : Nat) (r : RecId) (j : SecId) :
    (s.addMember i n w r).sec j =
      if j = i then { s.sec i with members := s.members i ++ [r], lastSet := none } else s.sec j := by
  simp [State.addMember, State.sec_setMembers, State.members]

/-- ADD MEMBER's record (R10, R12). -/
theorem State.member_addMember (s : State) (i : SecId) (n : NodeId) (w : Nat) (r p : RecId) :
    (s.addMember i n w r).member p =
      if p = r then
        { PoolRecord.free with
          inUse := true, inSection := some i, node := some n, position := some (Fin.ofNat 4 (s.members i).length), weight := w }
      else s.member p := by
  simp [State.addMember, State.member_modRec]

/-- ADD MEMBER's Drive Map entry (R12). -/
theorem State.drive_addMember (s : State) (i : SecId) (n : NodeId) (w : Nat) (r : RecId) (m : NodeId) :
    (s.addMember i n w r).drive m = if m = n then { s.drive n with inSection := some i } else s.drive m := by
  simp [State.addMember, State.drive_modDrive]

/-- REMOVE MEMBER's section (R13). -/
theorem State.sec_removeMember (s : State) (i : SecId) (n : NodeId) (r : RecId) (j : SecId) :
    (s.removeMember i n r).sec j =
      if j = i then { s.sec i with members := (s.members i).filter (· ≠ r), lastSet := none } else s.sec j := by
  simp [State.removeMember, State.sec_setMembers]

/-- REMOVE MEMBER frees the record (R13). -/
theorem State.member_removeMember_self (s : State) (i : SecId) (n : NodeId) (r : RecId) :
    (s.removeMember i n r).member r = PoolRecord.free := by
  simp [State.removeMember, State.member_modRec]

/-- REMOVE MEMBER moves up the members behind the record (R13). -/
theorem State.member_removeMember {s : State} {i : SecId} (n : NodeId) (r : RecId) (hnd : (s.members i).Nodup) {k : Nat} {p : RecId}
    (h : ((s.members i).filter (· ≠ r))[k]? = some p) :
    (s.removeMember i n r).member p = { s.member p with position := some (Fin.ofNat 4 k) } := by
  have hp : p ≠ r := by simpa using (List.mem_filter.1 (List.mem_of_getElem? h)).2
  have hplace := (s.setMembers i ((s.members i).filter (· ≠ r))).member_renumber (hnd.filter _) h
  simpa [State.removeMember, State.member_modRec, hp] using hplace

/-- REMOVE MEMBER leaves the records of other sections and the free ones (R13). -/
theorem State.member_removeMember_other {s : State} {i : SecId} (n : NodeId) {r p : RecId} (hr : r ∈ s.members i)
    (hp : p ∉ s.members i) : (s.removeMember i n r).member p = s.member p := by
  have hpr : p ≠ r := fun e => hp (e ▸ hr)
  have hout : p ∉ (s.members i).filter (· ≠ r) := fun h => hp (List.mem_of_mem_filter h)
  have hplace := (s.setMembers i ((s.members i).filter (· ≠ r))).member_renumber_other hout
  simpa [State.removeMember, State.member_modRec, hpr] using hplace

/-- REMOVE MEMBER's Drive Map entry (R13). -/
theorem State.drive_removeMember (s : State) (i : SecId) (n : NodeId) (r : RecId) (m : NodeId) :
    (s.removeMember i n r).drive m = if m = n then { s.drive n with inSection := none } else s.drive m := by
  simp [State.removeMember, State.drive_modDrive]

/-- REMOVE MEMBER changes sections, records and Drive Map alone (R13). -/
theorem State.removeMember_frame (s : State) (i : SecId) (n : NodeId) (r : RecId) : s.removeMember i n r = { s with
    sections := (s.removeMember i n r).sections, pool := (s.removeMember i n r).pool
    drives := (s.removeMember i n r).drives } := by
  unfold State.removeMember
  dsimp only
  rw [State.renumber_frame]; rfl

/-- MAKE LEAD's section (R14). -/
theorem State.sec_makeLead (s : State) (i : SecId) (r : RecId) (j : SecId) :
    (s.makeLead i r).sec j =
      if j = i then { s.sec i with members := r :: (s.members i).filter (· ≠ r), lastSet := none } else s.sec j := by
  simp [State.makeLead, State.sec_setMembers]

/-- The new order of a list without repetition has none (R14). -/
theorem nodup_leadFirst {ms : List RecId} (r : RecId) (h : ms.Nodup) : (r :: ms.filter (· ≠ r)).Nodup :=
  List.nodup_cons.2 ⟨by simp, h.filter _⟩

/-- The new order of a list holds nothing new (R14). -/
theorem mem_of_mem_leadFirst {ms : List RecId} {r p : RecId} (hr : r ∈ ms) (hp : p ∈ r :: ms.filter (· ≠ r)) : p ∈ ms := by
  rcases List.mem_cons.1 hp with rfl | hp
  · exact hr
  · exact List.mem_of_mem_filter hp

/-- MAKE LEAD writes each member's place (R14). -/
theorem State.member_makeLead {s : State} {i : SecId} (r : RecId) (hnd : (s.members i).Nodup) {k : Nat} {p : RecId}
    (h : (r :: (s.members i).filter (· ≠ r))[k]? = some p) :
    (s.makeLead i r).member p = { s.member p with position := some (Fin.ofNat 4 k) } :=
  (s.setMembers i _).member_renumber (nodup_leadFirst r hnd) h

/-- MAKE LEAD leaves the records of other sections and the free ones (R14). -/
theorem State.member_makeLead_other {s : State} {i : SecId} {r p : RecId} (hr : r ∈ s.members i) (hp : p ∉ s.members i) :
    (s.makeLead i r).member p = s.member p :=
  (s.setMembers i _).member_renumber_other fun h => hp (mem_of_mem_leadFirst hr h)

/-- MAKE LEAD changes sections and records alone (R14). -/
theorem State.makeLead_frame (s : State) (i : SecId) (r : RecId) :
    s.makeLead i r = { s with sections := (s.makeLead i r).sections, pool := (s.makeLead i r).pool } := by
  unfold State.makeLead
  dsimp only
  rw [State.renumber_frame]; rfl

/-! ## Consistency (R9, R10) -/

/-- The place of a member is a position (R9). -/
theorem position_val {k : Nat} (h : k < 4) : (some (Fin.ofNat 4 k) : Option Pos).map Fin.val = some k := by
  simp [Nat.mod_eq_of_lt h]

/-- A member's record is in use and names its section (R10). -/
theorem MembersConsistent.record_of_mem {s : State} (hm : MembersConsistent s) {i : SecId} {r : RecId} (h : r ∈ s.members i) :
    (s.member r).inUse = true ∧ (s.member r).inSection = some i := by
  obtain ⟨k, hk⟩ := List.getElem?_of_mem h
  obtain ⟨huse, hsec, _⟩ := hm.2.1 i k r hk
  exact ⟨huse, hsec⟩

/-- A record stands in one list at most (R9). -/
theorem MembersConsistent.list_unique {s : State} (hm : MembersConsistent s) {i j : SecId} {r : RecId} (hi : r ∈ s.members i)
    (hj : r ∈ s.members j) : i = j :=
  Option.some.inj ((hm.record_of_mem hi).2.symm.trans (hm.record_of_mem hj).2)

/-- Two members of a section with one node are one record (R9). -/
theorem MembersConsistent.record_unique {s : State} (hm : MembersConsistent s) {i : SecId} {p r : RecId} (hp : p ∈ s.members i)
    (hr : r ∈ s.members i) (h : (s.member p).node = (s.member r).node) : p = r :=
  List.inj_on_of_nodup_map (hm.1 i).2 hp hr h

/-- t has the member lists, assigned sections and identities of s, and the free values wherever s has them. -/
structure SameMembership (s t : State) : Prop where
  members : ∀ i, t.members i = s.members i
  inSection : ∀ n, (t.drive n).inSection = (s.drive n).inSection
  record : ∀ r, (s.member r).SameMember (t.member r)
  free : ∀ r, (∀ i, r ∉ s.members i) → (s.member r).inUse = false → t.member r = s.member r

/-- What keeps membership keeps consistency. -/
theorem MembersConsistent.of_same {s t : State} (hm : MembersConsistent s) (h : SameMembership s t) : MembersConsistent t := by
  obtain ⟨hlists, hrecords, hentries, hpool⟩ := hm
  refine ⟨fun i => ?_, fun i k r hk => ?_, fun n i hn => ?_, fun r => ?_⟩
  · simp only [h.members, (h.record _).node]; exact hlists i
  · rw [h.members] at hk
    rw [(h.record r).inUse, (h.record r).inSection, (h.record r).position, (h.record r).node]
    simpa only [h.inSection] using hrecords i k r hk
  · rw [h.inSection] at hn
    simpa only [h.members, (h.record _).node] using hentries n i hn
  · have hr := hpool r
    rw [(h.record r).inUse]
    cases huse : (s.member r).inUse with
    | true => simpa only [huse, h.members, if_true] using hr
    | false =>
      have hfree : s.member r = PoolRecord.free := by simpa [huse] using hr
      have hout (i : SecId) (hi : r ∈ s.members i) : False := by
        obtain ⟨k, hk⟩ := List.getElem?_of_mem hi
        exact Bool.false_ne_true (huse.symm.trans (hrecords i k r hk).1)
      simpa [h.free r hout huse] using hfree

/-- A new order of some members of section i, the others freed, keeps consistency (R13, R14). -/
theorem MembersConsistent.relist {s t : State} (hm : MembersConsistent s) {i : SecId} {ms : List RecId} (hnd : ms.Nodup)
    (hsub : ∀ r ∈ ms, r ∈ s.members i) (hself : t.members i = ms) (hother : ∀ j, j ≠ i → t.members j = s.members j)
    (hplace : ∀ (k : Nat) (p : RecId), ms[k]? = some p → t.member p = { s.member p with position := some (Fin.ofNat 4 k) })
    (hgone : ∀ p ∈ s.members i, p ∉ ms → t.member p = PoolRecord.free)
    (hout : ∀ p, p ∉ s.members i → t.member p = s.member p)
    (hfreed : ∀ p ∈ s.members i, p ∉ ms → ∀ n, (s.member p).node = some n → (t.drive n).inSection = none)
    (hkept : ∀ n, (∀ p ∈ s.members i, p ∉ ms → (s.member p).node ≠ some n) → (t.drive n).inSection = (s.drive n).inSection) :
    MembersConsistent t := by
  have hlen : ms.length ≤ 4 := ((hnd.subperm hsub).length_le).trans (hm.1 i).1
  have hnode (p : RecId) (hp : p ∈ ms) : (t.member p).node = (s.member p).node := by
    obtain ⟨k, hk⟩ := List.getElem?_of_mem hp
    rw [hplace k p hk]
  have haway {j : SecId} (hj : j ≠ i) {p : RecId} (hp : p ∈ s.members j) : p ∉ s.members i := fun h => hj (hm.list_unique hp h)
  have hstays (p : RecId) (j : SecId) (hp : p ∈ t.members j) : p ∈ s.members j := by
    by_cases hj : j = i
    · subst hj; exact hsub p (hself ▸ hp)
    · exact hother j hj ▸ hp
  have hentry (p : RecId) (j : SecId) (hp : p ∈ t.members j) (n : NodeId) (hn : (s.member p).node = some n) :
      (t.drive n).inSection = (s.drive n).inSection := by
    refine hkept n fun q hq hqms hqn => ?_
    have hpj := hstays p j hp
    have hij : i = j := by
      have h1 := hm.facts hq
      have h2 := hm.facts hpj
      refine hm.section_unique hq hpj ?_
      exact Option.some.inj (h1.1.symm.trans (hqn.trans (hn.symm.trans h2.1)))
    subst hij
    exact hqms (hm.record_unique hq hpj (hqn.trans hn.symm) ▸ hself ▸ hp)
  refine ⟨fun j => ?_, fun j k p hk => ?_, fun n j hn => ?_, fun p => ?_⟩
  · by_cases hj : j = i
    · subst hj
      rw [hself, List.map_congr_left hnode]
      exact ⟨hlen, hnd.map_on fun p hp q hq e => hm.record_unique (hsub p hp) (hsub q hq) e⟩
    · rw [hother j hj, List.map_congr_left fun p hp => by rw [hout p (haway hj hp)]]
      exact hm.1 j
  · have hp : p ∈ t.members j := List.mem_of_getElem? hk
    by_cases hj : j = i
    · subst hj
      rw [hself] at hk
      obtain ⟨l, hl⟩ := List.getElem?_of_mem (hsub p (List.mem_of_getElem? hk))
      obtain ⟨huse, hsec, _, n, hn, hd⟩ := hm.2.1 j l p hl
      have hlt : k < ms.length := (List.getElem?_eq_some_iff.1 hk).1
      rw [hplace k p hk]
      exact ⟨huse, hsec, position_val (by omega), n, hn, (hentry p j hp n hn).trans hd⟩
    · rw [hother j hj] at hk
      obtain ⟨huse, hsec, hpos, n, hn, hd⟩ := hm.2.1 j k p hk
      rw [hout p (haway hj (List.mem_of_getElem? hk))]
      exact ⟨huse, hsec, hpos, n, hn, (hentry p j hp n hn).trans hd⟩
  · have hold : (s.drive n).inSection = some j ∧ ∀ p ∈ s.members i, p ∉ ms → (s.member p).node ≠ some n := by
      have hno : ∀ p ∈ s.members i, p ∉ ms → (s.member p).node ≠ some n := fun p hp hpms hpn => by
        rw [hfreed p hp hpms n hpn] at hn; cases hn
      exact ⟨(hkept n hno).symm.trans hn, hno⟩
    obtain ⟨p, hp, hpn⟩ := hm.2.2.1 n j hold.1
    by_cases hj : j = i
    · subst hj
      have hpms : p ∈ ms := by_contra fun h => hold.2 p hp h hpn
      exact ⟨p, hself ▸ hpms, (hnode p hpms).trans hpn⟩
    · exact ⟨p, hother j hj ▸ hp, by rw [hout p (haway hj hp)]; exact hpn⟩
  · by_cases hp : p ∈ s.members i
    · by_cases hpms : p ∈ ms
      · obtain ⟨k, hk⟩ := List.getElem?_of_mem hpms
        rw [if_pos (by rw [hplace k p hk]; exact (hm.record_of_mem hp).1)]
        exact ⟨i, hself ▸ hpms⟩
      · rw [hgone p hp hpms]; rfl
    · have hpool := hm.2.2.2 p
      rw [hout p hp]
      cases huse : (s.member p).inUse with
      | false => simpa [huse] using hpool
      | true =>
        obtain ⟨j, hpj⟩ : ∃ j, p ∈ s.members j := by simpa [huse] using hpool
        have hj : j ≠ i := fun e => hp (e ▸ hpj)
        exact ⟨j, hother j hj ▸ hpj⟩

/-- REMOVE MEMBER keeps consistency (R13). -/
theorem MembersConsistent.removeMember {s : State} (hm : MembersConsistent s) {i : SecId} {n : NodeId} {r : RecId}
    (hr : r ∈ s.members i) (hn : (s.member r).node = some n) : MembersConsistent (s.removeMember i n r) := by
  have honly (p : RecId) (hp : p ∈ s.members i) (h : p ∉ (s.members i).filter (· ≠ r)) : p = r := by simpa [hp] using h
  refine hm.relist ((hm.nodup i).filter _) (fun p hp => List.mem_of_mem_filter hp) ?_ (fun j hj => ?_)
    (fun k p hk => State.member_removeMember n r (hm.nodup i) hk) (fun p hp h => ?_)
    (fun p hp => State.member_removeMember_other n hr hp) (fun p hp h m hpm => ?_) (fun m hm' => ?_)
  · unfold State.members; rw [State.sec_removeMember, if_pos rfl]; rfl
  · unfold State.members; rw [State.sec_removeMember, if_neg hj]
  · rw [honly p hp h]; exact State.member_removeMember_self ..
  · rw [honly p hp h, hn] at hpm
    rw [State.drive_removeMember, if_pos (Option.some.inj hpm).symm]
  · rw [State.drive_removeMember, if_neg]
    rintro rfl
    exact hm' r hr (by simp) hn

/-- MAKE LEAD keeps consistency (R14). -/
theorem MembersConsistent.makeLead {s : State} (hm : MembersConsistent s) {i : SecId} {r : RecId} (hr : r ∈ s.members i) :
    MembersConsistent (s.makeLead i r) := by
  have hall (p : RecId) (hp : p ∈ s.members i) : p ∈ r :: (s.members i).filter (· ≠ r) := by
    by_cases h : p = r <;> simp [h, hp]
  have hdrive (n : NodeId) : (s.makeLead i r).drive n = s.drive n := by rw [State.makeLead_frame]; rfl
  refine hm.relist (nodup_leadFirst r (hm.nodup i)) (fun p hp => mem_of_mem_leadFirst hr hp) ?_ (fun j hj => ?_)
    (fun k p hk => State.member_makeLead r (hm.nodup i) hk) (fun p hp h => absurd (hall p hp) h)
    (fun p hp => State.member_makeLead_other hr hp) (fun p hp h => absurd (hall p hp) h) (fun n _ => by rw [hdrive])
  · unfold State.members; rw [State.sec_makeLead, if_pos rfl]; rfl
  · unfold State.members; rw [State.sec_makeLead, if_neg hj]

/-- ADD MEMBER keeps consistency (R12). -/
theorem MembersConsistent.addMember {s : State} (hm : MembersConsistent s) {i : SecId} {n : NodeId} {r : RecId} (w : Nat)
    (hn : (s.drive n).inSection = none) (hl : (s.members i).length < 4) (hr : (s.member r).inUse = false) :
    MembersConsistent (s.addMember i n w r) := by
  have hnew {j : SecId} (h : r ∈ s.members j) : False := Bool.false_ne_true (hr.symm.trans (hm.record_of_mem h).1)
  have hmembers (j : SecId) : (s.addMember i n w r).members j = if j = i then s.members i ++ [r] else s.members j := by
    unfold State.members
    rw [State.sec_addMember]
    split <;> rfl
  have hold {j : SecId} {p : RecId} (hp : p ∈ s.members j) : (s.addMember i n w r).member p = s.member p := by
    rw [State.member_addMember, if_neg]
    rintro rfl; exact hnew hp
  have hnode {j : SecId} {p : RecId} (hp : p ∈ s.members j) : (s.member p).node ≠ some n := fun e => by
    obtain ⟨h1, h2, _⟩ := hm.facts hp
    rw [Option.some.inj (h1.symm.trans e), hn] at h2
    cases h2
  have hdrive {m : NodeId} (h : m ≠ n) : (s.addMember i n w r).drive m = s.drive m := by
    rw [State.drive_addMember, if_neg h]
  have hself : (s.addMember i n w r).member r = { PoolRecord.free with
      inUse := true, inSection := some i, node := some n, position := some (Fin.ofNat 4 (s.members i).length), weight := w } := by
    rw [State.member_addMember, if_pos rfl]
  have hlist {j : SecId} {p : RecId} (hp : p ∈ s.members j) : p ∈ (s.addMember i n w r).members j := by
    rw [hmembers]
    split
    · subst_vars; exact List.mem_append_left _ hp
    · exact hp
  have hkeep {j : SecId} {k : Nat} {p : RecId} (hk : (s.members j)[k]? = some p) :
      ((s.addMember i n w r).member p).inUse = true ∧ ((s.addMember i n w r).member p).inSection = some j ∧
        ((s.addMember i n w r).member p).position.map Fin.val = some k ∧
        ∃ m, ((s.addMember i n w r).member p).node = some m ∧ ((s.addMember i n w r).drive m).inSection = some j := by
    have hp := List.mem_of_getElem? hk
    obtain ⟨huse, hsec, hpos, m, hpm, hd⟩ := hm.2.1 j k p hk
    rw [hold hp]
    refine ⟨huse, hsec, hpos, m, hpm, ?_⟩
    rw [hdrive fun e => hnode hp (e ▸ hpm)]
    exact hd
  have hentry : ((s.addMember i n w r).drive n).inSection = some i := by rw [State.drive_addMember, if_pos rfl]
  have hin : r ∈ (s.addMember i n w r).members i := by rw [hmembers, if_pos rfl]; simp
  refine ⟨fun j => ?_, fun j k p hk => ?_, fun m j hm' => ?_, fun p => ?_⟩
  · by_cases hj : j = i
    · subst hj
      rw [hmembers, if_pos rfl, List.map_append, List.map_congr_left fun p hp => by rw [hold hp]]
      refine ⟨by simp; omega, List.nodup_append.2 ⟨(hm.1 j).2, by simp, ?_⟩⟩
      simp only [List.map_cons, List.map_nil, List.mem_singleton, hself]
      rintro x hx y rfl rfl
      obtain ⟨p, hp, hpn⟩ := List.mem_map.1 hx
      exact hnode hp hpn
    · rw [hmembers, if_neg hj, List.map_congr_left fun p hp => by rw [hold hp]]
      exact hm.1 j
  · rw [hmembers] at hk
    split at hk
    · rename_i hj
      subst hj
      rw [List.getElem?_append] at hk
      split at hk
      · exact hkeep hk
      · obtain ⟨hlast, rfl⟩ : k - (s.members j).length = 0 ∧ r = p := by simpa [List.getElem?_singleton] using hk
        obtain rfl : k = (s.members j).length := by omega
        rw [hself]
        exact ⟨rfl, rfl, position_val hl, n, rfl, hentry⟩
    · exact hkeep hk
  · by_cases he : m = n
    · subst he
      cases hentry.symm.trans hm'
      exact ⟨r, hin, by rw [hself]⟩
    · rw [hdrive he] at hm'
      obtain ⟨p, hp, hpm⟩ := hm.2.2.1 m j hm'
      exact ⟨p, hlist hp, by rw [hold hp]; exact hpm⟩
  · by_cases hp : p = r
    · subst hp
      rw [if_pos (by rw [hself])]
      exact ⟨i, hin⟩
    · have hpool := hm.2.2.2 p
      rw [State.member_addMember, if_neg hp]
      cases huse : (s.member p).inUse with
      | false => simpa [huse] using hpool
      | true =>
        obtain ⟨j, hpj⟩ : ∃ j, p ∈ s.members j := by simpa [huse] using hpool
        exact ⟨j, hlist hpj⟩

end Sys2Proof.Machine
end

section
/-! PROOFS. The properties that every step keeps (R7, R9, R10, R18, R24, R36, R97, R105), each by the moves, and the state after reset. -/

namespace Sys2Proof.Machine

/-! ## The tables after a move -/

/-- The sections of a state with the same sections. -/
theorem State.sec_of_eq {s t : State} (h : t.sections = s.sections) (i : SecId) : t.sec i = s.sec i := by
  unfold State.sec; rw [h]

/-- The records of a state with the same pool. -/
theorem State.member_of_eq {s t : State} (h : t.pool = s.pool) (r : RecId) : t.member r = s.member r := by
  unfold State.member; rw [h]

/-- The Drive Map of a state with the same entries. -/
theorem State.drive_of_eq {s t : State} (h : t.drives = s.drives) (n : NodeId) : t.drive n = s.drive n := by
  unfold State.drive; rw [h]

/-- A section after the sets of a cycle were opened (R83). -/
theorem State.sec_openSets (s : State) (i : SecId) : s.openSets.sec i = { s.sec i with evaluated := false } := by
  simp [State.openSets, State.sec]

/-- A Drive Map entry after the sets of a cycle were opened (R83). -/
theorem State.drive_openSets (s : State) (n : NodeId) :
    s.openSets.drive n = { s.drive n with feedback := { (s.drive n).feedback with fresh := false } } := by
  simp [State.openSets, State.drive]

/-- What an entry to a state leaves of the Drive Map and the segments. -/
theorem State.entryFrame.tables {s t : State} (h : s.entryFrame t) : t.drives = s.drives ∧ t.segments = s.segments := by
  rw [h]; exact ⟨rfl, rfl⟩

/-- The sections after section i entered CALIBRATING (R26, R36). -/
theorem State.sec_enterCalibrating (s : State) (i j : SecId) :
    (s.enterCalibrating i).sec j = if j = i then { s.sec i with state := .calibrating } else s.sec j := by
  unfold State.enterCalibrating State.postStateChange
  rw [State.sec_post, State.sec_modSec]
  rfl

/-- Section i takes the engine with its entry to CALIBRATING, and no record, Drive Map entry or segment changes (R26, R36). -/
theorem State.enterCalibrating_tables (s : State) (i : SecId) :
    (s.enterCalibrating i).engine = { Engine.free with holder := some i, phase := some .settleLow } ∧
      (s.enterCalibrating i).pool = s.pool ∧ (s.enterCalibrating i).drives = s.drives ∧
      (s.enterCalibrating i).segments = s.segments := by
  simp [State.enterCalibrating, State.postStateChange]

/-- A section changed beside others is kept if the change keeps it. -/
theorem Section.Kept.of_if {x y z : Section} {c : Prop} [Decidable c] (hy : c → z.Kept y) (hx : ¬ c → z = x) :
    z.Kept (if c then y else x) := by
  split
  · exact hy ‹_›
  · rw [hx ‹_›]; exact ⟨.inl rfl, rfl, .inl rfl, id⟩

/-- The same section is kept. -/
theorem Section.Kept.refl (x : Section) : x.Kept x := ⟨.inl rfl, rfl, .inl rfl, id⟩

/-! ## Sections and engine after a move -/

/-- Section i enters a state, with the engine freed where it held it, or taken where it enters CALIBRATING (R24 to R26, R36). -/
inductive SectionEnters (s t : State) (i : SecId) : Prop where
  | passing (st : SectionState) (cause : Cause) (h : passingEntry st cause) (hsec : t.sec i = (s.sec i).passing st cause)
      (hengine : t.engine = if s.engine.holder = some i then Engine.free else s.engine)
  | releasing (target : ReleaseTarget) (h : (s.sec i).state.rewriting = true ∨ s.engine.holder = some i)
      (hsec : t.sec i = { s.sec i with
        state := .releasing, releaseTarget := some target, startPending := false
        profile := { (s.sec i).profile with stepPending := false } })
      (hengine : t.engine = if s.engine.holder = some i then Engine.free else s.engine)
  | calibrating (hstate : (s.sec i).state = .selected) (hfree : s.engine.holder = none)
      (hsec : t.sec i = { s.sec i with state := .calibrating })
      (hengine : t.engine = { Engine.free with holder := some i, phase := some .settleLow })

/-- A move keeps every section and the engine's holder, or one section enters a state and the others stay. -/
theorem Move.sections {s t : State} (h : Move s t) :
    ((∀ j, (s.sec j).Kept (t.sec j)) ∧ t.engine.holder = s.engine.holder ∧ (t.engine = s.engine ∨ t.engine.holder ≠ none)) ∨
      ∃ i, (∀ j, j ≠ i → t.sec j = s.sec j) ∧ SectionEnters s t i := by
  have hmembers (i : SecId) (ms : List RecId) (j : SecId) :
      (s.sec j).Kept (if j = i then { s.sec i with members := ms, lastSet := none } else s.sec j) :=
    .of_if (fun h => h ▸ ⟨.inl rfl, rfl, .inl rfl, id⟩) fun _ => rfl
  cases h with
  | quiet h => exact .inl ⟨fun j => State.sec_of_eq h.sections j ▸ .refl _, by rw [h.engine], .inl h.engine⟩
  | record => exact .inl ⟨fun j => .refl _, rfl, .inl rfl⟩
  | live f hm hf =>
    refine .inl ⟨fun j => ?_, rfl, .inl rfl⟩
    rw [State.sec_modSec]
    exact .of_if (fun h => h ▸ hf) fun _ => rfl
  | entry => exact .inl ⟨fun j => .refl _, rfl, .inl rfl⟩
  | openSets =>
    refine .inl ⟨fun j => ?_, rfl, .inl rfl⟩
    rw [State.sec_openSets]
    exact ⟨.inl rfl, rfl, .inl rfl, id⟩
  | segment => exact .inl ⟨fun j => .refl _, rfl, .inl rfl⟩
  | engine f hi hf => exact .inl ⟨fun j => .refl _, hf.trans hi.symm, .inr (by rw [State.engine_modEngine, hf]; exact nofun)⟩
  | @passing i st cause node pos h =>
    obtain ⟨_, hsec, hother, _, hengine⟩ := State.enterPassing_spec s i st cause node pos
    exact .inr ⟨i, hother, .passing st cause h hsec hengine⟩
  | @releasing i target cause result node pos h =>
    obtain ⟨_, hsec, hother, _, hengine⟩ := State.enterReleasing_spec s i target cause result node pos
    exact .inr ⟨i, hother, .releasing target h hsec hengine⟩
  | @calibrating i hi he =>
    exact .inr ⟨i, fun j hj => by rw [State.sec_enterCalibrating, if_neg hj],
      .calibrating hi he (by rw [State.sec_enterCalibrating, if_pos rfl]) (s.enterCalibrating_tables i).1⟩
  | @addMember i n r weight hn hl hr =>
    refine .inl ⟨fun j => ?_, rfl, .inl rfl⟩
    rw [State.sec_addMember]
    exact hmembers ..
  | @removeMember i n r hr hn =>
    have hengine : (s.removeMember i n r).engine = s.engine := by rw [State.removeMember_frame]
    refine .inl ⟨fun j => ?_, by rw [hengine], .inl hengine⟩
    rw [State.sec_removeMember]
    exact hmembers ..
  | @makeLead i r hr =>
    have hengine : (s.makeLead i r).engine = s.engine := by rw [State.makeLead_frame]
    refine .inl ⟨fun j => ?_, by rw [hengine], .inl hengine⟩
    rw [State.sec_makeLead]
    exact hmembers ..

/-! ## The engine, release targets and fault codes (R7, R24, R36) -/

/-- A section has a release target exactly in RELEASING and a fault code, one of the four fault causes, exactly in FAULTED. -/
def Section.Fits (x : Section) : Prop :=
  (x.releaseTarget.isSome ↔ x.state = .releasing) ∧ (x.faultCode.isSome ↔ x.state = .faulted) ∧
    ∀ c, x.faultCode = some c → c = .driveFault ∨ c = .feedbackLost ∨ c = .lineEntryLost ∨ c = .lineLost

/-- A kept section is in CALIBRATING where it was. -/
theorem Section.Kept.calibrating_iff {x y : Section} (h : x.Kept y) : y.state = .calibrating ↔ x.state = .calibrating := by
  rcases h.state with he | ⟨hx, hy⟩
  · rw [he]
  · constructor <;> intro hc
    · rw [hc] at hy; cases hy
    · rw [hc] at hx; cases hx

/-- A kept section fits where it did. -/
theorem Section.Kept.fits {x y : Section} (h : x.Kept y) (hx : x.Fits) : y.Fits := by
  obtain ⟨htarget, hfault, hcauses⟩ := hx
  have hstates (st : SectionState) (hst : st.plain = false) : y.state = st ↔ x.state = st := by
    rcases h.state with he | ⟨hxp, hyp⟩
    · rw [he]
    · constructor <;> rintro rfl
      · exact absurd hyp (by rw [hst]; decide)
      · exact absurd hxp (by rw [hst]; decide)
  refine ⟨?_, ?_, ?_⟩
  · rcases h.target with ht | ⟨hs, ht⟩
    · rw [ht, htarget, hstates .releasing rfl]
    · simp [hs, ht]
  · rw [h.faultCode, hfault, hstates .faulted rfl]
  · rw [h.faultCode]; exact hcauses

/-- A section that entered BYPASS, SELECTED or FAULTED fits. -/
theorem Section.fits_passing {st : SectionState} {cause : Cause} (x : Section) (h : passingEntry st cause) :
    (x.passing st cause).Fits := by
  rcases h with rfl | rfl | ⟨rfl, hc⟩
  · simp [Section.Fits, Section.passing]
  · simp [Section.Fits, Section.passing]
  · simp [Section.Fits, Section.passing, hc]

/-- A move keeps the engine with the section in CALIBRATING, and targets and fault codes with their states. -/
theorem Move.keeps_engineHeld_fits {s t : State} (h : Move s t) (hs : EngineHeld s ∧ TargetsAndFaultCodes s) :
    EngineHeld t ∧ TargetsAndFaultCodes t := by
  obtain ⟨⟨hheld, hfree⟩, hfits⟩ := hs
  rcases h.sections with ⟨hkept, hholder, hengine⟩ | ⟨i, hother, henters⟩
  · refine ⟨⟨fun j => ?_, fun hn => ?_⟩, fun j => (hkept j).fits (hfits j)⟩
    · rw [(hkept j).calibrating_iff, hholder]; exact hheld j
    · rcases hengine with he | he
      · rw [he] at hn ⊢; exact hfree hn
      · exact absurd hn he
  · -- The engine is freed exactly where section i held it, and section i leaves CALIBRATING.
    have hfreed (hstate : (t.sec i).state ≠ .calibrating) (hfit : (t.sec i).Fits)
        (hengine : t.engine = if s.engine.holder = some i then Engine.free else s.engine) :
        EngineHeld t ∧ TargetsAndFaultCodes t := by
      refine ⟨⟨fun j => ?_, fun hn => ?_⟩, fun j => ?_⟩
      · by_cases hj : j = i
        · subst hj
          refine iff_of_false hstate ?_
          rw [hengine]
          split
          · exact nofun
          · assumption
        · rw [hother j hj, hheld j, hengine]
          split
          · rename_i hi
            exact iff_of_false (fun e => hj (Option.some.inj (e.symm.trans hi))) nofun
          · exact Iff.rfl
      · rw [hengine] at hn ⊢
        split
        · rfl
        · rename_i hi
          rw [if_neg hi] at hn
          exact hfree hn
      · by_cases hj : j = i
        · exact hj ▸ hfit
        · exact hother j hj ▸ hfits j
    cases henters with
    | passing st cause h hsec hengine =>
      refine hfreed ?_ (hsec ▸ Section.fits_passing _ h) hengine
      rw [hsec]
      rcases h with rfl | rfl | ⟨rfl, _⟩ <;> exact nofun
    | releasing target h hsec hengine =>
      obtain ⟨_, hfault, hcauses⟩ := hfits i
      have hnot : (s.sec i).state ≠ .faulted := by
        rcases h with h | h
        · intro e; rw [e] at h; cases h
        · rw [(hheld i).2 h]; exact nofun
      have hnone : (s.sec i).faultCode.isSome = false := by
        rw [Bool.eq_false_iff, ne_eq, hfault]; exact hnot
      refine hfreed (by rw [hsec]; exact nofun) ?_ hengine
      rw [hsec]
      exact ⟨by simp, by simp [hnone], hcauses⟩
    | calibrating hstate hnone hsec hengine =>
      refine ⟨⟨fun j => ?_, fun hn => ?_⟩, fun j => ?_⟩
      · by_cases hj : j = i
        · subst hj; simp [hsec, hengine]
        · rw [hother j hj, hheld j, hengine, hnone]
          exact iff_of_false nofun fun e => hj (Option.some.inj e).symm
      · rw [hengine] at hn; cases hn
      · by_cases hj : j = i
        · subst hj
          obtain ⟨htarget, hfault, hcauses⟩ := hfits j
          rw [hstate] at htarget hfault
          rw [hsec]
          exact ⟨htarget.trans (iff_of_false nofun nofun), hfault.trans (iff_of_false nofun nofun), hcauses⟩
        · exact hother j hj ▸ hfits j

/-! ## Calibration values, segments and profile offsets (R18, R97, R105) -/

/-- An entry to a state keeps the section's profile position in range. -/
theorem SectionEnters.profile {s t : State} {i : SecId} (h : SectionEnters s t i) (hs : (s.sec i).profile.InRange) :
    (t.sec i).profile.InRange := by
  cases h with
  | passing st cause h hsec hengine => rw [hsec]; exact hs
  | releasing target h hsec hengine => rw [hsec]; exact hs
  | calibrating hstate hfree hsec hengine => rw [hsec]; exact hs

/-- A move keeps every profile position in range. -/
theorem Move.keeps_profileInRange {s t : State} (h : Move s t) (hs : ProfileInRange s) : ProfileInRange t := by
  intro j
  rcases h.sections with ⟨hkept, _, _⟩ | ⟨i, hother, henters⟩
  · exact (hkept j).profile (hs j)
  · by_cases hj : j = i
    · subst hj; exact henters.profile (hs j)
    · exact hother j hj ▸ hs j

/-- A move leaves every Drive Map entry within its ranges, and keeps every segment record within its. -/
theorem Move.keeps_entries {s t : State} (h : Move s t) :
    (∀ n, (s.drive n).InRange → (t.drive n).InRange) ∧ ∀ k : Fin 128, s.segments[k].InRange → t.segments[k].InRange := by
  have hsame {u : State} (hd : u.drives = s.drives) (hg : u.segments = s.segments) :
      (∀ n, (s.drive n).InRange → (u.drive n).InRange) ∧ ∀ k : Fin 128, s.segments[k].InRange → u.segments[k].InRange :=
    ⟨fun n h => State.drive_of_eq hd n ▸ h, fun k h => hg ▸ h⟩
  cases h with
  | quiet h => exact hsame h.drives h.segments
  | record => exact hsame rfl rfl
  | live => exact hsame rfl rfl
  | @entry n f hs hr =>
    refine ⟨fun m hm => ?_, fun k h => h⟩
    rw [State.drive_modDrive]
    split
    · subst_vars; exact hr hm
    · exact hm
  | openSets => exact ⟨fun n h => by rw [State.drive_openSets]; exact h, fun k h => h⟩
  | @segment k f hf =>
    refine ⟨fun n h => h, fun j hj => ?_⟩
    rw [State.segments_modSegment]
    split
    · subst_vars; exact hf hj
    · exact hj
  | engine => exact hsame rfl rfl
  | @passing i st cause node pos h =>
    have hframe := (State.enterPassing_spec s i st cause node pos).1.tables
    exact hsame hframe.1 hframe.2
  | @releasing i target cause result node pos h =>
    have hframe := (State.enterReleasing_spec s i target cause result node pos).1.tables
    exact hsame hframe.1 hframe.2
  | @calibrating i hi he =>
    obtain ⟨_, _, hdrives, hsegments⟩ := s.enterCalibrating_tables i
    exact hsame hdrives hsegments
  | @addMember i n r weight hn hl hr =>
    refine ⟨fun m hm => ?_, fun k h => h⟩
    rw [State.drive_addMember]
    split
    · subst_vars; exact hm
    · exact hm
  | @removeMember i n r hr hn =>
    have hsegments : (s.removeMember i n r).segments = s.segments := by rw [State.removeMember_frame]
    refine ⟨fun m hm => ?_, fun k h => by rw [hsegments]; exact h⟩
    rw [State.drive_removeMember]
    split
    · subst_vars; exact hm
    · exact hm
  | @makeLead i r hr => exact hsame (by rw [State.makeLead_frame]) (by rw [State.makeLead_frame])

/-! ## Membership (R9, R10) -/

/-- A state with the sections, pool and Drive Map of another has its membership. -/
theorem SameMembership.of_eq {s t : State} (hs : t.sections = s.sections) (hp : t.pool = s.pool) (hd : t.drives = s.drives) :
    SameMembership s t where
  members i := by unfold State.members; rw [State.sec_of_eq hs]
  inSection n := by rw [State.drive_of_eq hd]
  record r := by rw [State.member_of_eq hp]; exact ⟨rfl, rfl, rfl, rfl⟩
  free r _ _ := State.member_of_eq hp r

/-- Stable work that changes members' records alone keeps membership. -/
theorem SameMembership.of_stable {s t : State} (h : Stable s t) (hfree : ∀ r, (∀ i, r ∉ s.members i) → t.member r = s.member r) :
    SameMembership s t where
  members i := (h.sec i).1
  inSection n := (h.map n).2
  record r := by
    obtain ⟨huse, hsec, hnode, hpos, _⟩ := h.rec' r
    exact ⟨huse, hsec, hnode, hpos⟩
  free r hr _ := hfree r hr

/-- A move keeps member lists, pool records and assigned sections consistent. -/
theorem Move.keeps_members {s t : State} (h : Move s t) (hm : MembersConsistent s) : MembersConsistent t := by
  cases h with
  | quiet h => exact hm.of_same (.of_eq h.sections h.pool h.drives)
  | @record r f hr hf =>
    have huse : (s.member r).inUse = true := hr.elim (fun ⟨i, hi⟩ => (hm.record_of_mem hi).1) id
    have hrec (p : RecId) : (s.modRec r f).member p = if p = r then f (s.member r) else s.member p := State.member_modRec ..
    refine hm.of_same ⟨fun _ => rfl, fun _ => rfl, fun p => ?_, fun p _ hp => ?_⟩
    · rw [hrec]
      split
      · subst_vars; exact hf _
      · exact ⟨rfl, rfl, rfl, rfl⟩
    · rw [hrec, if_neg]
      rintro rfl
      exact Bool.false_ne_true (hp.symm.trans huse)
  | @live i f hmem hf =>
    refine hm.of_same ⟨fun j => ?_, fun _ => rfl, fun _ => ⟨rfl, rfl, rfl, rfl⟩, fun _ _ _ => rfl⟩
    unfold State.members
    rw [State.sec_modSec]
    split
    · subst_vars; exact hmem
    · rfl
  | @entry n f hs hr =>
    refine hm.of_same ⟨fun _ => rfl, fun m => ?_, fun _ => ⟨rfl, rfl, rfl, rfl⟩, fun _ _ _ => rfl⟩
    rw [State.drive_modDrive]
    split
    · subst_vars; exact hs
    · rfl
  | openSets =>
    refine hm.of_same ⟨fun i => ?_, fun n => ?_, fun _ => ⟨rfl, rfl, rfl, rfl⟩, fun _ _ _ => rfl⟩
    · unfold State.members; rw [State.sec_openSets]
    · rw [State.drive_openSets]
  | segment => exact hm.of_same (.of_eq rfl rfl rfl)
  | engine => exact hm.of_same (.of_eq rfl rfl rfl)
  | @passing i st cause node pos h =>
    obtain ⟨_, _, _, hrec, _⟩ := State.enterPassing_spec s i st cause node pos
    exact hm.of_same (.of_stable (Stable.enterPassing ..) fun r hr => by rw [hrec, if_neg (hr i)])
  | @releasing i target cause result node pos h =>
    obtain ⟨_, _, _, hrec, _⟩ := State.enterReleasing_spec s i target cause result node pos
    exact hm.of_same (.of_stable (Stable.enterReleasing ..) fun r hr => by rw [hrec, if_neg (hr i)])
  | @calibrating i hi he =>
    obtain ⟨_, hpool, hdrives, _⟩ := s.enterCalibrating_tables i
    refine hm.of_same ⟨fun j => ?_, fun n => by rw [State.drive_of_eq hdrives],
      fun r => State.member_of_eq hpool r ▸ ⟨rfl, rfl, rfl, rfl⟩, fun r _ _ => State.member_of_eq hpool r⟩
    unfold State.members
    rw [State.sec_enterCalibrating]
    split
    · subst_vars; rfl
    · rfl
  | addMember weight hn hl hr => exact hm.addMember weight hn hl hr
  | removeMember hr hn => exact hm.removeMember hr hn
  | makeLead hr => exact hm.makeLead hr

/-! ## The state after reset and after power-up (R8, R20) -/

/-- Every section after power-up. -/
theorem State.sec_reset (i : SecId) : State.reset.sec i = Section.powerOn := by simp [State.sec, State.reset]

/-- Every pool record after power-up. -/
theorem State.member_reset (r : RecId) : State.reset.member r = PoolRecord.free := by simp [State.member, State.reset]

/-- Every Drive Map entry after power-up. -/
theorem State.drive_reset (n : NodeId) : State.reset.drive n = DriveEntry.powerOn := by simp [State.drive, State.reset]

/-- Every section is empty after power-up. -/
theorem State.members_reset (i : SecId) : State.reset.members i = [] := by unfold State.members; rw [State.sec_reset]; rfl

/-- The engine is free after power-up and no section calibrates. -/
theorem engineHeld_reset : EngineHeld State.reset :=
  ⟨fun i => by rw [State.sec_reset]; exact iff_of_false nofun nofun, fun _ => rfl⟩

/-- No section has a target or a fault code after power-up. -/
theorem targetsAndFaultCodes_reset : TargetsAndFaultCodes State.reset := by
  intro i
  rw [State.sec_reset]
  exact ⟨iff_of_false nofun nofun, iff_of_false nofun nofun, nofun⟩

/-- Every list is empty and every record free after power-up. -/
theorem membersConsistent_reset : MembersConsistent State.reset := by
  refine ⟨fun i => ?_, fun i k r hk => ?_, fun n i hn => ?_, fun r => ?_⟩
  · rw [State.members_reset]; exact ⟨Nat.zero_le _, List.nodup_nil⟩
  · rw [State.members_reset] at hk; cases hk
  · rw [State.drive_reset] at hn; cases hn
  · rw [State.member_reset]; rfl

/-- Gains and offsets are in range after power-up. -/
theorem calibrationInRange_reset : CalibrationInRange State.reset := by
  intro n
  rw [State.drive_reset]
  decide

/-- Segment records are in range after power-up. -/
theorem segmentsInRange_reset : SegmentsInRange State.reset := by
  intro k
  have hk : State.reset.segments[k] = Segment.powerOn := by simp [State.reset]
  rw [hk]
  decide

/-- Profile positions are in range after power-up. -/
theorem profileInRange_reset : ProfileInRange State.reset := by
  intro i
  rw [State.sec_reset]
  decide

/-- Configurations are in range after power-up. -/
theorem configInRange_reset : ConfigInRange State.reset := by
  intro i
  rw [State.sec_reset]
  decide

/-- Counts are in range after power-up. -/
theorem countsInRange_reset : CountsInRange State.reset := by
  refine ⟨fun i => ?_, fun n => ?_, by decide⟩
  · rw [State.sec_reset]; decide
  · rw [State.drive_reset]; decide

/-! ## The obligations -/

/-- Settles O55, by the moves: a kept section fits as before, and an entry to a state frees or takes the engine with it. -/
theorem engineAndTargetsStayConsistent : Obligations.EngineAndTargetsStayConsistent :=
  KeptByStep.of_moves (fun _ _ _ => ⟨engineHeld_reset, targetsAndFaultCodes_reset⟩) Move.keeps_engineHeld_fits

/-- Settles O57, by the moves: only the three membership commands change lists, and each keeps them consistent. -/
theorem membersStayConsistent : Obligations.MembersStayConsistent :=
  KeptByStep.of_moves (fun _ _ _ => membersConsistent_reset) Move.keeps_members

/-- Settles O59, by the moves: every write is checked or clamped, and every offset formed is saturated. -/
theorem calibrationSegmentsAndProfilesStayInRange : Obligations.CalibrationSegmentsAndProfilesStayInRange :=
  KeptByStep.of_moves (fun _ _ _ => ⟨calibrationInRange_reset, segmentsInRange_reset, profileInRange_reset⟩)
    fun h ⟨hdrives, hsegments, hprofiles⟩ =>
      ⟨fun n => h.keeps_entries.1 n (hdrives n), fun k => h.keeps_entries.2 k (hsegments k), h.keeps_profileInRange hprofiles⟩

/-- Settles O53, property by property. -/
theorem invariantsHoldAtReset : Obligations.InvariantsHoldAtReset := by
  refine ⟨⟨by decide, fun k e hk => ?_⟩, engineHeld_reset, targetsAndFaultCodes_reset, fun _ i => ?_, calibrationInRange_reset,
    membersConsistent_reset, configInRange_reset, fun i r hr => ?_, fun i r _ hr => ?_, segmentsInRange_reset,
    profileInRange_reset, ⟨by decide, by decide, by decide, by decide⟩, countsInRange_reset,
    ⟨⟨by decide, by decide, by decide⟩, by decide, by decide, by decide⟩, ?_⟩
  · obtain ⟨rfl, rfl⟩ : k = 0 ∧ Event.powerOn = e := by simpa [State.reset, List.getElem?_singleton] using hk
    rfl
  · rw [State.sec_reset]; exact ⟨nofun, nofun, nofun⟩
  · rw [State.members_reset] at hr; cases hr
  · rw [State.members_reset] at hr; cases hr
  · exact ⟨rfl, nofun, by decide, by decide, nofun, fun _ => rfl, nofun⟩

end Sys2Proof.Machine
end

section
/-! PROOFS. The membership commands (R12 to R14): the checks in their order, and the effect on section, records and Drive Map. -/

namespace Sys2Proof.Machine

/-! ## Operands and requests -/

/-- A number of a thing is its index. -/
theorem index?_val {n : Nat} (i : Fin n) : index? n (i.val : Int) = some i := by
  unfold index?
  rw [dif_pos ⟨by omega, by simp⟩]
  simp

/-- A number outside the range is no index. -/
theorem index?_none {n : Nat} {a : Int} (h : a < 0 ∨ (n : Int) ≤ a) : index? n a = none := by
  unfold index?
  rw [dif_neg (by omega)]

/-- The node number of a Drive Map entry names it. -/
theorem nodeOf_toNat {b : Int} {n : NodeId} (h : b = n.val + 1) : nodeOf b.toNat = some n := by
  rw [nodeOf_eq_some]; omega

/-- A node that a number names. -/
theorem eq_of_nodeOf_toNat {b : Int} {n : NodeId} (h : nodeOf b.toNat = some n) : b = n.val + 1 := by
  rw [nodeOf_eq_some] at h; omega

/-- A number outside 1 to 62 names no node. -/
theorem nodeOf_toNat_none {b : Int} (h : b < 1 ∨ 62 < b) : nodeOf b.toNat = none := by
  unfold nodeOf
  rw [dif_neg (by omega)]

/-- The command of a row that takes a COMMISSION request does its work on the state without the request and posts its one reply. -/
theorem TakesCommission.serve {s : State} {r : RequestFrame} {row : CommandRow} (h : TakesCommission s r row.code)
    (hcount : row.fewest ≤ (operandValues r).length ∧ (operandValues r).length ≤ row.most)
    (body : State → Level → List Int → Answer) :
    s.whenPowered (fun s => s.serve row body) = .next ((body s.dropRequest .commission (operandValues r)).post r.tag) := by
  obtain ⟨⟨hpowered, hroom, hhead, hcode, hlevel⟩, hpermit⟩ := h
  rw [State.whenPowered_on _ _ hpowered]
  rw [operandValues, List.length_map] at hcount
  rw [State.serve_admitted hroom hhead hcode hlevel (fun _ => hpermit) (fun _ => rfl) hcount]

/-- A COMMISSION request whose command refuses is answered so, with no other effect. -/
theorem TakesCommission.serve_refused {s : State} {r : RequestFrame} {row : CommandRow} {ops : List Int}
    (h : TakesCommission s r row.code) (hops : operandValues r = ops) (hcount : row.fewest ≤ ops.length ∧ ops.length ≤ row.most)
    {body : State → Level → List Int → Answer} {code : ResultCode}
    (hbody : body s.dropRequest .commission ops = s.dropRequest.refuse code []) :
    s.whenPowered (fun s => s.serve row body) = .next (s.answered r code false []) := by
  subst hops
  rw [h.serve hcount, hbody]
  rfl

/-! ## ADD MEMBER (R12) -/

/-- The record numbers in order. -/
theorem recordIds_getElem (k : Nat) (h : k < recordIds.length) : (recordIds[k]).val = k := by
  have hk : k < 48 := by simpa [recordIds] using h
  simp [recordIds, Nat.mod_eq_of_lt hk]

/-- The lowest free record is taken (R12). -/
theorem State.freeRecord_eq_some {s : State} {q : RecId} (hq : (s.member q).inUse = false)
    (hlow : ∀ p : RecId, p < q → (s.member p).inUse = true) : s.freeRecord = some q := by
  unfold State.freeRecord
  have hlen : q.val < recordIds.length := by simp [recordIds]
  rw [List.find?_eq_some_iff_getElem]
  refine ⟨by simp [hq], q.val, hlen, Fin.ext (recordIds_getElem _ hlen), fun j hj => ?_⟩
  rw [hlow _ (Fin.lt_def.2 (by rw [recordIds_getElem]; exact hj))]
  rfl

/-- No record is taken where none is free (R12). -/
theorem State.freeRecord_eq_none {s : State} (h : ∀ q : RecId, (s.member q).inUse = true) : s.freeRecord = none := by
  unfold State.freeRecord
  rw [List.find?_eq_none]
  intro q _
  simp [h q]

/-- ADD MEMBER refuses a section number outside 0 to 15 (R12). -/
theorem addMemberBody_badSection (s : State) (l : Level) {a : Int} (b w : Int) (ha : a < 0 ∨ 15 < a) :
    addMemberBody s l [a, b, w] = s.refuse .badValue [] := by
  simp only [addMemberBody, index?_none (n := 16) (show a < 0 ∨ ((16 : Nat) : Int) ≤ a by omega)]

/-- ADD MEMBER refuses a node number outside 1 to 62 (R12). -/
theorem addMemberBody_badNode (s : State) (l : Level) (i : SecId) {b : Int} (w : Int) (hb : b < 1 ∨ 62 < b) :
    addMemberBody s l [(i.val : Int), b, w] = s.refuse .badValue [] := by
  simp only [addMemberBody, index?_val, nodeOf_toNat_none hb]

/-- ADD MEMBER of a section and a node that exist: the checks of R12 after them, in their order. -/
theorem addMemberBody_node (s : State) (l : Level) (i : SecId) (n : NodeId) (w : Int) :
    addMemberBody s l [(i.val : Int), (n.val : Int) + 1, w] =
      if n = s.station ∨ w < 1 ∨ 255 < w then s.refuse .badValue []
      else if (s.sec i).state ≠ .bypass then s.refuse .sectionActive []
      else if (s.drive n).inSection.isSome then s.refuse .inUse []
      else if 4 ≤ (s.members i).length then s.refuse .tableFull []
      else s.freeRecord.elim (s.refuse .tableFull []) fun r =>
        (s.addMember i n w.toNat r).answerOk [(r.val : Int), ((s.members i).length : Int)] := by
  simp only [addMemberBody, index?_val, nodeOf_toNat rfl]
  cases s.freeRecord <;> rfl

/-- Settles O46: the checks in their order, then the record taken. -/
theorem addMemberAppends : Obligations.AddMemberAppends := by
  intro s r a b w htakes hops refused
  have hexec : exec .addMember s = .next ((addMemberBody s.dropRequest .commission [a, b, w]).post r.tag) := by
    rw [← hops]; exact htakes.serve (by rw [hops]; exact ⟨le_rfl, le_rfl⟩) addMemberBody
  have hrefused {code : ResultCode} (h : addMemberBody s.dropRequest .commission [a, b, w] = s.dropRequest.refuse code []) :
      refused code := htakes.serve_refused hops ⟨le_rfl, le_rfl⟩ h
  refine ⟨fun ha => hrefused (addMemberBody_badSection _ _ b w ha), ?_⟩
  rintro i rfl
  refine ⟨fun h => ?_, ?_⟩
  · by_cases hb : b < 1 ∨ 62 < b
    · exact hrefused (addMemberBody_badNode _ _ i w hb)
    · obtain ⟨n, rfl⟩ : ∃ n : NodeId, b = n.val + 1 := ⟨⟨b.toNat - 1, by omega⟩, by simp; omega⟩
      refine hrefused ((addMemberBody_node ..).trans (if_pos ?_))
      have hstation : n = s.station ↔ (n.val : Int) + 1 = s.station.val + 1 := by rw [Fin.ext_iff]; omega
      show n = s.station ∨ _
      rw [hstation]; omega
  · rintro n rfl hn hlow hhigh
    have hnode := addMemberBody_node s.dropRequest .commission i n w
    rw [if_neg (by rintro (h | h); exacts [hn h, by omega])] at hnode
    have hbypass (h : (s.sec i).state = .bypass) : ¬ (s.dropRequest.sec i).state ≠ .bypass := not_not.2 h
    have hunassigned (h : (s.drive n).inSection = none) : ¬ (s.dropRequest.drive n).inSection.isSome = true := by
      rw [State.drive_dropRequest, h]; exact nofun
    refine ⟨fun hstate => hrefused (hnode.trans (if_pos hstate)), fun hstate hin => ?_, fun hstate hin hfull => ?_,
      fun q hstate hin hroom hq hfirst => ?_⟩
    · rw [if_neg (hbypass hstate)] at hnode
      exact hrefused (hnode.trans (if_pos (Option.isSome_iff_ne_none.2 hin)))
    · rw [if_neg (hbypass hstate), if_neg (hunassigned hin)] at hnode
      rcases hfull with hlen | hall
      · exact hrefused (hnode.trans (if_pos hlen))
      · rw [State.freeRecord_eq_none (s := s.dropRequest) hall, Option.elim_none, ite_self] at hnode
        exact hrefused hnode
    · rw [if_neg (hbypass hstate), if_neg (hunassigned hin),
        if_neg (show ¬ 4 ≤ (s.dropRequest.members i).length from Nat.not_le.2 hroom), State.freeRecord_eq_some (s := s.dropRequest) hq hfirst,
        Option.elim_some] at hnode
      have hmember : ((s.dropRequest.addMember i n w.toNat q).member q) = { PoolRecord.free with
          inUse := true, inSection := some i, node := some n, position := some (Fin.ofNat 4 (s.members i).length)
          weight := w.toNat } := by
        rw [State.member_addMember, if_pos rfl]; rfl
      let t := (s.dropRequest.addMember i n w.toNat q).postReply r.tag .ok false
        [(q.val : Int), ((s.members i).length : Int)]
      have hsec (j : SecId) : t.sec j = _ := State.sec_addMember s.dropRequest i n w.toNat q j
      have hdrive (m : NodeId) : t.drive m = _ := State.drive_addMember s.dropRequest i n w.toNat q m
      have hq : t.member q = _ := hmember
      refine ⟨t, by rw [hexec, hnode]; rfl, ?_, fun j hj => ?_, ?_, ?_, ?_, ?_, ?_, ?_, fun p hp => ?_, ?_, fun m hm => ?_, rfl⟩
      · rw [hsec, if_pos rfl]; rfl
      · rw [hsec, if_neg hj]; rfl
      · rw [hq]; rfl
      · rw [hq]; rfl
      · rw [hq]; rfl
      · rw [hq]
        show (((Fin.ofNat 4 (s.members i).length).val : Nat) : Int) = _
        simp [Nat.mod_eq_of_lt hroom]
      · rw [hq]; exact Int.toNat_of_nonneg (by omega)
      · rw [hq]; rfl
      · exact (State.member_addMember s.dropRequest i n w.toNat q p).trans (if_neg hp)
      · rw [hdrive, if_pos rfl]; rfl
      · rw [hdrive, if_neg hm]; rfl

/-! ## The checks of REMOVE MEMBER and MAKE LEAD (R13, R14) -/

/-- A section number outside 0 to 15 is refused (R13, R14). -/
theorem State.onMember_badSection (s : State) {a : Int} (b : Int) (body : SecId → NodeId → RecId → Answer) (ha : a < 0 ∨ 15 < a) :
    s.onMember [a, b] body = s.refuse .badValue [] := by
  simp only [State.onMember, index?_none (n := 16) (show a < 0 ∨ ((16 : Nat) : Int) ≤ a by omega)]

/-- A section that is not in BYPASS is refused (R13, R14). -/
theorem State.onMember_active {s : State} {i : SecId} (b : Int) (body : SecId → NodeId → RecId → Answer)
    (h : (s.sec i).state ≠ .bypass) : s.onMember [(i.val : Int), b] body = s.refuse .sectionActive [] := by
  simp only [State.onMember, index?_val, if_pos h]

/-- A node number that is no member's is refused (R13, R14). -/
theorem State.onMember_stranger {s : State} (hm : MembersConsistent s) {i : SecId} {b : Int}
    (body : SecId → NodeId → RecId → Answer) (hstate : (s.sec i).state = .bypass)
    (h : ∀ n : NodeId, b = n.val + 1 → (s.drive n).inSection ≠ some i) :
    s.onMember [(i.val : Int), b] body = s.refuse .badValue [] := by
  simp only [State.onMember, index?_val, if_neg (not_not.2 hstate)]
  cases hn : nodeOf b.toNat with
  | none => rfl
  | some n =>
    have hnone : ((s.members i).find? fun r => (s.member r).node = some n) = none := by
      rw [List.find?_eq_none]
      intro r hr hrn
      obtain ⟨hnode, hsec, _⟩ := hm.facts hr
      obtain rfl := Option.some.inj (hnode.symm.trans (of_decide_eq_true hrn))
      exact h _ (eq_of_nodeOf_toNat hn) hsec
    simp only [hnone]

/-- The record of a member's node is found (R9). -/
theorem State.onMember_found {s : State} (hm : MembersConsistent s) {i : SecId} {n : NodeId} {q : RecId} {b : Int}
    (body : SecId → NodeId → RecId → Answer) (hstate : (s.sec i).state = .bypass) (hb : b = n.val + 1) (hq : q ∈ s.members i)
    (hn : (s.member q).node = some n) : s.onMember [(i.val : Int), b] body = body i n q := by
  have hfound : ((s.members i).find? fun r => (s.member r).node = some n) = some q := by
    cases h : (s.members i).find? fun r => (s.member r).node = some n with
    | none => exact absurd (decide_eq_true hn) (List.find?_eq_none.1 h q hq)
    | some p =>
      have hp : (s.member p).node = some n := by simpa using List.find?_some h
      rw [hm.record_unique (List.mem_of_find?_eq_some h) hq (hp.trans hn.symm)]
  simp only [State.onMember, index?_val, if_neg (not_not.2 hstate), nodeOf_toNat hb, hfound]

/-- A member's record that has only its position written: the position, and everything else as it was (R13, R14). -/
theorem PoolRecord.placed {x y : PoolRecord} {k : Nat} (h : y = { x with position := some (Fin.ofNat 4 k) }) (hk : k < 4) :
    y.position.map Fin.val = some k ∧ { y with position := none } = { x with position := none } := by
  subst h
  exact ⟨position_val hk, rfl⟩

/-! ## REMOVE MEMBER (R13) -/

/-- Settles O47: the checks, then the gap closed in list, positions, pool and Drive Map. -/
theorem removeMemberClosesGap : Obligations.RemoveMemberClosesGap := by
  intro s r a b htakes hm hops refused
  have hm' : MembersConsistent s.dropRequest := hm
  have hexec : exec .removeMember s = .next ((removeMemberBody s.dropRequest .commission [a, b]).post r.tag) := by
    rw [← hops]; exact htakes.serve (by rw [hops]; exact ⟨le_rfl, le_rfl⟩) removeMemberBody
  have hrefused {code : ResultCode} (h : removeMemberBody s.dropRequest .commission [a, b] = s.dropRequest.refuse code []) :
      refused code := htakes.serve_refused hops ⟨le_rfl, le_rfl⟩ h
  refine ⟨fun ha => hrefused (State.onMember_badSection _ b _ ha), ?_⟩
  rintro i rfl
  refine ⟨fun h => hrefused (State.onMember_active b _ h), fun hstate h => hrefused (State.onMember_stranger hm' _ hstate h),
    fun n q hstate hb hq hn => ?_⟩
  have hnd : (s.dropRequest.members i).Nodup := hm'.nodup i
  have hbody : removeMemberBody s.dropRequest .commission [(i.val : Int), b] =
      (s.dropRequest.removeMember i n q).answerOk [(q.val : Int)] := State.onMember_found hm' _ hstate hb hq hn
  let t := (s.dropRequest.removeMember i n q).postReply r.tag .ok false [(q.val : Int)]
  have hsec (j : SecId) : t.sec j = _ := State.sec_removeMember s.dropRequest i n q j
  have hdrive (m : NodeId) : t.drive m = _ := State.drive_removeMember s.dropRequest i n q m
  refine ⟨t, by rw [hexec, hbody]; rfl, ?_, fun j hj => ?_, State.member_removeMember_self s.dropRequest i n q, fun k p hk => ?_, fun p hp => ?_,
    ?_, fun m hne => ?_, ?_⟩
  · rw [hsec, if_pos rfl]; rfl
  · rw [hsec, if_neg hj]; rfl
  · refine PoolRecord.placed (State.member_removeMember (s := s.dropRequest) n q hnd hk) ?_
    have hlt := (List.getElem?_eq_some_iff.1 hk).1
    have hle := List.length_filter_le (fun p => decide (p ≠ q)) (s.members i)
    have hfour := (hm.1 i).1
    omega
  · exact State.member_removeMember_other (s := s.dropRequest) n hq hp
  · rw [hdrive, if_pos rfl]; rfl
  · rw [hdrive, if_neg hne]; rfl
  · exact congrArg (fun u : State => u.postReply r.tag .ok false [(q.val : Int)]) (State.removeMember_frame s.dropRequest i n q)

/-! ## MAKE LEAD (R14) -/

/-- Settles O48: the checks of REMOVE MEMBER, then the new order in list and positions. -/
theorem makeLeadMovesToFront : Obligations.MakeLeadMovesToFront := by
  intro s r a b htakes hm hops refused
  have hm' : MembersConsistent s.dropRequest := hm
  have hexec : exec .makeLead s = .next ((makeLeadBody s.dropRequest .commission [a, b]).post r.tag) := by
    rw [← hops]; exact htakes.serve (by rw [hops]; exact ⟨le_rfl, le_rfl⟩) makeLeadBody
  have hrefused {code : ResultCode} (h : makeLeadBody s.dropRequest .commission [a, b] = s.dropRequest.refuse code []) :
      refused code := htakes.serve_refused hops ⟨le_rfl, le_rfl⟩ h
  refine ⟨fun ha => hrefused (State.onMember_badSection _ b _ ha), ?_⟩
  rintro i rfl
  refine ⟨fun h => hrefused (State.onMember_active b _ h), fun hstate h => hrefused (State.onMember_stranger hm' _ hstate h),
    fun n q hstate hb hq hn => ?_⟩
  have hbody : makeLeadBody s.dropRequest .commission [(i.val : Int), b] =
      if (s.members i).head? = some q then s.dropRequest.answerOk []
      else (s.dropRequest.makeLead i q).answerOk [] := State.onMember_found hm' _ hstate hb hq hn
  refine ⟨fun hlead => by rw [hexec, hbody, if_pos hlead]; rfl, fun hlead => ?_⟩
  have hnd : (s.dropRequest.members i).Nodup := hm'.nodup i
  let t := (s.dropRequest.makeLead i q).postReply r.tag .ok false []
  have hsec (j : SecId) : t.sec j = _ := State.sec_makeLead s.dropRequest i q j
  refine ⟨t, by rw [hexec, hbody, if_neg hlead]; rfl, ?_, fun j hj => ?_, fun k p hk => ?_, fun p hp => ?_, ?_⟩
  · rw [hsec, if_pos rfl]; rfl
  · rw [hsec, if_neg hj]; rfl
  · refine PoolRecord.placed (State.member_makeLead (s := s.dropRequest) q hnd hk) ?_
    have hlt := (List.getElem?_eq_some_iff.1 hk).1
    have hle := ((nodup_leadFirst q hnd).subperm fun p hp => mem_of_mem_leadFirst hq hp).length_le
    exact Nat.lt_of_lt_of_le hlt (hle.trans (hm.1 i).1)
  · exact State.member_makeLead_other (s := s.dropRequest) hq hp
  · exact congrArg (fun u : State => u.postReply r.tag .ok false []) (State.makeLead_frame s.dropRequest i q)

end Sys2Proof.Machine
end

section
/-! PROOFS. What the tables read after power-up (R160), and what RESTART leaves (R170). -/

namespace Sys2Proof.Machine

/-! ## The tables by entry (R163) -/

/-- The Section Table by section. -/
theorem State.readField_section (s : State) (i : SecId) (f : Nat) : s.readField 1 i.val f = s.readSection i f := by
  show s.readSection (Fin.ofNat 16 i.val) f = _; rw [Fin.ofNat_val_eq_self]

/-- The Member Pool by record. -/
theorem State.readField_member (s : State) (r : RecId) (f : Nat) : s.readField 2 r.val f = (s.member r).read f := by
  show (s.member (Fin.ofNat 48 r.val)).read f = _; rw [Fin.ofNat_val_eq_self]

/-- The Drive Map by node. -/
theorem State.readField_drive (s : State) (n : NodeId) (f : Nat) : s.readField 3 n.val f = (s.drive n).read n f := by
  show (s.drive (Fin.ofNat 62 n.val)).read (Fin.ofNat 62 n.val) f = _; rw [Fin.ofNat_val_eq_self]

/-- The Segment Table by record. -/
theorem State.readField_segment (s : State) (k : Fin 128) (f : Nat) : s.readField 4 k.val f = (s.segments[k]).read f := by
  show (s.segment k.val).read f = _
  unfold State.segment; rw [dif_pos k.isLt]; rfl

/-- The Limit Set table by section. -/
theorem State.readField_monitor (s : State) (i : SecId) (f : Nat) : s.readField 5 i.val f = (s.sec i).monitor.read f := by
  show (s.sec (Fin.ofNat 16 i.val)).monitor.read f = _; rw [Fin.ofNat_val_eq_self]

/-- The Watch Table by point. -/
theorem State.readField_watch (s : State) (w : WatchId) (f : Nat) : s.readField 6 w.val f = (s.watch w).read f := by
  show (s.watch (Fin.ofNat 4 w.val)).read f = _; rw [Fin.ofNat_val_eq_self]

/-- The Capture List by item. -/
theorem State.readField_item (s : State) (k : Fin 8) (f : Nat) : s.readField 7 k.val f = (s.captureList[k]).read f := by
  show (s.captureList[Fin.ofNat 8 k.val]).read f = _; simp only [Fin.ofNat_val_eq_self]

/-! ## The tables after power-up (R160) -/

/-- The Section Table after power-up: every section reads as section 0. -/
theorem State.readSection_reset (i : SecId) (f : Nat) : State.reset.readSection i f = State.reset.readSection 0 f := by
  unfold State.readSection State.members
  rw [State.sec_reset, State.sec_reset]

/-- The station address that the straps give (R20). -/
theorem nodeNumber_stationOfStraps (straps : BitVec 6) :
    (nodeNumber (stationOfStraps straps) : Int) = if 1 ≤ straps.toNat ∧ straps.toNat ≤ 62 then (straps.toNat : Int) else 62 := by
  unfold stationOfStraps nodeOf nodeNumber
  split
  · rw [Option.getD_some]; dsimp only; omega
  · rfl

/-- Settles O3: the state after power-up reads as the one after reset, table by table. -/
theorem powerUpGivesStartingValues : Obligations.PowerUpGivesStartingValues := by
  intro straps permit s
  let t := s.powerUp straps permit
  have hsec (i : SecId) : t.sec i = Section.powerOn := State.sec_reset i
  have hwatch (w : WatchId) : t.watch w = WatchPoint.powerOn := by simp [t, State.powerUp, State.watch, State.reset]
  have hsegment (k : Fin 128) : t.segments[k] = Segment.powerOn := by simp [t, State.powerUp, State.reset]
  have hitem (k : Fin 8) : t.captureList[k] = CaptureItem.powerOn := by simp [t, State.powerUp, State.reset]
  have hread (f : Nat → Int) (g : Nat → Int) (n : Nat) (h : ∀ k, f k = g k) : (List.range n).map f = (List.range n).map g :=
    List.map_congr_left fun k _ => h k
  refine ⟨t, rfl, fun hp => State.whenPowered_on s (·.powerUp straps permit) hp, fun i => ?_, fun r => ?_, fun n => ?_, fun k => ?_, fun i => ?_,
    fun w => ?_, fun k => ?_, rfl, fun e => rfl, ?_, fun i => ?_, rfl, rfl, rfl, rfl, rfl, rfl, rfl, rfl, rfl, rfl, rfl,
    rfl, rfl⟩
  · rw [hread _ _ 42 fun f => (t.readField_section i f).trans (State.readSection_reset i f)]; decide
  · rw [hread _ _ 10 fun f => (t.readField_member r f).trans (congrArg (·.read f) (State.member_reset r))]; decide
  · rw [hread _ _ 15 fun f => (t.readField_drive n f).trans (congrArg (·.read n f) (State.drive_reset n))]; rfl
  · rw [hread _ _ 3 fun f => (t.readField_segment k f).trans (congrArg (·.read f) (hsegment k))]; decide
  · rw [hread _ _ 21 fun f => (t.readField_monitor i f).trans (congrArg (·.monitor.read f) (hsec i))]; decide
  · rw [hread _ _ 12 fun f => (t.readField_watch w f).trans (congrArg (·.read f) (hwatch w))]; decide
  · rw [hread _ _ 4 fun f => (t.readField_item k f).trans (congrArg (·.read f) (hitem k))]; decide
  · rw [← nodeNumber_stationOfStraps]; rfl
  · rw [hsec]; exact ⟨rfl, rfl, rfl, rfl, rfl, rfl⟩

/-! ## RESTART (R170) -/

/-- What step 1 of RESTART leaves for some sections: those not in BYPASS have entered it, with their members' records, and the engine of
a holder among them is free (R48). -/
structure Restarted (is : List SecId) (s t : State) : Prop where
  frame : s.entryFrame t
  sec : ∀ i, t.sec i = if i ∈ is ∧ (s.sec i).state ≠ .bypass then (s.sec i).passing .bypass .restart else s.sec i
  dropped : ∀ q, (∃ i ∈ is, q ∈ s.members i ∧ (s.sec i).state ≠ .bypass) → t.member q = (s.member q).dropped
  kept : ∀ q, (∀ i ∈ is, q ∈ s.members i → (s.sec i).state = .bypass) → t.member q = s.member q
  engine : t.engine = s.engine ∨ t.engine = Engine.free
  freed : ∀ i ∈ is, (s.sec i).state ≠ .bypass → s.engine.holder = some i → t.engine = Engine.free
  idle : (∀ i ∈ is, (s.sec i).state = .bypass) → t = s

/-- Step 1 of RESTART for no section. -/
theorem Restarted.nil (s : State) : Restarted [] s s where
  frame := rfl
  sec i := (if_neg fun h => List.not_mem_nil h.1).symm
  dropped q h := by obtain ⟨i, hi, _⟩ := h; cases hi
  kept _ _ := rfl
  engine := .inl rfl
  freed i hi := by cases hi
  idle _ := rfl

/-- Step 1 of RESTART for one section. -/
theorem Restarted.single (s : State) (i : SecId) : Restarted [i] s (s.restartSection i) := by
  unfold State.restartSection
  split
  · rename_i hb
    have hall : ∀ j ∈ [i], (s.sec j).state = .bypass := fun j hj => List.mem_singleton.1 hj ▸ hb
    refine ⟨rfl, fun j => (if_neg fun h => h.2 (hall j h.1)).symm, fun q h => ?_, fun _ _ => rfl, .inl rfl,
      fun j hj hn => absurd (hall j hj) hn, fun _ => rfl⟩
    obtain ⟨j, hj, _, hn⟩ := h
    exact absurd (hall j hj) hn
  · rename_i hb
    obtain ⟨hframe, hsec, hother, hrec, hengine⟩ := State.enterPassing_spec s i .bypass .restart none none
    refine ⟨hframe, fun j => ?_, fun q h => ?_, fun q h => ?_, ?_, fun j hj _ hh => ?_, fun h => absurd (h i (List.mem_singleton.2 rfl)) hb⟩
    · by_cases hj : j = i
      · subst hj; rw [if_pos ⟨List.mem_singleton.2 rfl, hb⟩]; exact hsec
      · rw [if_neg fun h => hj (List.mem_singleton.1 h.1)]; exact hother j hj
    · obtain ⟨j, hj, hq, _⟩ := h
      rw [hrec, if_pos (List.mem_singleton.1 hj ▸ hq)]
    · rw [hrec, if_neg fun hq => hb (h i (List.mem_singleton.2 rfl) hq)]
    · rw [hengine]
      split
      · exact .inr rfl
      · exact .inl rfl
    · rw [hengine, if_pos (List.mem_singleton.1 hj ▸ hh)]

/-- Step 1 of RESTART for section i and then for others. -/
theorem Restarted.cons {s t u : State} {i : SecId} {is : List SecId} (hi : i ∉ is) (h : Restarted [i] s t) (k : Restarted is t u)
    (hm : ∀ j, t.members j = s.members j) : Restarted (i :: is) s u := by
  have hother {j : SecId} (hj : j ∈ is) : t.sec j = s.sec j := by
    rw [h.sec, if_neg]
    rintro ⟨hji, _⟩
    exact hi (List.mem_singleton.1 hji ▸ hj)
  have hhead : i ∈ [i] := List.mem_singleton.2 rfl
  refine ⟨?_, fun j => ?_, fun q hq => ?_, fun q hq => ?_, ?_, fun j hj hb hh => ?_, fun hall => ?_⟩
  · show u = _
    rw [k.frame, h.frame]
  · rw [k.sec]
    by_cases hj : j ∈ is
    · simp [hother hj, hj]
    · rw [if_neg fun e => hj e.1, h.sec]
      simp [hj]
  · by_cases hone : q ∈ s.members i ∧ (s.sec i).state ≠ .bypass
    · have ht : t.member q = (s.member q).dropped := h.dropped q ⟨i, hhead, hone⟩
      by_cases hrest : ∃ j ∈ is, q ∈ t.members j ∧ (t.sec j).state ≠ .bypass
      · rw [k.dropped q hrest, ht]; rfl
      · rw [k.kept q fun j hj hq => by_contra fun hb => hrest ⟨j, hj, hq, hb⟩, ht]
    · have ht : t.member q = s.member q := h.kept q fun j hj hqj => by
        rw [List.mem_singleton.1 hj] at hqj ⊢
        exact by_contra fun hb => hone ⟨hqj, hb⟩
      obtain ⟨j, hj, hqj, hb⟩ := hq
      rcases List.mem_cons.1 hj with rfl | hj
      · exact absurd ⟨hqj, hb⟩ hone
      · rw [k.dropped q ⟨j, hj, hm j ▸ hqj, hother hj ▸ hb⟩, ht]
  · rw [k.kept q fun j hj hqj => hother hj ▸ hq j (List.mem_cons_of_mem _ hj) (hm j ▸ hqj),
      h.kept q fun j hj hqj => hq j (List.mem_singleton.1 hj ▸ List.mem_cons_self) hqj]
  · rcases k.engine with he | he
    · rw [he]; exact h.engine
    · exact .inr he
  · rcases List.mem_cons.1 hj with rfl | hj
    · rcases k.engine with he | he
      · rw [he]; exact h.freed j hhead hb hh
      · exact he
    · rcases h.engine with he | he
      · exact k.freed j hj (hother hj ▸ hb) (he ▸ hh)
      · rcases k.engine with hu | hu
        · rw [hu, he]
        · exact hu
  · have ht : t = s := h.idle fun j hj => hall j (List.mem_singleton.1 hj ▸ List.mem_cons_self)
    rw [k.idle fun j hj => hother hj ▸ hall j (List.mem_cons_of_mem _ hj), ht]

/-- Step 1 of RESTART. -/
theorem Restarted.of_foldl : ∀ (is : List SecId) (s : State), is.Nodup → Restarted is s (is.foldl State.restartSection s)
  | [], s, _ => .nil s
  | i :: is, s, hnd => by
    obtain ⟨hi, hnd⟩ := List.nodup_cons.1 hnd
    have hstable : Stable s (s.restartSection i) := by
      unfold State.restartSection
      split
      · exact .refl s
      · exact .enterPassing ..
    exact .cons hi (.single s i) (.of_foldl is _ hnd) fun j => (hstable.sec j).1

/-- A monitor record with its limits INSIDE and their counters 0 (R115). -/
def Monitor.limitsCleared (m : Monitor) : Monitor :=
  { m with speedError := m.speedError.cleared, imbalance := m.imbalance.cleared, loadHigh := m.loadHigh.cleared }

/-- A section with an empty latch and cleared limits (R170). -/
def Section.recordsRestarted (x : Section) : Section := { x with snapshot := none, monitor := x.monitor.limitsCleared }

/-- Steps 5 and 7 of RESTART for one section. -/
theorem State.sec_restartRecords (s : State) (i j : SecId) :
    (s.restartRecords i).sec j = if j = i then (s.sec i).recordsRestarted else s.sec j := by
  unfold State.restartRecords State.clearLimits State.modMonitor
  rw [State.sec_modSec, State.sec_modSec_self]
  split
  · rfl
  · rw [State.sec_modSec_ne _ ‹_›]

/-- Steps 5 and 7 of RESTART for some sections: the sections, and nothing else. -/
theorem State.restartRecords_foldl : ∀ (is : List SecId) (s : State), is.Nodup →
    is.foldl State.restartRecords s = { s with sections := (is.foldl State.restartRecords s).sections } ∧
      ∀ j, (is.foldl State.restartRecords s).sec j = if j ∈ is then (s.sec j).recordsRestarted else s.sec j
  | [], _, _ => ⟨rfl, fun j => by simp⟩
  | i :: is, s, hnd => by
    obtain ⟨hi, hnd⟩ := List.nodup_cons.1 hnd
    obtain ⟨hframe, hsec⟩ := State.restartRecords_foldl is (s.restartRecords i) hnd
    refine ⟨by rw [List.foldl_cons, hframe]; rfl, fun j => ?_⟩
    rw [List.foldl_cons, hsec, State.sec_restartRecords]
    by_cases hj : j = i
    · subst hj; simp [hi]
    · simp [hj]

/-- Every watch point of a list changed by a change that done twice is the change done once: the points, and nothing else. -/
theorem State.modWatch_foldl (f : WatchPoint → WatchPoint) (hf : ∀ p, f (f p) = f p) : ∀ (ws : List WatchId) (s : State),
    ws.foldl (fun t w => t.modWatch w f) s = { s with watches := (ws.foldl (fun t w => t.modWatch w f) s).watches } ∧
      ∀ x, (ws.foldl (fun t w => t.modWatch w f) s).watch x = if x ∈ ws then f (s.watch x) else s.watch x
  | [], _ => ⟨rfl, fun x => by simp⟩
  | w :: ws, s => by
    obtain ⟨hframe, hwatch⟩ := State.modWatch_foldl f hf ws (s.modWatch w f)
    refine ⟨by rw [List.foldl_cons, hframe]; rfl, fun x => ?_⟩
    rw [List.foldl_cons, hwatch, State.watch_modWatch]
    by_cases hx : x = w
    · subst hx; by_cases hm : x ∈ ws <;> simp [hm, hf]
    · simp [hx]

/-- Steps 2 to 4 of RESTART: the capture IDLE, one START_UP record with detail RESTART, both cursors at their start (R170). -/
def State.restartHead (u : State) : State :=
  { u with
    capture := { u.capture with state := .idle, nextItem := 0, remaining := 0 }
    events := [⟨u.nextSequence, .startUp, none, none, none, u.cycle, none, 1, false⟩], nextSequence := u.nextSequence + 1
    observeCursor := ⟨1, 0, 0⟩, commissionCursor := ⟨1, 0, 0⟩ }

/-- The effects of RESTART: the sections, the head, the sections' records, the watch points (R170). -/
theorem State.restartWork_eq (s : State) : s.restartWork =
    watchIds.foldl (fun t w => t.modWatch w WatchPoint.rewritten)
      ((s.forSections State.restartSection).restartHead.forSections State.restartRecords) := by
  have hhead (u : State) : { u.restartCapture.restartEvents with
      observeCursor := Cursor.powerOn, commissionCursor := Cursor.powerOn } = u.restartHead := by
    unfold State.restartEvents
    rw [State.post_room _ _ _ _ _ _ _ _ (show ([] : List Event).length < 32 by decide)]
    rfl
  unfold State.restartWork
  dsimp only
  rw [hhead]

/-- The effects of RESTART after step 1, field by field (R170). -/
theorem State.restartWork_spec (s u : State) (hu : s.forSections State.restartSection = u) :
    s.restartWork = { u.restartHead with sections := s.restartWork.sections, watches := s.restartWork.watches } ∧
      (∀ i, s.restartWork.sec i = (u.sec i).recordsRestarted) ∧ ∀ w, s.restartWork.watch w = (u.watch w).rewritten := by
  obtain ⟨hframe, hsec⟩ := State.restartRecords_foldl sectionIds u.restartHead (by decide)
  have hall : ∀ i : SecId, i ∈ sectionIds := by decide
  have hallw : ∀ w : WatchId, w ∈ watchIds := by decide
  rw [State.restartWork_eq, hu]
  unfold State.forSections
  generalize sectionIds.foldl State.restartRecords u.restartHead = v at hframe hsec
  obtain ⟨hframe', hwatch⟩ := State.modWatch_foldl WatchPoint.rewritten (fun _ => rfl) watchIds v
  generalize watchIds.foldl (fun t w => t.modWatch w WatchPoint.rewritten) v = t at hframe' hwatch
  refine ⟨?_, fun i => ?_, fun w => ?_⟩
  · rw [hframe', hframe]
  · rw [hframe']
    exact (hsec i).trans (if_pos (hall i))
  · rw [hwatch, if_pos (hallw w), hframe]
    rfl

/-- A COMMISSION RESTART posts its reply and then does its work (R170). -/
theorem TakesCommission.restart {s : State} {r : RequestFrame} (h : TakesCommission s r 9) (hops : r.operands = []) :
    exec .restart s = .next (s.answered r .ok false []).restartWork := by
  obtain ⟨⟨hpowered, hroom, hhead, hcode, hlevel⟩, hpermit⟩ := h
  have hadmit : s.dropRequest.admission rowRestart .commission r.operands.length = none := by
    rw [hops]
    unfold State.admission
    rw [State.permit_dropRequest, hpermit]
    rfl
  have hrequest : s.requestFor rowRestart.code = some (r, .commission) := State.requestFor_eq hroom hhead hcode hlevel
  show execRestart s = _
  unfold execRestart
  rw [State.whenPowered_on _ _ hpowered, hrequest]
  simp only [hadmit]
  rfl

/-- Settles O37: step 1 section by section, then the rest of RESTART field by field. -/
theorem restartReturnsEverySectionToBypass : Obligations.RestartReturnsEverySectionToBypass := by
  intro s r htakes hops heng
  have hall : ∀ i : SecId, i ∈ sectionIds := by decide
  have hexec := htakes.restart hops
  have hfirst : Restarted sectionIds (s.answered r .ok false []) ((s.answered r .ok false []).forSections State.restartSection) :=
    .of_foldl sectionIds _ (by decide)
  generalize hu : (s.answered r .ok false []).forSections State.restartSection = u at hfirst
  obtain ⟨hframe, hsec, hwatch⟩ := State.restartWork_spec _ u hu
  generalize (s.answered r .ok false []).restartWork = t at hexec hframe hsec hwatch
  have hmember (q : RecId) : t.member q = u.member q := by rw [hframe]; rfl
  have hfree : u.engine = Engine.free := by
    cases hh : s.engine.holder with
    | none => exact hfirst.engine.elim (fun he => he.trans (heng.2 hh)) id
    | some i =>
      have hcal : (s.sec i).state = .calibrating := (heng.1 i).2 hh
      exact hfirst.freed i (hall i) (show (s.sec i).state ≠ .bypass by rw [hcal]; exact nofun) hh
  have hcycle : u.cycle = s.cycle := by rw [hfirst.frame]; rfl
  refine ⟨t, hexec, fun i => ?_, fun q h => ?_, fun q h => ?_, fun w => ?_, ?_, ?_, ?_, fun h => ?_, ?_⟩
  · intro m cleared monitor
    rw [hsec, hfirst.sec]
    by_cases hb : (s.sec i).state = .bypass
    · rw [if_pos hb, if_neg fun h => h.2 hb]; rfl
    · rw [if_neg hb, if_pos ⟨hall i, hb⟩]; rfl
  · obtain ⟨i, hi, hb⟩ := h
    rw [hmember]
    exact hfirst.dropped q ⟨i, hall i, hi, hb⟩
  · rw [hmember]
    exact hfirst.kept q fun i _ hi => h i hi
  · rw [hwatch, hfirst.frame]; rfl
  · rw [hframe]; exact hfree
  · rw [hframe, hfirst.frame]; rfl
  · refine ⟨⟨u.nextSequence, .startUp, none, none, none, u.cycle, none, 1, false⟩, by rw [hframe]; rfl, by rw [hframe]; rfl, ?_⟩
    rw [hcycle]
  · have hidle : u = s.answered r .ok false [] := hfirst.idle fun i _ => h i
    rw [hframe, hidle]; rfl
  · rw [hframe, hfirst.frame]; rfl

end Sys2Proof.Machine
end

section
/-! PROOFS. What a write to a configuration field reads back as (R5, R6, R10, R11, R18, R72, R158). -/

namespace Sys2Proof.Machine

/-! ## The configuration fields of the Section Table (R4) -/

/-- The value of a configuration field, 6 to 22, of a Section Table entry (R4). -/
def SectionConfig.read (c : SectionConfig) (f : Nat) : Int :=
  match f with
  | 6 => c.drawOffset
  | 7 => c.trimWindow
  | 8 => c.absoluteLimit
  | 9 => c.shareGain
  | 10 => c.trimLimit
  | 11 => c.profileStart
  | 12 => c.profileLength
  | 13 => c.repeatCount
  | 14 => c.endAction.code
  | 15 => c.gateHoldLimit
  | 16 => c.releaseRate
  | 17 => c.missLimit
  | 18 => c.crawlLimit
  | 19 => c.calLow
  | 20 => c.calHigh
  | 21 => c.settleCycles
  | 22 => c.sampleExponent
  | _ => 0

/-- Fields 6 to 22 of the Section Table read the configuration. -/
theorem State.readSection_config (s : State) (i : SecId) {f : Nat} (h1 : 6 ≤ f) (h2 : f ≤ 22) :
    s.readSection i f = (s.sec i).cfg.read f := by
  interval_cases f <;> rfl

/-- A Section Table entry reads its section and the nodes of its members. -/
theorem State.readSection_congr {s t : State} {i : SecId} (hsec : t.sec i = s.sec i)
    (hnode : ∀ r, (t.member r).node = (s.member r).node) (f : Nat) : t.readSection i f = s.readSection i f := by
  unfold State.readSection State.members
  simp only [hsec, hnode]

/-- The fields outside 6 to 22 do not read the configuration. -/
theorem State.readSection_modCfg_other (s : State) (i : SecId) (g : SectionConfig → SectionConfig) {f : Nat} (h : f < 6 ∨ 22 < f) :
    (s.modCfg i g).readSection i f = s.readSection i f := by
  have hsec : (s.modCfg i g).sec i = { s.sec i with cfg := g (s.sec i).cfg } := State.sec_modSec_self ..
  unfold State.readSection State.members
  rw [hsec]
  split <;> first | rfl | omega

/-- Configuration field f set to v: the stores of the Section Table's writes in one table. -/
def SectionConfig.write (c : SectionConfig) (f : Nat) (v : Int) : SectionConfig :=
  match f with
  | 6 => { c with drawOffset := v }
  | 7 => { c with trimWindow := v }
  | 8 => { c with absoluteLimit := v }
  | 9 => { c with shareGain := v }
  | 10 => { c with trimLimit := v }
  | 11 => { c with profileStart := v.toNat }
  | 12 => { c with profileLength := v.toNat }
  | 13 => { c with repeatCount := v.toNat }
  | 14 => { c with endAction := (EndAction.ofCode v).getD .hold }
  | 15 => { c with gateHoldLimit := v.toNat }
  | 16 => { c with releaseRate := v }
  | 17 => { c with missLimit := v.toNat }
  | 18 => { c with crawlLimit := v }
  | 19 => { c with calLow := v }
  | 20 => { c with calHigh := v }
  | 21 => { c with settleCycles := v.toNat }
  | 22 => { c with sampleExponent := v.toNat }
  | _ => c

/-- An end action has the code it was found by. -/
theorem EndAction.code_ofCode {v : Int} (h1 : 0 ≤ v) (h2 : v ≤ 2) : (((EndAction.ofCode v).getD .hold).code : Int) = v := by
  interval_cases v <;> rfl

/-- Every configuration field but 6, the one with negative values, reads back what was written to it. -/
theorem SectionConfig.read_write_self (c : SectionConfig) {f : Nat} {v : Int} (h1 : 6 ≤ f) (h2 : f ≤ 22) (hsign : f ≠ 6 → 0 ≤ v)
    (hcode : f = 14 → v ≤ 2) : (c.write f v).read f = v := by
  have hnat (h : f ≠ 6) : (v.toNat : Int) = v := Int.toNat_of_nonneg (hsign h)
  interval_cases f
  · rfl
  · rfl
  · rfl
  · rfl
  · rfl
  · exact hnat (by decide)
  · exact hnat (by decide)
  · exact hnat (by decide)
  · exact EndAction.code_ofCode (hsign (by decide)) (hcode rfl)
  · exact hnat (by decide)
  · rfl
  · exact hnat (by decide)
  · rfl
  · rfl
  · rfl
  · exact hnat (by decide)
  · exact hnat (by decide)

/-- A write to one configuration field leaves the others. -/
theorem SectionConfig.read_write_ne (c : SectionConfig) {f k : Nat} (v : Int) (h : k ≠ f) : (c.write f v).read k = c.read k := by
  unfold SectionConfig.write
  split
  case h_18 => rfl
  all_goals
    unfold SectionConfig.read
    split <;> first | rfl | exact absurd rfl h

/-- t reads v in field f of section i's entry, and in its other fields what s reads. -/
def State.ReadsBack (s t : State) (i : SecId) (f : Nat) (v : Int) : Prop :=
  t.readField 1 i.val f = v ∧ ∀ k, k ≠ f → t.readField 1 i.val k = s.readField 1 i.val k

/-- A write to a configuration field reads back. -/
theorem State.readsBack_modCfg (s : State) (i : SecId) {f : Nat} {v : Int} (h1 : 6 ≤ f) (h2 : f ≤ 22) (hsign : f ≠ 6 → 0 ≤ v)
    (hcode : f = 14 → v ≤ 2) : s.ReadsBack (s.modCfg i (·.write f v)) i f v := by
  have hcfg : ((s.modCfg i (·.write f v)).sec i).cfg = (s.sec i).cfg.write f v := by
    unfold State.modCfg; rw [State.sec_modSec_self]
  refine ⟨?_, fun k hk => ?_⟩
  · rw [State.readField_section, State.readSection_config _ _ h1 h2, hcfg, SectionConfig.read_write_self _ h1 h2 hsign hcode]
  · rw [State.readField_section, State.readField_section]
    by_cases hin : 6 ≤ k ∧ k ≤ 22
    · obtain ⟨hk1, hk2⟩ := hin
      rw [State.readSection_config _ _ hk1 hk2, State.readSection_config _ _ hk1 hk2, hcfg, SectionConfig.read_write_ne _ _ hk]
    · exact State.readSection_modCfg_other s i _ (by omega)

/-! ## Writes by kind (R5, R6) -/

/-- A clamping write stores the clamped value. -/
theorem clampWrite_eq (lo hi v : Int) (store : Int → State) : clampWrite lo hi v store =
    if v < lo ∨ hi < v then .clamped (store (clampTo lo hi v)) else .written (store (clampTo lo hi v)) := by
  unfold clampWrite
  split
  · rfl
  · rename_i h
    rw [not_or] at h
    obtain ⟨hlo, hhi⟩ := h
    unfold clampTo
    rw [if_neg hlo, if_neg hhi]

/-- A clamping write leaves the state with the clamped value stored, and says whether it clamped. -/
theorem clampWrite_stores (lo hi v : Int) (store : Int → State) :
    ∃ t, clampWrite lo hi v store = (if v < lo ∨ hi < v then .clamped t else .written t) ∧ t = store (clampTo lo hi v) :=
  ⟨_, clampWrite_eq .., rfl⟩

/-- A write of a value outside the range is refused. -/
theorem rangeWrite_out {lo hi v : Int} (store : Int → State) (h : v < lo ∨ hi < v) :
    rangeWrite lo hi v store = .refused .badValue [] := if_pos h

/-- A write of a value within the range is stored. -/
theorem rangeWrite_in {lo hi v : Int} (store : Int → State) (h1 : lo ≤ v) (h2 : v ≤ hi) :
    rangeWrite lo hi v store = .written (store v) := if_neg (by omega)

/-- BYPASS and SELECTED are the states that take structural writes. -/
theorem SectionState.configurable_iff (x : SectionState) : x.configurable = true ↔ x = .bypass ∨ x = .selected := by
  cases x <;> decide

/-- A structural write outside BYPASS and SELECTED is refused. -/
theorem State.structural_refused {s : State} {i : SecId} (w : WriteResult) (h1 : (s.sec i).state ≠ .bypass)
    (h2 : (s.sec i).state ≠ .selected) : s.structural i w = .refused .sectionActive [] :=
  if_neg fun h => ((SectionState.configurable_iff _).1 h).elim h1 h2

/-- A structural write in BYPASS and SELECTED is taken. -/
theorem State.structural_taken {s : State} {i : SecId} (w : WriteResult) (h : (s.sec i).state = .bypass ∨ (s.sec i).state = .selected) :
    s.structural i w = w := if_pos ((SectionState.configurable_iff _).2 h)

/-! ## The Section Table's live and structural fields (R4 to R7) -/

/-- A Section Table write by section. -/
theorem State.writeField_section (s : State) (i : SecId) (f : Nat) (v : Int) : s.writeField 1 i.val f v = s.writeSection i f v := by
  show s.writeSection (Fin.ofNat 16 i.val) f v = _; rw [Fin.ofNat_val_eq_self]

/-- A write of v to a live field: every value is taken, clamped, and reads back. -/
def State.LiveWrite (s : State) (i : SecId) (v : Int) (f : Nat) (lo hi : Int) : Prop :=
  ∃ t, s.writeField 1 i.val f v = (if v < lo ∨ hi < v then .clamped t else .written t) ∧ s.ReadsBack t i f (clampTo lo hi v)

/-- A clamping write whose store reads back is a live write. -/
theorem State.liveWrite {s : State} {i : SecId} {f : Nat} {lo hi v : Int} {store : Int → State}
    (hw : s.writeSection i f v = clampWrite lo hi v store) (hle : lo ≤ hi)
    (hstore : ∀ x, lo ≤ x → s.ReadsBack (store x) i f x) : s.LiveWrite i v f lo hi :=
  ⟨_, (s.writeField_section i f v).trans (hw.trans (clampWrite_eq ..)), hstore _ (clampTo_inRange v hle).1⟩

/-- A write of v to a structural field: refused outside BYPASS and SELECTED and outside its range, else it reads back. -/
def State.StructuralWrite (s : State) (i : SecId) (v : Int) (f : Nat) (lo hi : Int) : Prop :=
    ((s.sec i).state ≠ .bypass → (s.sec i).state ≠ .selected → s.writeField 1 i.val f v = .refused .sectionActive []) ∧
    ((s.sec i).state = .bypass ∨ (s.sec i).state = .selected → v < lo ∨ hi < v →
      s.writeField 1 i.val f v = .refused .badValue []) ∧
    ((s.sec i).state = .bypass ∨ (s.sec i).state = .selected → lo ≤ v → v ≤ hi →
      ∃ t, s.writeField 1 i.val f v = .written t ∧ s.ReadsBack t i f v)

/-- A range write behind the structural check whose store reads back is a structural write. -/
theorem State.structuralWrite {s : State} {i : SecId} {f : Nat} {lo hi v : Int} {store : Int → State}
    (hw : s.writeSection i f v = s.structural i (rangeWrite lo hi v store))
    (hstore : lo ≤ v → v ≤ hi → s.ReadsBack (store v) i f v) : s.StructuralWrite i v f lo hi := by
  unfold State.StructuralWrite
  rw [State.writeField_section, hw]
  refine ⟨fun h1 h2 => State.structural_refused _ h1 h2, fun h hv => ?_, fun h h1 h2 => ⟨store v, ?_, hstore h1 h2⟩⟩
  · rw [State.structural_taken _ h, rangeWrite_out _ hv]
  · rw [State.structural_taken _ h, rangeWrite_in _ h1 h2]

/-- A write of an end action's code is a range write from 0 to 2. -/
theorem codeWrite_endAction (v : Int) (store : EndAction → State) :
    codeWrite (EndAction.ofCode v) store = rangeWrite 0 2 v fun x => store ((EndAction.ofCode x).getD .hold) := by
  by_cases h : 0 ≤ v ∧ v ≤ 2
  · obtain ⟨h1, h2⟩ := h
    interval_cases v <;> rfl
  · have hnone : EndAction.ofCode v = none := by
      unfold EndAction.ofCode
      rw [if_neg (by omega), if_neg (by omega), if_neg (by omega)]
    rw [hnone, rangeWrite_out _ (by omega)]
    rfl

/-- The Section Table's other fields take no write. -/
theorem State.writeSection_other (s : State) (i : SecId) {f : Nat} (v : Int) (h : f < 6 ∨ 22 < f) :
    s.writeSection i f v = .refused .badAddress [] := by
  unfold State.writeSection
  split <;> first | rfl | omega

/-! ## A write of Tlim (R6, R72) -/

/-- A write of Tlim changes section i's configuration alone among the sections. -/
theorem State.sec_writeTrimLimit (s : State) (i : SecId) (v : Int) (j : SecId) :
    (s.writeTrimLimit i v).sec j = (s.modCfg i (·.write 10 v)).sec j := by
  unfold State.writeTrimLimit
  dsimp only
  split
  · exact State.sec_modMembers ..
  · rfl

/-- A lowered Tlim saturates the trims of its section's members; a write of Tlim leaves all else of the pool. -/
theorem State.member_writeTrimLimit (s : State) (i : SecId) {v : Int} (hv : 0 ≤ v) (r : RecId) :
    (s.writeTrimLimit i v).member r =
      if r ∈ s.members i ∧ v < (s.sec i).cfg.trimLimit then { s.member r with trim := saturate v (s.member r).trim }
      else s.member r := by
  have hidem (x : PoolRecord) : { x with trim := saturate v (saturate v x.trim) } = { x with trim := saturate v x.trim } := by
    obtain ⟨h1, h2⟩ := saturate_inRange x.trim hv
    have : saturate v (saturate v x.trim) = saturate v x.trim := by
      rw [saturate, clampTo, if_neg (by omega), if_neg (by omega)]
    rw [this]
  have hmembers (g : SectionConfig → SectionConfig) : (s.modCfg i g).members i = s.members i := by
    unfold State.members State.modCfg; rw [State.sec_modSec_self]
  unfold State.writeTrimLimit
  dsimp only
  by_cases hlow : v < (s.sec i).cfg.trimLimit
  · rw [if_pos hlow, State.member_modMembers_idem _ _ _ hidem, hmembers]
    by_cases hr : r ∈ s.members i
    · rw [if_pos hr, if_pos ⟨hr, hlow⟩]; rfl
    · rw [if_neg hr, if_neg fun h => hr h.1]; rfl
  · rw [if_neg hlow, if_neg fun h => hlow h.2]; rfl

/-- A write of Tlim changes sections and pool alone. -/
theorem State.frame_writeTrimLimit (s : State) (i : SecId) (v : Int) :
    s.writeTrimLimit i v = { s with sections := (s.writeTrimLimit i v).sections, pool := (s.writeTrimLimit i v).pool } := by
  unfold State.writeTrimLimit
  dsimp only
  split
  · unfold State.modMembers
    rw [State.modRecs_frame]
    rfl
  · rfl

/-- A write of Tlim reads back. -/
theorem State.readsBack_writeTrimLimit (s : State) (i : SecId) {v : Int} (hv : 0 ≤ v) : s.ReadsBack (s.writeTrimLimit i v) i 10 v := by
  have hnode (r : RecId) : ((s.writeTrimLimit i v).member r).node = ((s.modCfg i (·.write 10 v)).member r).node := by
    rw [State.member_writeTrimLimit s i hv]
    split <;> rfl
  have hread (k : Nat) : (s.writeTrimLimit i v).readField 1 i.val k = (s.modCfg i (·.write 10 v)).readField 1 i.val k := by
    rw [State.readField_section, State.readField_section]
    exact State.readSection_congr (s.sec_writeTrimLimit i v i) hnode k
  obtain ⟨hself, hother⟩ := s.readsBack_modCfg i (f := 10) (v := v) (by decide) (by decide) (fun _ => hv) (nofun)
  exact ⟨(hread 10).trans hself, fun k hk => (hread k).trans (hother k hk)⟩

/-! ## The profile range (R5, R28) -/

/-- A range holds no segment of kind NONE. -/
theorem State.firstNone_eq_none (s : State) (n start : Nat) :
    s.firstNone start n = none ↔ ∀ k, start ≤ k → k < start + n → (s.segment k).kind ≠ .none := by
  induction n generalizing start with
  | zero => exact ⟨fun _ k h1 h2 => by omega, fun _ => rfl⟩
  | succ n ih =>
    unfold State.firstNone
    split
    · rename_i hkind
      exact ⟨fun h => absurd h (by simp), fun h => absurd hkind (h start (by omega) (by omega))⟩
    · rename_i hkind
      rw [ih]
      refine ⟨fun h k h1 h2 => ?_, fun h k h1 h2 => h k (by omega) (by omega)⟩
      obtain rfl | hk : k = start ∨ start < k := by omega
      · exact hkind
      · exact h k hk (by omega)

/-- A valid range ends within the table and holds no segment of kind NONE. -/
theorem State.profileFault_eq_none (s : State) (start length : Nat) : s.profileFault start length = none ↔
    start + length ≤ 128 ∧ ∀ k, start ≤ k → k < start + length → (s.segment k).kind ≠ .none := by
  unfold State.profileFault
  split
  · exact ⟨fun h => absurd h (by simp), fun ⟨h, _⟩ => by omega⟩
  · rw [Option.map_eq_none_iff, State.firstNone_eq_none]
    exact ⟨fun h => ⟨by omega, h⟩, fun ⟨_, h⟩ => h⟩

/-- The range of length segments from start is valid. -/
def State.ValidRange (s : State) (start length : Nat) : Prop :=
  start + length ≤ 128 ∧ ∀ k, start ≤ k → k < start + length → (s.segment k).kind ≠ .none

/-- SELECT's range checks find the invalid ranges. -/
theorem State.isSome_profileFault (s : State) (start length : Nat) :
    (s.profileFault start length).isSome ↔ ¬ s.ValidRange start length := by
  rw [← Option.ne_none_iff_isSome, Ne, State.profileFault_eq_none, State.ValidRange]

/-- A write of v to profile start or length, from which the range from start results: refused outside BYPASS and SELECTED, outside its
range and, in SELECTED, where the resulting range is not valid; else it reads back. -/
def State.ProfileWrite (s : State) (i : SecId) (v : Int) (f : Nat) (hi : Int) (start length : Nat) : Prop :=
    ((s.sec i).state ≠ .bypass → (s.sec i).state ≠ .selected → s.writeField 1 i.val f v = .refused .sectionActive []) ∧
    ((s.sec i).state = .bypass ∨ (s.sec i).state = .selected → v < 0 ∨ hi < v → s.writeField 1 i.val f v = .refused .badValue []) ∧
    ((s.sec i).state = .selected → ¬ s.ValidRange start length → s.writeField 1 i.val f v = .refused .badValue []) ∧
    ((s.sec i).state = .bypass ∨ ((s.sec i).state = .selected ∧ s.ValidRange start length) → 0 ≤ v → v ≤ hi →
      ∃ t, s.writeField 1 i.val f v = .written t ∧ s.ReadsBack t i f v)

/-- A write of the model's profile rule whose store reads back is a profile write. -/
theorem State.profileWrite_reads {s : State} {i : SecId} {f : Nat} {hi v : Int} (change : Nat → SectionConfig → SectionConfig)
    (hw : s.writeSection i f v = s.profileWrite i 0 hi v change)
    (hstore : 0 ≤ v → s.ReadsBack (s.modCfg i (change v.toNat)) i f v) :
    s.ProfileWrite i v f hi (change v.toNat (s.sec i).cfg).profileStart (change v.toNat (s.sec i).cfg).profileLength := by
  unfold State.ProfileWrite
  rw [State.writeField_section, hw]
  unfold State.profileWrite
  dsimp only
  refine ⟨fun h1 h2 => State.structural_refused _ h1 h2, fun h hv => ?_, fun h hvalid => ?_, fun h h1 h2 => ⟨_, ?_, hstore h1⟩⟩
  · rw [State.structural_taken _ h, if_pos hv]
  · rw [State.structural_taken _ (.inr h), if_pos (c := _ ∧ _) ⟨h, (State.isSome_profileFault ..).2 hvalid⟩, ite_self]
  · have hstate : (s.sec i).state = .bypass ∨ (s.sec i).state = .selected := h.imp_right And.left
    rw [State.structural_taken _ hstate, if_neg (by omega), if_neg]
    rintro ⟨hsel, hfault⟩
    obtain hb | ⟨_, hvalid⟩ := h
    · rw [hb] at hsel; exact absurd hsel (by decide)
    · exact (State.isSome_profileFault ..).1 hfault hvalid

/-! ## The Drive Map (R18) -/

/-- A Drive Map write by node. -/
theorem State.writeField_drive (s : State) (n : NodeId) (f : Nat) (v : Int) : s.writeField 3 n.val f v = s.writeDrive n f v := by
  show s.writeDrive (Fin.ofNat 62 n.val) f v = _; rw [Fin.ofNat_val_eq_self]

/-- The station's own entry, and the fields but direction, gain and offset, take no write. -/
theorem State.writeDrive_other {s : State} {n : NodeId} {f : Nat} (v : Int) (h : n = s.station ∨ f < 1 ∨ 3 < f) :
    s.writeDrive n f v = .refused .badAddress [] := by
  unfold State.writeDrive
  by_cases hn : n = s.station
  · rw [if_pos hn]
  · rw [if_neg hn, if_pos (h.resolve_left hn)]

/-- The entry of a node in a section outside BYPASS and SELECTED takes no write. -/
theorem State.writeDrive_locked {s : State} {n : NodeId} {f : Nat} {i : SecId} (v : Int) (hn : n ≠ s.station) (h1 : 1 ≤ f) (h3 : f ≤ 3)
    (hin : (s.drive n).inSection = some i) (hstate : (s.sec i).state.configurable = false) :
    s.writeDrive n f v = .refused .sectionActive [] := by
  unfold State.writeDrive
  rw [if_neg hn, if_neg (by omega), hin, if_pos (by simp [hstate])]

/-- The writes to an entry that no section locks. -/
theorem State.writeDrive_open {s : State} {n : NodeId} (v : Int) (hn : n ≠ s.station)
    (hopen : ∀ i, (s.drive n).inSection = some i → (s.sec i).state.configurable = true) :
    s.writeDrive n 1 v = codeWrite (Direction.ofCode v) (fun d => s.modDrive n fun e => { e with direction := d }) ∧
    s.writeDrive n 2 v = rangeWrite 12288 20480 v (fun x => s.modDrive n fun e => { e with gain := x }) ∧
    s.writeDrive n 3 v = rangeWrite (-100000) 100000 v (fun x => s.modDrive n fun e => { e with offset := x }) := by
  unfold State.writeDrive
  cases hin : (s.drive n).inSection with
  | none => simp [hn]
  | some i => simp [hn, hopen i hin]

/-- t reads v in field f of node n's entry, and in its other fields what s reads. -/
def State.DriveReadsBack (s t : State) (n : NodeId) (f : Nat) (v : Int) : Prop :=
  t.readField 3 n.val f = v ∧ ∀ g, g ≠ f → t.readField 3 n.val g = s.readField 3 n.val g

/-- A change of an entry reads back where the entry does. -/
theorem State.driveReadsBack_modDrive {s : State} {n : NodeId} {f : Nat} {v : Int} {e : DriveEntry → DriveEntry}
    (hself : (e (s.drive n)).read n f = v) (hother : ∀ g, g ≠ f → (e (s.drive n)).read n g = (s.drive n).read n g) :
    s.DriveReadsBack (s.modDrive n e) n f v := by
  have hread (g : Nat) : (s.modDrive n e).readField 3 n.val g = (e (s.drive n)).read n g := by
    rw [State.readField_drive, State.drive_modDrive, if_pos rfl]
  exact ⟨(hread f).trans hself, fun g hg => (hread g).trans ((hother g hg).trans (s.readField_drive n g).symm)⟩

/-- A direction reads back, and nothing else of the entry reads it. -/
theorem State.driveReadsBack_direction (s : State) (n : NodeId) (d : Direction) :
    s.DriveReadsBack (s.modDrive n fun e => { e with direction := d }) n 1 d.sign :=
  State.driveReadsBack_modDrive rfl fun g hg => by
    unfold DriveEntry.read
    split <;> first | rfl | exact absurd rfl hg

/-- A gain reads back, and nothing else of the entry reads it. -/
theorem State.driveReadsBack_gain (s : State) (n : NodeId) (x : Int) :
    s.DriveReadsBack (s.modDrive n fun e => { e with gain := x }) n 2 x :=
  State.driveReadsBack_modDrive rfl fun g hg => by
    unfold DriveEntry.read
    split <;> first | rfl | exact absurd rfl hg

/-- An offset reads back, and nothing else of the entry reads it. -/
theorem State.driveReadsBack_offset (s : State) (n : NodeId) (x : Int) :
    s.DriveReadsBack (s.modDrive n fun e => { e with offset := x }) n 3 x :=
  State.driveReadsBack_modDrive rfl fun g hg => by
    unfold DriveEntry.read
    split <;> first | rfl | exact absurd rfl hg

/-- A write of a direction, gain or offset that no section locks: an accepted value reads back, another is refused. -/
theorem State.writeField_drive_open {s : State} {n : NodeId} {f : Nat} (v : Int) (hn : n ≠ s.station) (h1 : 1 ≤ f) (h3 : f ≤ 3)
    (hopen : ∀ i, (s.drive n).inSection = some i → (s.sec i).state.configurable = true) :
    if (f = 1 ∧ (v = 1 ∨ v = -1)) ∨ (f = 2 ∧ 12288 ≤ v ∧ v ≤ 20480) ∨ (f = 3 ∧ -100000 ≤ v ∧ v ≤ 100000) then
      ∃ t, s.writeField 3 n.val f v = .written t ∧ s.DriveReadsBack t n f v
    else s.writeField 3 n.val f v = .refused .badValue [] := by
  obtain ⟨hdirection, hgain, hoffset⟩ := State.writeDrive_open v hn hopen
  rw [State.writeField_drive]
  obtain rfl | rfl | rfl : f = 1 ∨ f = 2 ∨ f = 3 := by omega
  · rw [hdirection]
    split
    · obtain rfl | rfl : v = 1 ∨ v = -1 := by omega
      · exact ⟨_, rfl, s.driveReadsBack_direction n .plus⟩
      · exact ⟨_, rfl, s.driveReadsBack_direction n .minus⟩
    · have hnone : Direction.ofCode v = none := by unfold Direction.ofCode; rw [if_neg (by omega), if_neg (by omega)]
      rw [hnone]; rfl
  · rw [hgain]
    split
    · exact ⟨_, rangeWrite_in _ (by omega) (by omega), s.driveReadsBack_gain n v⟩
    · exact rangeWrite_out _ (by omega)
  · rw [hoffset]
    split
    · exact ⟨_, rangeWrite_in _ (by omega) (by omega), s.driveReadsBack_offset n v⟩
    · exact rangeWrite_out _ (by omega)

/-! ## The Member Pool (R10, R11) -/

/-- A Member Pool write by record. -/
theorem State.writeField_member (s : State) (r : RecId) (f : Nat) (v : Int) : s.writeField 2 r.val f v = s.writePool r f v := by
  show s.writePool (Fin.ofNat 48 r.val) f v = _; rw [Fin.ofNat_val_eq_self]

/-- The Member Pool's fields but the weight take no write. -/
theorem State.writePool_other (s : State) (r : RecId) {f : Nat} (v : Int) (h : f ≠ 4) : s.writePool r f v = .refused .badAddress [] := by
  unfold State.writePool
  split
  · exact absurd rfl h
  · rfl

/-! ## Configuration writes -/

/-- The live fields of the Section Table but Tlim, and Tlim. -/
theorem State.liveWrite_rows (s : State) (i : SecId) (v : Int) :
    s.LiveWrite i v 6 (-50000) 50000 ∧ s.LiveWrite i v 7 0 100000 ∧ s.LiveWrite i v 9 0 255 ∧ s.LiveWrite i v 10 0 20000 ∧
      s.LiveWrite i v 16 10 10000 ∧ s.LiveWrite i v 17 1 15 := by
  have hstore {f : Nat} {x : Int} (h1 : 6 ≤ f) (h2 : f ≤ 22) (hf : f ≠ 14) (hx : 0 ≤ x) :
      s.ReadsBack (s.modCfg i (·.write f x)) i f x := s.readsBack_modCfg i h1 h2 (fun _ => hx) fun h => absurd h hf
  refine ⟨?_, ?_, ?_, ?_, ?_, ?_⟩
  · exact State.liveWrite rfl (by decide) fun _ _ => s.readsBack_modCfg i (f := 6) (by decide) (by decide) nofun nofun
  · exact State.liveWrite rfl (by decide) fun _ hx => hstore (f := 7) (by decide) (by decide) (by decide) hx
  · exact State.liveWrite rfl (by decide) fun _ hx => hstore (f := 9) (by decide) (by decide) (by decide) hx
  · exact State.liveWrite rfl (by decide) fun _ hx => s.readsBack_writeTrimLimit i hx
  · exact State.liveWrite rfl (by decide) fun _ hx => hstore (f := 16) (by decide) (by decide) (by decide) (by omega)
  · exact State.liveWrite rfl (by decide) fun _ hx => hstore (f := 17) (by decide) (by decide) (by decide) (by omega)

/-- The structural fields of the Section Table but profile start and length. -/
theorem State.structuralWrite_rows (s : State) (i : SecId) (v : Int) :
    s.StructuralWrite i v 8 10000 2000000 ∧ s.StructuralWrite i v 13 0 255 ∧ s.StructuralWrite i v 14 0 2 ∧
      s.StructuralWrite i v 15 0 1000 ∧ s.StructuralWrite i v 18 0 300000 ∧ s.StructuralWrite i v 19 0 300000 ∧
      s.StructuralWrite i v 20 0 300000 ∧ s.StructuralWrite i v 21 1 1000 ∧ s.StructuralWrite i v 22 2 8 := by
  have hstore {f : Nat} (h1 : 6 ≤ f) (h2 : f ≤ 22) (hf : f ≠ 14) (hv : 0 ≤ v) :
      s.ReadsBack (s.modCfg i (·.write f v)) i f v := s.readsBack_modCfg i h1 h2 (fun _ => hv) fun h => absurd h hf
  refine ⟨?_, ?_, ?_, ?_, ?_, ?_, ?_, ?_, ?_⟩
  · exact State.structuralWrite rfl fun hv _ => hstore (f := 8) (by decide) (by decide) (by decide) (by omega)
  · exact State.structuralWrite rfl fun hv _ => hstore (f := 13) (by decide) (by decide) (by decide) hv
  · exact State.structuralWrite (congrArg (s.structural i) (codeWrite_endAction v _)) fun hv h2 =>
      s.readsBack_modCfg i (f := 14) (by decide) (by decide) (fun _ => hv) fun _ => h2
  · exact State.structuralWrite rfl fun hv _ => hstore (f := 15) (by decide) (by decide) (by decide) hv
  · exact State.structuralWrite rfl fun hv _ => hstore (f := 18) (by decide) (by decide) (by decide) hv
  · exact State.structuralWrite rfl fun hv _ => hstore (f := 19) (by decide) (by decide) (by decide) hv
  · exact State.structuralWrite rfl fun hv _ => hstore (f := 20) (by decide) (by decide) (by decide) hv
  · exact State.structuralWrite rfl fun hv _ => hstore (f := 21) (by decide) (by decide) (by decide) (by omega)
  · exact State.structuralWrite rfl fun hv _ => hstore (f := 22) (by decide) (by decide) (by decide) (by omega)

/-- Profile start and length. -/
theorem State.profileWrite_rows (s : State) (i : SecId) (v : Int) :
    s.ProfileWrite i v 11 127 v.toNat (s.sec i).cfg.profileLength ∧ s.ProfileWrite i v 12 32 (s.sec i).cfg.profileStart v.toNat :=
  ⟨State.profileWrite_reads (fun x c => { c with profileStart := x }) rfl
      fun hv => s.readsBack_modCfg i (f := 11) (by decide) (by decide) (fun _ => hv) nofun,
    State.profileWrite_reads (fun x c => { c with profileLength := x }) rfl
      fun hv => s.readsBack_modCfg i (f := 12) (by decide) (by decide) (fun _ => hv) nofun⟩

/-- Settles O34: each row of the Section Table is a live, structural or profile write of `SectionConfig.write`, which reads back; a Drive
Map write goes by the checks of R18 in their order. -/
theorem configurationWritesReadBack : Obligations.ConfigurationWritesReadBack := by
  unfold Obligations.ConfigurationWritesReadBack
  refine ⟨fun s i v => ⟨?live, ?structural, ?profile, fun f hf => ?other, ?limit⟩,
    fun s v => ?timeout, fun s n f v => ⟨fun h => ?_, fun hn h1 h3 => ⟨fun i hin hb hsel => ?_, fun hopen => ?_⟩⟩,
    fun s r f v => ⟨fun h => ?_, fun hfree => ?_, fun huse => ?_⟩⟩
  case live =>
    obtain ⟨h6, h7, h9, h10, h16, h17⟩ := s.liveWrite_rows i v
    intro row hrow
    fin_cases hrow
    exacts [h6, h7, h9, h10, h16, h17]
  case structural =>
    obtain ⟨h8, h13, h14, h15, h18, h19, h20, h21, h22⟩ := s.structuralWrite_rows i v
    intro row hrow
    fin_cases hrow
    exacts [h8, h13, h14, h15, h18, h19, h20, h21, h22]
  case profile =>
    obtain ⟨h11, h12⟩ := s.profileWrite_rows i v
    intro row hrow
    fin_cases hrow
    exacts [h11, h12]
  case other => exact (s.writeField_section i f v).trans (s.writeSection_other i v hf)
  case limit =>
    have hlimit : 0 ≤ clampTo 0 20000 v := (clampTo_inRange v (by decide)).1
    refine ⟨_, (s.writeField_section i 10 v).trans (clampWrite_eq ..), fun r hr => ?_, fun r hr => ?_, ?_, fun j hj => ?_,
      s.frame_writeTrimLimit i _⟩
    · rw [State.member_writeTrimLimit s i hlimit]
      by_cases hlow : clampTo 0 20000 v < (s.sec i).cfg.trimLimit
      · rw [if_pos ⟨hr, hlow⟩, if_pos hlow]; rfl
      · rw [if_neg fun h => hlow h.2, if_neg hlow]
    · rw [State.member_writeTrimLimit s i hlimit, if_neg fun h => hr h.1]
    · rw [State.sec_writeTrimLimit, State.modCfg, State.sec_modSec_self]; rfl
    · rw [State.sec_writeTrimLimit, State.modCfg, State.sec_modSec_ne _ hj]
  case timeout => exact clampWrite_stores 5 1000 v fun x => { s with timeout := x.toNat }
  · exact (s.writeField_drive n f v).trans (State.writeDrive_other v h)
  · refine (s.writeField_drive n f v).trans (State.writeDrive_locked v hn h1 h3 hin ?_)
    rw [← Bool.not_eq_true, SectionState.configurable_iff, not_or]
    exact ⟨hb, hsel⟩
  · exact State.writeField_drive_open v hn h1 h3 fun i hin => (SectionState.configurable_iff _).2 (hopen i hin)
  · exact (s.writeField_member r f v).trans (s.writePool_other r v h)
  · rw [State.writeField_member]
    unfold State.writePool
    rw [hfree]; rfl
  · rw [State.writeField_member]
    unfold State.writePool
    rw [if_pos huse]
    refine ⟨_, clampWrite_eq .., ?_⟩
    rw [State.member_modRec, if_pos rfl]

end Sys2Proof.Machine
end

section
/-! SUPPORT. What the block does of itself, told by its turns: work that leaves states, configuration, lists, trims, held offsets and clamp
flags, and the transitions of chapter 2 that no command asks for, each with the state it is made in. -/

namespace Sys2Proof.Machine

/-! ## Turns -/

/-- Section y has the state, configuration and member list of x. -/
structure Section.Alike (x y : Section) : Prop where
  state : y.state = x.state
  cfg : y.cfg = x.cfg
  members : y.members = x.members

/-- Record y is in use as x is and has its trim, held offset and clamp flag. -/
structure PoolRecord.Alike (x y : PoolRecord) : Prop where
  inUse : y.inUse = x.inUse
  trim : y.trim = x.trim
  held : y.held = x.held
  clamp : y.clamp = x.clamp

/-- t is s after work that moves no section and touches no trim, held offset or clamp flag. -/
structure Plain (s t : State) : Prop where
  permit : t.permit = s.permit
  sec : ∀ i, (s.sec i).Alike (t.sec i)
  member : ∀ r, (s.member r).Alike (t.member r)
  holder : t.engine.holder = s.engine.holder

/-- One turn of the block's own work: plain work, one issued reference, the trims of a TRIAL section, the offsets of a RELEASING one, or a
transition that chapter 2 makes without a command, in a state that it is made in. -/
inductive Turn : State → State → Prop where
  | plain {s t : State} (h : Plain s t) : Turn s t
  | issue {s : State} {i : SecId} (c : Candidate) (hs : (s.sec i).state.rewriting = true) (hc : c.record ∈ s.members i) :
      Turn s (s.issue i c)
  | trims {s : State} {i : SecId} (hs : (s.sec i).state = .trial) : Turn s (s.updateTrims i)
  | decay {s : State} {i : SecId} (hs : (s.sec i).state = .releasing) : Turn s (s.decayOffsets i)
  | passing {s : State} {i : SecId} {st : SectionState} (cause : Cause) (node : Option NodeId) (pos : Option Pos)
      (hs : (s.sec i).state.monitored = true) (hst : st.rewriting = false) : Turn s (s.enterPassing i st cause node pos)
  | frozen {s : State} {i : SecId} (cause : Cause) (src : Option Nat) (node : Option NodeId) (pos : Option Pos)
      (hs : (s.sec i).state = .trial) : Turn s (s.enterFrozen i cause src node pos)
  | releasing {s : State} {i : SecId} (target : ReleaseTarget) (cause : Cause) (result : CalResult) (node : Option NodeId)
      (pos : Option Pos) (hs : (s.sec i).state.rewriting = true ∨ s.engine.holder = some i) :
      Turn s (s.enterReleasing i target cause result node pos)

/-- Some turns, one after the other. -/
abbrev Turns : State → State → Prop := Relation.ReflTransGen Turn

/-- A rewriting state is one whose section can fault. -/
theorem SectionState.monitored_of_rewriting {st : SectionState} (h : st.rewriting = true) : st.monitored = true := by
  cases st <;> first | rfl | cases h

theorem Section.Alike.refl (x : Section) : x.Alike x := ⟨rfl, rfl, rfl⟩

theorem PoolRecord.Alike.refl (x : PoolRecord) : x.Alike x := ⟨rfl, rfl, rfl, rfl⟩

namespace Plain

/-- Work that leaves sections, pool, permit line and engine is plain. -/
theorem of_eq {s t : State} (h1 : t.permit = s.permit) (h2 : t.sections = s.sections) (h3 : t.pool = s.pool)
    (h4 : t.engine.holder = s.engine.holder) : Plain s t where
  permit := h1
  sec i := State.sec_of_eq h2 i ▸ .refl _
  member r := State.member_of_eq h3 r ▸ .refl _
  holder := h4

end Plain

/-! ## Turns over lists and branches -/

namespace Turns

/-- One turn. -/
theorem of {s t : State} (h : Turn s t) : Turns s t := .single h

/-- Work that leaves sections, pool, permit line and engine. -/
theorem quiet {s t : State} (h1 : t.permit = s.permit) (h2 : t.sections = s.sections) (h3 : t.pool = s.pool)
    (h4 : t.engine.holder = s.engine.holder) : Turns s t := of (.plain (.of_eq h1 h2 h3 h4))

/-- A branch. -/
theorem ite {c : Prop} [Decidable c] {s a b : State} (ha : c → Turns s a) (hb : ¬ c → Turns s b) :
    Turns s (if c then a else b) := by
  split
  · exact ha ‹_›
  · exact hb ‹_›

/-- Turns taken or not. -/
theorem whenTrue {c : Prop} [Decidable c] {s a : State} (ha : c → Turns s a) : Turns s (if c then a else s) :=
  ite ha fun _ => .refl

/-- Turns over a list that carries more than a state. -/
theorem foldlOn {α β : Type} (state : β → State) (f : β → α → β) (hf : ∀ b a, Turns (state b) (state (f b a))) :
    ∀ (l : List α) (b : β), Turns (state b) (state (l.foldl f b))
  | [], _ => .refl
  | a :: l, b => (hf b a).trans (foldlOn state f hf l _)

/-- Turns over a list. -/
theorem foldl {α : Type} (f : State → α → State) (hf : ∀ s a, Turns s (f s a)) (l : List α) (s : State) : Turns s (l.foldl f s) :=
  foldlOn id f hf l s

/-- Turns over the sections. -/
theorem forSections (f : State → SecId → State) (hf : ∀ s i, Turns s (f s i)) (s : State) : Turns s (s.forSections f) :=
  foldl f hf _ _

/-! ## Plain work -/

/-- A change of a section's record that leaves state, configuration and list. -/
theorem modSec (s : State) (i : SecId) (f : Section → Section) (hf : ∀ x : Section, x.Alike (f x) := by intro; exact ⟨rfl, rfl, rfl⟩) :
    Turns s (s.modSec i f) := by
  refine of (.plain ⟨rfl, fun j => ?_, fun r => .refl _, rfl⟩)
  rw [State.sec_modSec]
  split
  · subst j; exact hf _
  · exact .refl _

/-- A change of a record that leaves trim, held offset and clamp flag. -/
theorem modRec (s : State) (r : RecId) (f : PoolRecord → PoolRecord)
    (hf : ∀ x : PoolRecord, x.Alike (f x) := by intro; exact ⟨rfl, rfl, rfl, rfl⟩) : Turns s (s.modRec r f) := by
  refine of (.plain ⟨rfl, fun j => .refl _, fun q => ?_, rfl⟩)
  rw [State.member_modRec]
  split
  · subst q; exact hf _
  · exact .refl _

theorem modDrive (s : State) (n : NodeId) (f : DriveEntry → DriveEntry) : Turns s (s.modDrive n f) := quiet rfl rfl rfl rfl

theorem modWatch (s : State) (w : WatchId) (f : WatchPoint → WatchPoint) : Turns s (s.modWatch w f) := quiet rfl rfl rfl rfl

theorem modCapture (s : State) (f : CaptureControl → CaptureControl) : Turns s (s.modCapture f) := quiet rfl rfl rfl rfl

/-- The engine's record keeps its holder. -/
theorem modEngine (s : State) (f : Engine → Engine) (hf : ∀ e, (f e).holder = e.holder := by intro; rfl) : Turns s (s.modEngine f) :=
  quiet rfl rfl rfl (hf _)

theorem modMonitor (s : State) (i : SecId) (f : Monitor → Monitor) : Turns s (s.modMonitor i f) := modSec s i _

theorem modProfile (s : State) (i : SecId) (f : ProfilePosition → ProfilePosition) : Turns s (s.modProfile i f) := modSec s i _

theorem post (s : State) (k : EventKind) (a : Option SecId) (n : Option NodeId) (p : Option Pos) (c : Word16) (v : Option Int)
    (d : Nat) : Turns s (s.post k a n p c v d) := by
  rw [State.post_frame]; exact quiet rfl rfl rfl rfl

theorem signal (s : State) (k : TriggerKind) (x : Nat) : Turns s (s.signal k x) := by
  rw [State.signal_frame]; exact quiet rfl rfl rfl rfl

theorem postReply (s : State) (tag : Byte) (c : ResultCode) (w : Bool) (d : List Int) : Turns s (s.postReply tag c w d) :=
  quiet rfl rfl rfl rfl

/-! ## Requests and conditions (R41 to R46) -/

theorem requestFreeze (s : State) (i : SecId) (cause : Cause) (src : Option Nat) (node : Option NodeId) (pos : Option Pos) :
    Turns s (s.requestFreeze i cause src node pos) := whenTrue fun h => of (.frozen _ _ _ _ h)

/-- An entry to RELEASING from TRIAL or FROZEN. -/
theorem releaseRun {s : State} {i : SecId} (h : (s.sec i).state = .trial ∨ (s.sec i).state = .frozen) (target : ReleaseTarget)
    (cause : Cause) (result : CalResult) (node : Option NodeId) (pos : Option Pos) :
    Turns s (s.enterReleasing i target cause result node pos) :=
  of (.releasing _ _ _ _ _ (.inl (by rcases h with h | h <;> rw [h] <;> rfl)))

theorem requestRelease (s : State) (i : SecId) (cause : Cause) (node : Option NodeId) (pos : Option Pos) :
    Turns s (s.requestRelease i cause node pos) := whenTrue fun h => releaseRun h ..

/-- A rewriting section enters BYPASS, SELECTED or FAULTED. -/
theorem leaveRewriting {s : State} {i : SecId} {st : SectionState} (h : (s.sec i).state.rewriting = true) (hst : st.rewriting = false)
    (cause : Cause) (node : Option NodeId) (pos : Option Pos) : Turns s (s.enterPassing i st cause node pos) :=
  of (.passing _ _ _ (SectionState.monitored_of_rewriting h) hst)

theorem requestAbort (s : State) (i : SecId) : Turns s (s.requestAbort i) := whenTrue fun h => leaveRewriting h rfl ..

theorem faultCondition (s : State) (i : SecId) (cause : Cause) (node : Option NodeId) (pos : Option Pos) :
    Turns s (s.faultCondition i cause node pos) := whenTrue fun h => of (.passing _ _ _ h rfl)

theorem takeLate (s : State) : ∀ r : LateRequest, Turns s (s.takeLate r)
  | .freeze .. => requestFreeze ..
  | .release .. => requestRelease ..

theorem requestAction (s : State) (i : SecId) (a : LimitAction) (cause : Cause) (src : Option Nat) (node : Option NodeId)
    (pos : Option Pos) : Turns s (s.requestAction i a cause src node pos) := by
  cases a
  case event => exact .refl
  case freeze => exact requestFreeze ..
  case release => exact requestRelease ..
  case abort => exact requestAbort ..

/-! ## The units' work on a set (R82) -/

theorem balance (s : State) (i : SecId) (complete : Bool) : Turns s (s.balance i complete) := by
  have hstore : Turns s (s.storeImbalances i) := foldl _ (fun t r => modRec t r _) _ _
  refine ite (fun h => hstore.trans (of (.trims ?_))) fun _ => hstore
  simp only [Section.balances, Bool.and_eq_true, decide_eq_true_eq] at h
  exact h.1.1.2

theorem evaluateLimit (s : State) (i : SecId) (c : Word16) (k : LimitKind) : Turns s (s.evaluateLimit i c k) := by
  unfold State.evaluateLimit State.postLimit
  split
  · exact .refl
  · dsimp only
    split
    · exact modMonitor ..
    · exact (modMonitor ..).trans (post ..)
    · exact (modMonitor ..).trans ((post ..).trans ((signal ..).trans (requestAction ..)))

theorem zeroCrossStep (s : State) (i : SecId) (c : Word16) : Turns s (s.zeroCrossStep i c) := by
  refine whenTrue fun _ => ?_
  split
  · exact .refl
  · exact ite (fun _ => (modMonitor ..).trans ((modMonitor ..).trans ((post ..).trans (requestAction ..)))) fun _ => modMonitor ..

theorem monitorSet (s : State) (i : SecId) (c : Word16) : Turns s (s.monitorSet i c) :=
  (evaluateLimit ..).trans ((evaluateLimit ..).trans ((evaluateLimit ..).trans (zeroCrossStep ..)))

/-- The COMPUTE step leads the holder's section to RELEASING (R93). -/
theorem finishCal {s : State} {i : SecId} (h : s.engine.holder = some i) : Turns s (s.finishCal i) := by
  unfold State.finishCal
  split
  · refine .trans (quiet (t := s.writeCal _) ?_ ?_ ?_ ?_) (of (.releasing _ _ _ _ _ (.inr ?_))) <;> rw [State.writeCal_frame]
    exact h
  · exact of (.releasing _ _ _ _ _ (.inr h))

theorem engineTakes (s : State) (i : SecId) (complete : Bool) : Turns s (s.engineTakes i complete) := by
  refine whenTrue fun ⟨hi, _⟩ => ?_
  unfold State.sampleSet
  split
  · exact ite (fun _ => (modEngine ..).trans (modEngine ..)) fun _ => modEngine ..
  · exact ite (fun _ => (modEngine ..).trans ((modEngine ..).trans (finishCal hi))) fun _ => modEngine ..
  all_goals exact .refl

theorem engineSkip (s : State) (i : SecId) : Turns s (s.engineSkip i) := by
  refine whenTrue fun ⟨hi, _, _⟩ => ?_
  have hmod : Turns s (s.modEngine fun e => { e with skipCount := e.skipCount + 1 }) := modEngine ..
  exact ite (fun _ => hmod.trans (of (.releasing _ _ _ _ _ (.inr hi)))) fun _ => hmod

theorem engineDispatch (s : State) : Turns s s.engineDispatch := by
  have hsettle (e : Engine) (k : Nat) : (e.settle k).holder = e.holder := by
    unfold Engine.settle; split <;> (try split) <;> rfl
  unfold State.engineDispatch
  split
  · exact .refl
  · rename_i i hi
    exact whenTrue fun _ => ite (fun _ => of (.releasing _ _ _ _ _ (.inr hi))) fun _ => modEngine _ _ fun _ => hsettle _ _

theorem evaluateSet (s : State) (i : SecId) (c : Word16) (complete : Bool) : Turns s (s.evaluateSet i c complete) :=
  (modSec s i _).trans (whenTrue fun _ => (balance ..).trans ((monitorSet ..).trans (engineTakes ..)))

theorem completeSet (s : State) (i : SecId) : Turns s (s.completeSet i) :=
  ite (fun _ => .refl) fun _ => whenTrue fun _ => evaluateSet ..

/-! ## Watch points and feedback (R81, R130) -/

theorem watchHit (s : State) (w : WatchId) (v : Int) (src : OccurrenceSource) : Turns s (s.watchHit w v src) :=
  ite (fun _ => (modWatch ..).trans ((post ..).trans (signal ..))) fun _ => modWatch ..

theorem occurrence (s : State) (w : WatchId) (v : Int) (src : OccurrenceSource) (change : ChangeStop) :
    Turns s (s.occurrence w v src change).1 := by
  have hhit := (watchHit s w v src).trans (modWatch _ w fun p => p.seen v)
  unfold State.occurrence
  dsimp only
  split
  · generalize (if (s.watch w).action.stops = true then s.watchRequest w else none) = q
    cases q with
    | none => exact hhit
    | some r =>
      dsimp only
      split
      · exact hhit
      · exact hhit.trans (takeLate ..)
  · exact modWatch s w fun p => p.seen v

theorem points (a : Watched) (n : NodeId) (src : OccurrenceSource) (values : List (WatchField × Int)) (change : ChangeStop)
    (skip : Option WatchId) : Turns a.state (a.points n src values change skip).state := by
  refine foldlOn Watched.state _ (fun b w => ?_) _ _
  split
  · exact .refl
  · unfold Watched.point
    dsimp only
    split
    · split
      · exact .refl
      · exact occurrence ..
    · exact .refl

theorem lineEntry (a : Watched) (e : Entry) : Turns a.state (a.lineEntry e).state := by
  unfold Watched.lineEntry
  split
  · exact .refl
  · exact points ..

theorem issuedEntry (skips : List (WatchId × Nat)) (a : Watched) (p : Entry × Nat) : Turns a.state (a.issuedEntry skips p).state := by
  unfold Watched.issuedEntry
  split
  · exact .refl
  · exact points ..

theorem takeFeedback (s : State) (n : NodeId) (raw load : Int) (status : BitVec 5) (src : FeedbackSource) :
    Turns s (s.takeFeedback n raw load status src) := by
  unfold State.takeFeedback State.afterFeedback State.feedbackSeen
  refine (modDrive s n (fun d => d.take raw load status s.cycle src)).trans (.trans ?_ (points _ _ _ _ _ _))
  dsimp only
  split
  · exact .refl
  · exact (whenTrue fun _ => faultCondition ..).trans (completeSet ..)

/-! ## The steps of a dispatch (R52) -/

theorem overrideStep (entries : List Entry) (s : State) (i : SecId) : Turns s (s.overrideStep entries i) := by
  refine whenTrue fun h => ?_
  split
  · exact leaveRewriting h rfl ..
  · exact .refl

theorem closeSet (c : Word16) (s : State) (i : SecId) : Turns s (s.closeSet c i) := by
  have hcount (t : State) : Turns t (t.countMissing i) := foldl _ (fun u r => modDrive ..) _ _
  have hlost (t : State) : Turns t (match t.lostMember i with
      | some r => t.faultCondition i .feedbackLost (t.member r).node (t.member r).position
      | none => t) := by
    split
    · exact faultCondition ..
    · exact .refl
  refine ite (fun _ => .refl) fun _ => ?_
  have hwork := (whenTrue (c := (!(s.sec i).evaluated) = true) fun _ => evaluateSet s i c (s.allFresh i)).trans
    ((hcount _).trans (hlost _))
  exact ite (fun _ => hwork.trans (engineSkip ..)) fun _ => hwork

theorem openSets (s : State) : Turns s s.openSets :=
  of (.plain ⟨rfl, fun i => by rw [State.sec_openSets]; exact ⟨rfl, rfl, rfl⟩, fun _ => .refl _, rfl⟩)

theorem closeSets (s : State) : ∀ previous : Option Word16, Turns s (s.closeSets previous)
  | none => quiet rfl rfl rfl rfl
  | some c => (forSections _ (closeSet c) s).trans (openSets _)

theorem lineStep (entries : List Entry) (s : State) (i : SecId) : Turns s (s.lineStep entries i) := by
  unfold State.lineStep
  split
  · exact .refl
  · split
    · exact modSec ..
    · have hmiss := modSec s i fun x => { x with lineMiss := raiseCount x.lineMiss }
      exact ite (fun _ => hmiss.trans (faultCondition ..)) fun _ => hmiss

theorem advanceProfile (s : State) (i : SecId) : Turns s (s.advanceProfile i).state := by
  have hnext (t : State) (idx pass : Nat) (p : Int) : Turns t (t.nextSegment i idx pass p).state := by
    unfold State.nextSegment; dsimp only; exact modProfile ..
  have hend (t : State) (p : Int) : Turns t (t.endProfile i p).state := by
    unfold State.endProfile
    dsimp only
    split
    · exact (modProfile ..).trans (post ..)
    · exact (post ..).trans (hnext ..)
    · exact (modProfile ..).trans (post ..)
  have hsegment (t : State) : Turns t (t.endSegment i).state := by
    have hboundary : Turns t (t.signalBoundary i) := (modMonitor ..).trans (signal ..)
    unfold State.endSegment
    dsimp only
    split
    · exact hboundary.trans (hnext ..)
    · split
      · exact hboundary.trans (hnext ..)
      · exact hboundary.trans (hend ..)
  unfold State.advanceProfile State.gatedAdvance State.gateClosed
  dsimp only
  split
  · exact .refl
  · split
    · split
      · dsimp only
        exact (modProfile ..).trans (modProfile ..)
      · exact (modProfile ..).trans (hsegment _)
    · dsimp only
      exact modProfile ..

/-! ## References and the dispatch (chapter 3) -/

/-- The issues of one rewriting section to members of it. -/
theorem issueAll (i : SecId) : ∀ (cs : List Candidate) (s : State), (s.sec i).state.rewriting = true →
    (∀ c ∈ cs, c.record ∈ s.members i) → Turns s (s.issueAll i cs)
  | [], _, _, _ => .refl
  | c :: cs, s, hs, hc => by
    have hsec : (s.issue i c).sec i = s.sec i := by rw [State.issue_frame]; rfl
    refine (of (.issue c hs (hc c List.mem_cons_self))).trans (issueAll i cs (s.issue i c) ?_ fun d hd => ?_)
    · rw [hsec]; exact hs
    · unfold State.members; rw [hsec]; exact hc d (List.mem_cons_of_mem _ hd)

/-- The issues of a section's own candidates. -/
theorem issueMembers {s t : State} {i : SecId} (f : RecId → Candidate) (hs : (s.sec i).state.rewriting = true)
    (hf : ∀ r, (f r).record = r := by intro; rfl) (hm : t = s := by rfl) : Turns t (s.issueAll i ((s.members i).map f)) := by
  subst hm
  refine issueAll i _ _ hs fun c hc => ?_
  obtain ⟨r, hr, rfl⟩ := List.mem_map.1 hc
  rw [hf]; exact hr

end Turns

/-- A hit at a point moves no section. -/
theorem State.sec_watchHit (s : State) (w : WatchId) (v : Int) (src : OccurrenceSource) (i : SecId) :
    (s.watchHit w v src).sec i = s.sec i := by
  unfold State.watchHit
  dsimp only
  split
  · rw [State.signal_frame, State.post_frame]; rfl
  · rfl

namespace Turns

/-- The references of a TRIAL section: after a stop it is in FROZEN. -/
theorem formTrial (entries : List Entry) {s : State} {i : SecId} (h : (s.sec i).state = .trial) :
    Turns s (s.formTrial entries i).1 := by
  have hs : (s.sec i).state.rewriting = true := by rw [h]; rfl
  unfold State.formTrial
  dsimp only
  split
  · dsimp only
    exact (issueMembers (s.trialCandidate i) hs).trans (modSec _ i _)
  · rename_i stop _
    refine .trans ((watchHit ..).trans ((modWatch ..).trans (requestFreeze ..))) (issueMembers (s := s.takeIssuedStop i stop) _ ?_)
    unfold State.takeIssuedStop State.requestFreeze
    dsimp only
    rw [if_pos (by rw [State.sec_modWatch, State.sec_watchHit]; exact h), (State.enterFrozen_spec ..).2.1]
    rfl

theorem takeSection (entries : List Entry) (a : Formed) (i : SecId) : Turns a.state (Formed.takeSection entries a i).state := by
  have hbase (t : State) : Turns t (t.setIssueBase i) := modSec t i _
  have hline (t : State) : Turns t (t.recordLine entries i) := by
    refine foldl _ (fun u r => ?_) _ _
    split
    · exact modRec ..
    · exact .refl
  unfold Formed.takeSection
  dsimp only
  split <;> rename_i h
  · exact (formTrial entries h).trans (hbase _)
  · exact (issueMembers _ (by rw [h]; rfl)).trans (hbase _)
  · have hs : ((a.state.decayOffsets i).sec i).state.rewriting = true := by rw [State.decayOffsets, State.sec_modMembers, h]; rfl
    refine .trans (of (.decay h)) ((issueMembers _ hs).trans ((hbase _).trans (whenTrue fun _ => ?_)))
    refine leaveRewriting ?_ ?_ ..
    · unfold State.setIssueBase
      rw [State.sec_modSec_self, State.issueAll_frame]; exact hs
    · generalize Option.getD _ _ = target
      cases target <;> rfl
  · exact (issueMembers _ (by rw [h]; rfl)).trans (hbase _)
  all_goals exact (hline _).trans (hbase _)

theorem takeLates (s : State) (profile watch : List LateRequest) : Turns s (s.takeLates profile watch) := by
  refine .trans ?_ (foldl _ takeLate _ _)
  unfold State.orderLate
  split
  · exact .refl
  · split
    · exact .refl
    · exact quiet rfl rfl rfl rfl

theorem captureDone (s : State) (detail : Nat) : Turns s (s.captureDone detail) := (modCapture ..).trans (post ..)

theorem takeSweep (s : State) (v : FrameView) : Turns s (s.takeSweep v) := by
  have hrecords (rs : List CaptureRecord) (t : State) : Turns t (rs.foldl State.writeRecord t) := by
    rw [State.writeRecords_control]; exact quiet rfl rfl rfl rfl
  have hitem (t : State) : Turns t t.advanceItem := by
    unfold State.advanceItem; split
    · exact .refl
    · exact modCapture ..
  have hend (t : State) : Turns t t.endSweep := by
    unfold State.endSweep; dsimp only; split
    · exact whenTrue fun _ => captureDone ..
    · exact ite (fun _ => (modCapture ..).trans (captureDone ..)) fun _ =>
        ite (fun _ => (modCapture ..).trans (modCapture ..)) fun _ => modCapture ..
    · exact whenTrue fun _ => ite (fun _ => (modCapture ..).trans (captureDone ..)) fun _ => modCapture ..
  exact whenTrue fun _ => (hrecords _ _).trans ((hitem _).trans (hend _))

theorem forwardDown (s : State) (f : Frame) : Turns s (s.forwardDown f) := whenTrue fun _ => quiet rfl rfl rfl rfl

theorem forwardUp (s : State) (f : Frame) : Turns s (s.forwardUp f) := whenTrue fun _ => quiet rfl rfl rfl rfl

theorem lineArrival (s : State) (entries : List Entry) : Turns s (s.lineArrival entries).state := by
  refine .trans (forSections (State.overrideStep entries) (overrideStep entries) s) ?_
  unfold State.lineArrival
  generalize s.forSections (State.overrideStep entries) = t
  exact foldlOn Watched.state Watched.lineEntry lineEntry entries ⟨t, []⟩

theorem cycleWork (s : State) (previous : Option Word16) (entries : List Entry) : Turns s (s.cycleWork previous entries) :=
  (closeSets ..).trans ((forSections _ (lineStep entries) _).trans (engineDispatch _))

theorem advanceProfiles (s : State) : Turns s s.advanceProfiles.state := by
  unfold State.advanceProfiles
  generalize sectionIds = is
  refine foldlOn Advanced.state _ (fun a i => ?_) is ⟨s, []⟩
  exact advanceProfile a.state i

theorem formReferences (s : State) (entries : List Entry) : Turns s (s.formReferences entries).state := by
  unfold State.formReferences
  generalize sectionIds = is
  exact foldlOn Formed.state (Formed.takeSection entries) (takeSection entries) is ⟨s, [], []⟩

theorem issuedEntries (s : State) (skips : List (WatchId × Nat)) (l : List (Entry × Nat)) :
    Turns s (l.foldl (Watched.issuedEntry skips) ⟨s, []⟩).state :=
  foldlOn Watched.state _ (issuedEntry skips) l ⟨s, []⟩

theorem startCycle (s : State) (cycle : Word16) : Turns s (s.startCycle cycle) := quiet rfl rfl rfl rfl

theorem placeStationFrame (s : State) : Turns s s.placeStationFrame := quiet rfl rfl rfl rfl

theorem dispatchWork (s : State) (f : DispatchFrame) : Turns s (s.dispatchWork f) := by
  unfold State.dispatchWork
  dsimp only
  exact (startCycle ..).trans <| (lineArrival ..).trans <| (cycleWork ..).trans <| (advanceProfiles _).trans <| (formReferences ..).trans <| (issuedEntries ..).trans <|
    (takeLates ..).trans <| (forwardDown ..).trans <| (takeSweep ..).trans (placeStationFrame _)

end Turns

end Sys2Proof.Machine
end

section
/-! PROOFS. Work that goes through the sections in turn, each section's piece touching that section, its members' records, the engine and
the events alone: the loss of the permit line (R39) and the expiry of the line timer (R43). -/

namespace Sys2Proof.Machine

/-! ## One section's piece, and the pieces of all -/

/-- What a piece of work does to the section it is taken for: to its record, to its members' records, and whether the section gives up the
engine. -/
structure SectionWork where
  sec : Section → Section
  rec' : Section → PoolRecord → PoolRecord
  frees : Section → Bool

/-- t is s after work of this kind for the sections of a list, none of which another's piece touches. -/
structure SectionWork.Done (w : SectionWork) (is : List SecId) (s t : State) : Prop where
  frame : s.entryFrame t
  sec : ∀ j, t.sec j = if j ∈ is then w.sec (s.sec j) else s.sec j
  member : ∀ q, t.member q = is.foldl (fun x i => if q ∈ s.members i then w.rec' (s.sec i) x else x) (s.member q)
  engine : t.engine = if ∃ i ∈ is, s.engine.holder = some i ∧ w.frees (s.sec i) = true then Engine.free else s.engine

namespace SectionWork

/-- Nothing done for no section. -/
theorem done_nil (w : SectionWork) (s : State) : w.Done [] s s :=
  ⟨rfl, fun _ => by simp, fun _ => rfl, by simp⟩

/-- The piece of one section, then those of others. -/
theorem Done.cons {w : SectionWork} (hm : ∀ x, (w.sec x).members = x.members) {i : SecId} {is : List SecId} {s t u : State}
    (hi : i ∉ is) (h : w.Done [i] s t) (k : w.Done is t u) : w.Done (i :: is) s u := by
  have hne : ∀ j ∈ is, j ∉ [i] := fun j hj hji => hi (List.mem_singleton.1 hji ▸ hj)
  have hsec : ∀ j ∈ is, t.sec j = s.sec j := fun j hj => by rw [h.sec, if_neg (hne j hj)]
  have hmem : ∀ j, t.members j = s.members j := fun j => by
    unfold State.members
    rw [h.sec]
    split
    · exact hm _
    · rfl
  refine ⟨?_, fun j => ?_, fun q => ?_, ?_⟩
  · have hf := h.frame
    have kf := k.frame
    unfold State.entryFrame at *
    rw [kf, hf]
  · rw [k.sec, h.sec]
    by_cases hj : j ∈ is
    · rw [if_pos hj, if_pos (List.mem_cons_of_mem _ hj), if_neg (hne j hj)]
    · rw [if_neg hj]
      simp [hj]
  · rw [k.member, h.member, List.foldl_cons, List.foldl_cons, List.foldl_nil]
    exact List.foldl_ext _ _ _ fun x j hj => by rw [hmem, hsec j hj]
  · have he := h.engine
    by_cases hh : s.engine.holder = some i ∧ w.frees (s.sec i) = true
    · rw [if_pos ⟨i, List.mem_singleton_self i, hh⟩] at he
      rw [k.engine, he]
      exact (ite_self _).trans (if_pos ⟨i, List.mem_cons_self, hh⟩).symm
    · rw [if_neg (by simpa using hh)] at he
      rw [k.engine, he]
      refine if_congr ⟨?_, ?_⟩ rfl rfl
      · rintro ⟨j, hj, hj'⟩
        exact ⟨j, List.mem_cons_of_mem _ hj, hsec j hj ▸ hj'⟩
      · rintro ⟨j, hj, hj'⟩
        rcases List.mem_cons.1 hj with rfl | hj
        · exact absurd hj' hh
        · exact ⟨j, hj, (hsec j hj).symm ▸ hj'⟩

/-- Work that does its piece for each section does it for all in turn. -/
theorem Done.of_foldl {w : SectionWork} (hm : ∀ x, (w.sec x).members = x.members) {f : State → SecId → State}
    (hf : ∀ s i, w.Done [i] s (f s i)) : ∀ (is : List SecId) (s : State), is.Nodup → w.Done is s (is.foldl f s)
  | [], s, _ => w.done_nil s
  | i :: is, s, h =>
    have h := List.nodup_cons.1 h
    (hf s i).cons hm h.1 (of_foldl hm hf is (f s i) h.2)

theorem mem_sectionIds (i : SecId) : i ∈ sectionIds := by revert i; decide

theorem nodup_sectionIds : sectionIds.Nodup := by decide

/-- Work that does its piece for each section, taken for all sixteen. -/
theorem Done.forSections {w : SectionWork} (hm : ∀ x, (w.sec x).members = x.members) {f : State → SecId → State}
    (hf : ∀ s i, w.Done [i] s (f s i)) (s : State) : w.Done sectionIds s (s.forSections f) :=
  of_foldl hm hf _ s nodup_sectionIds

/-- Every section after the work for all. -/
theorem Done.sec_all {w : SectionWork} {s t : State} (h : w.Done sectionIds s t) (i : SecId) : t.sec i = w.sec (s.sec i) := by
  rw [h.sec, if_pos (mem_sectionIds i)]

/-- Pieces that leave a record, one after the other. -/
theorem foldl_kept {α β : Type} {f : β → α → β} {x : β} : ∀ {l : List α}, (∀ a ∈ l, f x a = x) → l.foldl f x = x
  | [], _ => rfl
  | a :: l, h => by
    rw [List.foldl_cons, h a List.mem_cons_self]
    exact foldl_kept fun b hb => h b (List.mem_cons_of_mem _ hb)

/-- Pieces of which each makes one and the same idempotent change or none, and one makes it. -/
theorem foldl_idem {α β : Type} {f : β → α → β} {d : β → β} (hd : ∀ x, d (d x) = d x) {l : List α}
    (h : ∀ a ∈ l, (∀ x, f x a = d x) ∨ ∀ x, f x a = x) (hl : ∃ a ∈ l, ∀ x, f x a = d x) (x : β) : l.foldl f x = d x := by
  induction l generalizing x with
  | nil => obtain ⟨a, ha, _⟩ := hl; cases ha
  | cons b l ih =>
    have hrest := fun a ha => h a (List.mem_cons_of_mem b ha)
    rw [List.foldl_cons]
    by_cases hl' : ∃ a ∈ l, ∀ x, f x a = d x
    · rw [ih hrest hl']
      rcases h b List.mem_cons_self with hb | hb
      · rw [hb, hd]
      · rw [hb]
    · obtain ⟨a, ha, hfa⟩ := hl
      rcases List.mem_cons.1 ha with rfl | ha
      · rw [hfa]
        exact foldl_kept fun c hc => (hrest c hc).elim (fun hc' => absurd ⟨c, hc, hc'⟩ hl') fun hc' => hc' _
      · exact absurd ⟨a, ha, hfa⟩ hl'

/-- Pieces of which one alone acts. -/
theorem foldl_single {α β : Type} {f : β → α → β} {b : α} : ∀ {l : List α}, l.Nodup → b ∈ l → (∀ a ∈ l, a ≠ b → ∀ x, f x a = x) →
    ∀ x, l.foldl f x = f x b
  | a :: l, hn, hb, h, x => by
    obtain ⟨ha, hn⟩ := List.nodup_cons.1 hn
    have hrest := fun c hc => h c (List.mem_cons_of_mem a hc)
    rw [List.foldl_cons]
    rcases List.mem_cons.1 hb with rfl | hb
    · exact foldl_kept fun c hc => hrest c hc (by rintro rfl; exact ha hc) _
    · rw [h a List.mem_cons_self (by rintro rfl; exact ha hb)]
      exact foldl_single hn hb hrest x

/-- A record that the pieces of all its sections leave is unchanged. -/
theorem Done.member_kept {w : SectionWork} {is : List SecId} {s t : State} (h : w.Done is s t) {q : RecId}
    (hq : ∀ i, q ∈ s.members i → ∀ x, w.rec' (s.sec i) x = x) : t.member q = s.member q := by
  rw [h.member]
  refine foldl_kept fun i _ => ?_
  split
  · exact hq i ‹_› _
  · rfl

/-- A record of one section alone is changed by that section's piece. -/
theorem Done.member_self {w : SectionWork} {s t : State} (h : w.Done sectionIds s t) {i : SecId} {q : RecId}
    (hq : q ∈ s.members i) (huniq : ∀ j, q ∈ s.members j → j = i) : t.member q = w.rec' (s.sec i) (s.member q) := by
  rw [h.member, foldl_single nodup_sectionIds (mem_sectionIds i) fun j _ hj _ => if_neg fun hm => hj (huniq j hm)]
  exact if_pos hq

/-- A record that each piece changes in one and the same idempotent way or not at all. -/
theorem Done.member_idem {w : SectionWork} {s t : State} (h : w.Done sectionIds s t) {d : PoolRecord → PoolRecord}
    (hd : ∀ x, d (d x) = d x) (hw : ∀ x, (∀ y, w.rec' x y = d y) ∨ ∀ y, w.rec' x y = y) {i : SecId} {q : RecId}
    (hq : q ∈ s.members i) (hi : ∀ y, w.rec' (s.sec i) y = d y) : t.member q = d (s.member q) := by
  rw [h.member]
  refine foldl_idem hd (fun j _ => ?_) ⟨i, mem_sectionIds i, fun x => by rw [if_pos hq, hi]⟩ _
  by_cases hj : q ∈ s.members j
  · simpa only [if_pos hj] using hw (s.sec j)
  · exact .inr fun x => if_neg hj

end SectionWork

/-! ## The loss of the permit line -/

/-- The states that the loss of the permit line ends (R39). -/
def SectionState.permitted : SectionState → Bool
  | .trial | .frozen | .calibrating => true
  | .bypass | .selected | .releasing | .faulted => false

/-- What the loss of the permit line does to a section (R39, R57). -/
def permitLoss : SectionWork where
  sec x := if x.state.permitted = true then
      { x with
        state := .releasing, releaseTarget := some .bypass, startPending := false
        profile := { x.profile with stepPending := false } }
    else if x.state = .releasing then { x with releaseTarget := some .bypass } else x
  rec' x r := if x.state.permitted = true then r.withOffset x.issueBase else r
  frees x := x.state.permitted

/-- No section runs under a lost permit line. -/
theorem permitLoss_not_permitted (x : Section) : (permitLoss.sec x).state.permitted = false := by
  dsimp only [permitLoss]
  split
  · rfl
  · split <;> simpa using ‹¬ x.state.permitted = true›

theorem permitLoss_members (x : Section) : (permitLoss.sec x).members = x.members := by
  dsimp only [permitLoss]
  split
  · rfl
  · split <;> rfl

/-- The loss of the permit line is that work for one section. -/
theorem State.permitLost_done (s : State) (i : SecId) : permitLoss.Done [i] s (s.permitLost i) := by
  have hrelease (h : (s.sec i).state.permitted = true) :
      permitLoss.Done [i] s (s.enterReleasing i .bypass .permit (.abandoned .permit) none none) := by
    obtain ⟨hframe, hsec, hother, hmember, hengine⟩ :=
      s.enterReleasing_spec i .bypass .permit (.abandoned .permit) none none
    refine ⟨hframe, fun j => ?_, fun q => ?_, ?_⟩
    · by_cases hj : j = i
      · subst hj
        rw [hsec, if_pos (List.mem_singleton_self _)]
        exact (if_pos h).symm
      · rw [hother j hj, if_neg (by simpa using hj)]
    · rw [hmember]
      simp [permitLoss, h]
    · rw [hengine]
      simp [permitLoss, h]
  have hnone (h : (s.sec i).state.permitted = false) (h' : (s.sec i).state ≠ .releasing) : permitLoss.Done [i] s s := by
    refine ⟨rfl, fun j => ?_, fun q => ?_, ?_⟩
    · by_cases hj : j = i
      · subst hj; simp [permitLoss, h, h']
      · simp [hj]
    · simp [permitLoss, h]
    · simp [permitLoss, h]
  unfold State.permitLost
  split <;> rename_i h
  case h_4 =>
    refine ⟨rfl, fun j => ?_, fun q => ?_, ?_⟩
    · rw [State.sec_modSec]
      by_cases hj : j = i
      · subst hj; simp [permitLoss, h, SectionState.permitted]
      · simp [hj]
    · simp [permitLoss, h, SectionState.permitted]
    · simp [permitLoss, h, SectionState.permitted]
  case h_1 => exact hrelease (by rw [h]; rfl)
  case h_2 => exact hrelease (by rw [h]; rfl)
  case h_3 => exact hrelease (by rw [h]; rfl)
  all_goals exact hnone (by rw [h]; rfl) (by rw [h]; decide)

/-- The loss of the permit line, for all sections. -/
theorem State.permitLost_all (s : State) : permitLoss.Done sectionIds s (s.forSections State.permitLost) :=
  .forSections permitLoss_members State.permitLost_done s

/-! ## Room for its event -/

/-- Posting adds at most one event. -/
theorem State.post_length (s : State) (k : EventKind) (a : Option SecId) (n : Option NodeId) (p : Option Pos) (c : Word16)
    (v : Option Int) (d : Nat) : (s.post k a n p c v d).events.length ≤ s.events.length + 1 := by
  by_cases h : s.events.length < 32
  · rw [State.post_room _ _ _ _ _ _ _ _ h]
    simp
  · rw [State.post_full _ _ _ _ _ _ _ _ (Nat.not_lt.1 h)]
    simp

/-- The events waiting, with the result that a held engine is still to report. -/
def State.eventsDue (s : State) : Nat := s.events.length + if s.engine.holder = none then 0 else 1

/-- The loss of the permit line adds at most one event for a section, but for the result of a held engine. -/
theorem State.eventsDue_permitLost (s : State) (i : SecId) : (s.permitLost i).eventsDue ≤ s.eventsDue + 1 := by
  have hrelease : (s.enterReleasing i .bypass .permit (.abandoned .permit) none none).eventsDue ≤ s.eventsDue + 1 := by
    have hevents := (s.enterReleasing_events i .bypass .permit (.abandoned .permit) none none).1
    have hengine := (s.enterReleasing_spec i .bypass .permit (.abandoned .permit) none none).2.2.2.2
    unfold State.eventsDue
    rw [hevents, hengine]
    split
    · rename_i h
      have h1 := State.post_length (s.postCalResult i (.abandoned .permit)) .stateChange (some i) none none s.cycle
        (some (5 : Int)) Cause.permit.code
      have h2 : (s.postCalResult i (.abandoned .permit)).events.length ≤ s.events.length + 1 := State.post_length ..
      simp only [h, Engine.free]
      simp
      omega
    · have h1 := State.post_length s .stateChange (some i) none none s.cycle (some (5 : Int)) Cause.permit.code
      omega
  unfold State.permitLost
  split
  case h_4 => exact Nat.le_succ _
  case h_1 => exact hrelease
  case h_2 => exact hrelease
  case h_3 => exact hrelease
  all_goals exact Nat.le_succ _

/-- Over a list, a measure that each piece raises by at most one rises by at most the list's length. -/
theorem foldl_measure {α β : Type} {f : β → α → β} {m : β → Nat} (h : ∀ b a, m (f b a) ≤ m b + 1) :
    ∀ (l : List α) (b : β), m (l.foldl f b) ≤ m b + l.length
  | [], _ => Nat.le_refl _
  | a :: l, b => by
    have h1 := foldl_measure h l (f b a)
    have h2 := h b a
    rw [List.foldl_cons, List.length_cons]
    omega

/-- With at most 14 events waiting, the loss of the permit line leaves room for its own (R167). -/
theorem State.permitLost_room {s : State} (h : s.events.length ≤ 14) : (s.forSections State.permitLost).events.length < 32 := by
  have hdue : (s.forSections State.permitLost).eventsDue ≤ s.eventsDue + sectionIds.length :=
    foldl_measure State.eventsDue_permitLost _ _
  have hlength : sectionIds.length = 16 := rfl
  unfold State.eventsDue at hdue
  split at hdue <;> split at hdue <;> omega

/-! ## The expiry of the line timer -/

/-- What the expiry of the line timer does to a section (R43). -/
def lineLoss : SectionWork where
  sec x := if x.state.monitored = true then x.passing .faulted .lineLost else x
  rec' x r := if x.state.monitored = true then r.dropped else r
  frees x := x.state.monitored

theorem lineLoss_members (x : Section) : (lineLoss.sec x).members = x.members := by
  dsimp only [lineLoss]
  split <;> rfl

/-- The line-lost condition is that work for one section. -/
theorem State.lineLost_done (s : State) (i : SecId) : lineLoss.Done [i] s (s.faultCondition i .lineLost none none) := by
  unfold State.faultCondition
  split <;> rename_i h
  · obtain ⟨hframe, hsec, hother, hmember, hengine⟩ := s.enterPassing_spec i .faulted .lineLost none none
    refine ⟨hframe, fun j => ?_, fun q => ?_, ?_⟩
    · by_cases hj : j = i
      · subst hj
        rw [hsec, if_pos (List.mem_singleton_self _)]
        exact (if_pos h).symm
      · rw [hother j hj, if_neg (by simpa using hj)]
    · rw [hmember]
      simp [lineLoss, h]
    · rw [hengine]
      simp [lineLoss, h]
  · refine ⟨rfl, fun j => ?_, fun q => ?_, ?_⟩
    · by_cases hj : j = i
      · subst hj; simp [lineLoss, h]
      · simp [hj]
    · simp [lineLoss, h]
    · simp [lineLoss, h]

/-- The line-lost condition, for all sections. -/
theorem State.lineLost_all (s : State) :
    lineLoss.Done sectionIds s (s.forSections fun t i => t.faultCondition i .lineLost none none) :=
  .forSections lineLoss_members State.lineLost_done s

/-! ## The statements -/

/-- A held engine's section ends with it free, where every calibrating section gives it up. -/
theorem SectionWork.Done.engine_free {w : SectionWork} {s t : State} (h : w.Done sectionIds s t) (he : EngineHeld s)
    (hw : ∀ x : Section, x.state = .calibrating → w.frees x = true) : t.engine = Engine.free := by
  obtain ⟨hheld, hfree⟩ := he
  rw [h.engine]
  split
  · rfl
  · rename_i hnone
    refine hfree (Option.eq_none_iff_forall_ne_some.2 fun i hi => hnone ⟨i, mem_sectionIds i, hi, hw _ ((hheld i).2 hi)⟩)

/-- Settles O5: the loss of the permit line goes through the sections in turn, none of which another's piece touches (R9). -/
theorem permitChangeReleasesSections : Obligations.PermitChangeReleasesSections := by
  unfold Obligations.PermitChangeReleasesSections
  refine ⟨fun s hpow hpermit heng hmem => ?_, fun s hpow hpermit => ?_⟩
  · have hdone := State.permitLost_all { s with permit := false }
    have hroom : s.events.length ≤ 14 → (State.forSections { s with permit := false } State.permitLost).events.length < 32 :=
      State.permitLost_room (s := { s with permit := false })
    generalize hv : State.forSections { s with permit := false } State.permitLost = v at hdone hroom
    have hframe := hdone.frame
    unfold State.entryFrame at hframe
    have hcycle : v.cycle = s.cycle := by rw [hframe]
    have hexec : exec (.permitLineChange false) s = .next (v.post .permit none none none s.cycle (some 0) 0) := by
      simp only [exec, execPermitLineChange]
      rw [State.whenPowered_on _ _ hpow, if_neg (by rw [hpermit]; decide)]
      unfold State.permitChange
      simp only [Bool.false_eq_true, if_false, hv, hcycle]
      rfl
    have hsec (i : SecId) : (v.post .permit none none none s.cycle (some 0) 0).sec i = permitLoss.sec (s.sec i) := by
      rw [State.sec_post]; exact hdone.sec_all i
    have hkept (i : SecId) (hi : (s.sec i).state.permitted = false) (r : RecId) (hr : r ∈ s.members i) :
        (v.post .permit none none none s.cycle (some 0) 0).member r = s.member r := by
      rw [State.member_post]
      refine hdone.member_kept fun j hj x => if_neg ?_
      rw [hmem.list_unique (show r ∈ s.members j from hj) hr]
      exact (Bool.eq_false_iff.1 hi)
    refine ⟨_, hexec, fun i hi => ⟨?_, fun r hr => ?_⟩, fun i hi => ?_, fun i hi => ?_, fun i hi => ?_, ?_, fun hlen => ?_, ?_⟩
    · rw [hsec]
      rcases hi with hi | hi | hi <;> simp [permitLoss, hi, SectionState.permitted]
    · rw [State.member_post, hdone.member_self (i := i) hr fun j hj => hmem.list_unique (i := j) (j := i) hj hr]
      refine if_pos ?_
      show (s.sec i).state.permitted = true
      rcases hi with hi | hi | hi <;> rw [hi] <;> rfl
    · rw [hsec]
      simp [permitLoss, hi, SectionState.permitted]
    · rw [hsec]
      rcases hi with hi | hi | hi <;> simp [permitLoss, hi, SectionState.permitted]
    · refine hkept i ?_
      rcases hi with hi | hi | hi | hi <;> rw [hi] <;> rfl
    · rw [State.engine_post]
      exact hdone.engine_free heng fun x hx => by simp [permitLoss, hx, SectionState.permitted]
    · rw [State.post_room _ _ _ _ _ _ _ _ (hroom hlen)]
      exact ⟨_, List.getLast?_concat .., rfl⟩
    · rw [State.post_frame, hframe]
  · simp only [exec, execPermitLineChange]
    rw [State.whenPowered_on _ _ hpow, if_neg (by rw [hpermit]; decide)]
    rfl

/-- Settles O6: every section takes the line-lost condition in turn, and a record that is dropped twice is as if dropped once. -/
theorem lineTimerExpiryFaultsSections : Obligations.LineTimerExpiryFaultsSections := by
  unfold Obligations.LineTimerExpiryFaultsSections
  refine ⟨fun s hpow htimer heng => ?_, fun s htimer => ?_⟩
  · have hdone := State.lineLost_all { s with timer := .expired }
    have hexec : exec .lineTimerExpiry s =
        .next (State.forSections { s with timer := .expired } fun t i => t.faultCondition i .lineLost none none) := by
      simp only [exec, execLineTimerExpiry]
      rw [State.whenPowered_on _ _ hpow, if_pos htimer]
    generalize State.forSections { s with timer := .expired } (fun t i => t.faultCondition i .lineLost none none) = t at *
    have hframe := hdone.frame
    unfold State.entryFrame at hframe
    have hmonitored {i : SecId} (h1 : (s.sec i).state ≠ .bypass) (h2 : (s.sec i).state ≠ .faulted) :
        (s.sec i).state.monitored = true := (SectionState.monitored_iff _).2 ⟨h1, h2⟩
    have hquiet {i : SecId} (h : (s.sec i).state = .bypass ∨ (s.sec i).state = .faulted) :
        ¬ (s.sec i).state.monitored = true := by rcases h with h | h <;> rw [h] <;> decide
    refine ⟨t, hexec, by rw [hframe], fun i h1 h2 => ⟨?_, fun r hr => ?_⟩, fun i hi => ?_, fun r hr => ?_, ?_, hframe⟩
    · exact (hdone.sec_all i).trans (if_pos (hmonitored h1 h2))
    · refine hdone.member_idem (d := PoolRecord.dropped) (fun _ => rfl) (fun x => ?_) (i := i) hr
        fun y => if_pos (hmonitored h1 h2)
      by_cases hx : x.state.monitored = true
      · exact .inl fun y => if_pos hx
      · exact .inr fun y => if_neg hx
    · exact (hdone.sec_all i).trans (if_neg (hquiet hi))
    · exact hdone.member_kept fun i hi x => if_neg (hquiet (hr i hi))
    · exact hdone.engine_free heng fun x hx => by simp [lineLoss, hx, SectionState.monitored]
  · cases hpow : s.powered
    · simp only [exec, execLineTimerExpiry]
      rw [State.whenPowered_off _ _ hpow]
    · simp only [exec, execLineTimerExpiry]
      rw [State.whenPowered_on _ _ hpow, if_neg htimer]

end Sys2Proof.Machine
end

section
/-! PROOFS. The commissioning commands of section 2.4: the checks they share, and what each does where they pass (R27 to R38). -/

namespace Sys2Proof.Machine

/-! ## A command for one section (R27) -/

/-- A COMMISSION request with one operand: the command's work on the state without the request, and its one reply. -/
theorem TakesCommission.serve_one {s : State} {r : RequestFrame} {row : CommandRow} (h : TakesCommission s r row.code) {v : Int}
    (hops : operandValues r = [v]) (hcount : row.fewest ≤ 1 ∧ 1 ≤ row.most) (body : State → Level → List Int → Answer) :
    s.whenPowered (fun s => s.serve row body) = .next ((body s.dropRequest .commission [v]).post r.tag) := by
  rw [h.serve (by rw [hops]; exact hcount) body, hops]

/-- A COMMISSION request with one operand whose command passes. -/
theorem TakesCommission.passes {s t : State} {r : RequestFrame} {row : CommandRow} (h : TakesCommission s r row.code) {v : Int}
    (hops : operandValues r = [v]) (hcount : row.fewest ≤ 1 ∧ 1 ≤ row.most) {body : State → Level → List Int → Answer}
    {data : List Int} (hbody : body s.dropRequest .commission [v] = t.answerOk data) :
    s.whenPowered (fun s => s.serve row body) = .next ((t.answerOk data).post r.tag) := by
  rw [h.serve_one hops hcount body, hbody]

/-- A COMMISSION request with one operand whose command refuses is answered so, with no other effect. -/
theorem TakesCommission.refuses {s : State} {r : RequestFrame} {row : CommandRow} (h : TakesCommission s r row.code) {v : Int}
    (hops : operandValues r = [v]) (hcount : row.fewest ≤ 1 ∧ 1 ≤ row.most) {body : State → Level → List Int → Answer}
    {code : ResultCode} {data : List Int} (hbody : body s.dropRequest .commission [v] = s.dropRequest.refuse code data) :
    s.whenPowered (fun s => s.serve row body) = .next (s.answered r code false data) := by
  rw [h.serve_one hops hcount body, hbody]
  rfl

/-- A section number that no section has is refused (R27). -/
theorem State.onSection_badNumber (s : State) {v : Int} (hv : v < 0 ∨ 15 < v) (takenIn : SectionState → Bool) (body : SecId → Answer) :
    s.onSection [v] takenIn body = s.refuse .badValue [] := by
  simp only [State.onSection, index?_none (n := 16) (show v < 0 ∨ ((16 : Nat) : Int) ≤ v by omega)]

/-- A section in a state that the command is taken in. -/
theorem State.onSection_taken {s : State} {i : SecId} {takenIn : SectionState → Bool} (h : takenIn (s.sec i).state = true)
    (body : SecId → Answer) : s.onSection [(i.val : Int)] takenIn body = body i := by
  simp only [State.onSection, index?_val, if_pos h]

/-- A section in another state is refused (R27). -/
theorem State.onSection_wrongState {s : State} {i : SecId} {takenIn : SectionState → Bool} (h : takenIn (s.sec i).state = false)
    (body : SecId → Answer) : s.onSection [(i.val : Int)] takenIn body = s.refuse .wrongState [(s.sec i).state.code] := by
  simp only [State.onSection, index?_val, h, Bool.false_eq_true, if_false]

/-- A row's command is a COMMISSION command for one section that is taken in the row's states alone. -/
def CommissioningRow.Checks (row : CommissioningRow) : Prop :=
  ∃ (takenIn : SectionState → Bool) (body : State → SecId → Answer), (∀ st, st ∉ row.takenIn → takenIn st = false) ∧
    ∀ s, exec row.command s =
      s.whenPowered fun s => s.serve ⟨row.code, .commission, 1, 1⟩ fun t _ ops => t.onSection ops takenIn (body t)

/-- Every row of section 2.4 is such a command. -/
theorem commissioningRows_checks : ∀ row ∈ commissioningRows, row.Checks := by
  simp only [commissioningRows, List.forall_mem_cons, List.not_mem_nil, false_imp_iff, implies_true, and_true]
  refine ⟨?_, ?_, ?_, ?_, ?_, ?_, ?_, ?_, ?_, ?_, ?_⟩ <;>
    exact ⟨_, _, fun st => by cases st <;> decide, fun _ => rfl⟩

/-- Settles O38: the two checks that come before every command's own. -/
theorem commissioningCommandsCheckSectionAndState : Obligations.CommissioningCommandsCheckSectionAndState := by
  unfold Obligations.CommissioningCommandsCheckSectionAndState
  intro row hrow s r htakes
  obtain ⟨takenIn, body, hstates, hexec⟩ := commissioningRows_checks row hrow
  refine ⟨fun v hops hv => ?_, fun i hops hi => ?_⟩
  · rw [hexec]
    exact htakes.refuses (row := ⟨row.code, .commission, 1, 1⟩) hops ⟨le_rfl, le_rfl⟩ (State.onSection_badNumber _ hv _ _)
  · rw [hexec]
    exact htakes.refuses (row := ⟨row.code, .commission, 1, 1⟩) hops ⟨le_rfl, le_rfl⟩
      (State.onSection_wrongState (s := s.dropRequest) (hstates _ hi) _)

/-! ## An answer after an entry -/

/-- A post depends on the Event Queue, the next sequence number and the cycle number of the state before, and is read from those of the
state after. -/
theorem Posted.of_agree {s u t v : State} {k : EventKind} {i : Option SecId} {n : Option NodeId} {p : Option Pos} {x : Option Int}
    {d : Nat} (h : Posted u t k i n p x d) (he : u.events = s.events) (hn : u.nextSequence = s.nextSequence) (hc : u.cycle = s.cycle)
    (he' : v.events = t.events) (hn' : v.nextSequence = t.nextSequence) : Posted s v k i n p x d := by
  unfold Posted at *
  obtain ⟨hevents, hnext⟩ := State.post_congr he hn k i n p u.cycle x d
  rw [he', hn', ← hc, ← hevents, ← hnext]
  exact h

/-- The answer after an entry, in the terms of the state that the request was taken from. -/
theorem State.entryFrame.answered {s t : State} {r : RequestFrame} (h : s.dropRequest.entryFrame t) (data : List Int) :
    (t.answerOk data).post r.tag = { s.answered r .ok false data with
      sections := t.sections, pool := t.pool, engine := t.engine, events := t.events, nextSequence := t.nextSequence } := by
  unfold State.answerOk Answer.post
  conv_lhs => rw [show t = _ from h]
  rfl

/-- An entry by command to BYPASS, SELECTED or FAULTED, with its answer (R25). -/
theorem State.enterPassing_answered (s : State) (r : RequestFrame) (i : SecId) (st : SectionState) :
    ∃ t, ((s.dropRequest.enterPassing i st .command none none).answerOk []).post r.tag = t ∧
      t.sec i = (s.sec i).passing st .command ∧
      (∀ j, j ≠ i → t.sec j = s.sec j) ∧
      (∀ q, t.member q = if q ∈ s.members i then { s.member q with trim := 0, held := 0, clamp := .none } else s.member q) ∧
      t.engine = (if s.engine.holder = some i then Engine.free else s.engine) ∧
      Posted (if s.engine.holder = some i then s.post .calResult (some i) none none s.cycle (some 0) 3 else s) t
        .stateChange (some i) none none (some st.code) 0 ∧
      t = { s.answered r .ok false [] with
        sections := t.sections, pool := t.pool, engine := t.engine, events := t.events, nextSequence := t.nextSequence } := by
  obtain ⟨hframe, hsec, hother, hmember, hengine⟩ := s.dropRequest.enterPassing_spec i st .command none none
  obtain ⟨_, _, _, _, _, hposted, _⟩ := EntersPassing.of_enterPassing s.dropRequest i st .command none none
  generalize s.dropRequest.enterPassing i st .command none none = t at *
  refine ⟨_, rfl, hsec, hother, hmember, hengine, ?_, hframe.answered []⟩
  by_cases hh : s.engine.holder = some i
  · rw [if_pos hh]
    rw [if_pos (show s.dropRequest.engine.holder = some i from hh)] at hposted
    have hcongr := State.post_congr (s := s.dropRequest) (t := s) rfl rfl .calResult (some i) none none s.cycle (some (0 : Int)) 3
    refine hposted.of_agree hcongr.1 hcongr.2 ?_ rfl rfl
    rw [State.cycle_post, State.cycle_post]
    rfl
  · rw [if_neg hh]
    rw [if_neg (show ¬ s.dropRequest.engine.holder = some i from hh)] at hposted
    exact hposted.of_agree rfl rfl rfl rfl rfl

/-! ## SELECT (R28) -/

/-- The first segment of kind NONE of a range. -/
theorem State.firstNone_eq_some (s : State) {k : Nat} (hnone : (s.segment k).kind = .none) :
    ∀ (n start : Nat), start ≤ k → k < start + n → (∀ j, start ≤ j → j < k → (s.segment j).kind ≠ .none) →
      s.firstNone start n = some k
  | 0, _, h1, h2, _ => by omega
  | n + 1, start, h1, h2, hbefore => by
    unfold State.firstNone
    obtain rfl | hlt : start = k ∨ start < k := by omega
    · rw [if_pos hnone]
    · rw [if_neg (hbefore start le_rfl hlt)]
      exact State.firstNone_eq_some s hnone n (start + 1) hlt (by omega) fun j hj => hbefore j (by omega)

/-- A range past the table fails with -1 (R28). -/
theorem State.profileFault_past (s : State) {start length : Nat} (h : 128 < start + length) :
    s.profileFault start length = some (-1) := if_pos h

/-- A range within the table fails with its first segment of kind NONE (R28). -/
theorem State.profileFault_segment (s : State) {start length k : Nat} (h : start + length ≤ 128) (h1 : start ≤ k)
    (h2 : k < start + length) (hnone : (s.segment k).kind = .none)
    (hbefore : ∀ j, start ≤ j → j < k → (s.segment j).kind ≠ .none) : s.profileFault start length = some (k : Int) := by
  unfold State.profileFault
  rw [if_neg (by omega), s.firstNone_eq_some hnone length start h1 h2 hbefore]
  rfl

/-- SELECT of a section in BYPASS: its three checks in their order. -/
theorem selectBody_bypass {s : State} {i : SecId} (l : Level) (h : (s.sec i).state = .bypass) :
    selectBody s l [(i.val : Int)] =
      if (s.members i).isEmpty then s.refuse .badValue [0]
      else
        match s.profileFault (s.sec i).cfg.profileStart (s.sec i).cfg.profileLength with
        | some d => s.refuse .badValue [d]
        | none => ((s.clearLimits i).enterPassing i .selected .command none none).answerOk [] :=
  State.onSection_taken (decide_eq_true h) _

/-- SELECT refuses where the profile range fails. -/
theorem selectBody_fault {s : State} {i : SecId} (l : Level) (h : (s.sec i).state = .bypass) (hm : s.members i ≠ []) {d : Int}
    (hd : s.profileFault (s.sec i).cfg.profileStart (s.sec i).cfg.profileLength = some d) :
    selectBody s l [(i.val : Int)] = s.refuse .badValue [d] := by
  rw [selectBody_bypass l h, if_neg (by simpa using hm), hd]

/-- SELECT passes where the list is not empty and the range is valid. -/
theorem selectBody_passes {s : State} {i : SecId} (l : Level) (h : (s.sec i).state = .bypass) (hm : s.members i ≠ [])
    (hd : s.profileFault (s.sec i).cfg.profileStart (s.sec i).cfg.profileLength = none) :
    selectBody s l [(i.val : Int)] = ((s.clearLimits i).enterPassing i .selected .command none none).answerOk [] := by
  rw [selectBody_bypass l h, if_neg (by simpa using hm), hd]

/-- Settles O39: the checks of R28 in their order, then the entry with the limits cleared. -/
theorem selectEntersSelected : Obligations.SelectEntersSelected := by
  unfold Obligations.SelectEntersSelected
  intro s r i htakes hops hstate c
  have hrefused {code : ResultCode} {data : List Int}
      (h : selectBody s.dropRequest .commission [(i.val : Int)] = s.dropRequest.refuse code data) :
      exec .select s = .next (s.answered r code false data) := htakes.refuses (row := rowSelect) hops ⟨le_rfl, le_rfl⟩ h
  have hfault {d : Int} (hm : s.members i ≠ []) (hd : s.dropRequest.profileFault c.profileStart c.profileLength = some d) :=
    hrefused (selectBody_fault (s := s.dropRequest) _ hstate hm hd)
  refine ⟨fun hm => hrefused ?_, fun hm hpast => hfault hm (State.profileFault_past _ hpast),
    fun k hm h1 h2 h3 h4 h5 => hfault hm (State.profileFault_segment _ h1 h2 h3 h4 h5), fun hm hvalid hholder => ?_⟩
  · rw [selectBody_bypass (s := s.dropRequest) _ hstate]
    exact if_pos (List.isEmpty_iff.2 hm)
  · have hpass := selectBody_passes (s := s.dropRequest) .commission hstate hm ((State.profileFault_eq_none ..).2 hvalid)
    obtain ⟨t, ht, hsec, hother, hmember, hengine, hposted, hframe⟩ := (s.clearLimits i).enterPassing_answered r i .selected
    have hheld : (s.clearLimits i).engine.holder ≠ some i := hholder
    rw [if_neg hheld] at hengine hposted
    have hself : (s.clearLimits i).sec i = { s.sec i with monitor := (s.sec i).monitor.limitsCleared } := State.sec_modSec_self ..
    refine ⟨t, ?_, ?_, fun j hj => ?_, fun q => ?_, ?_, ?_⟩
    · rw [← ht]
      exact htakes.passes (row := rowSelect) hops ⟨le_rfl, le_rfl⟩ hpass
    · rw [hsec, hself]
      rfl
    · rw [hother j hj]
      exact State.sec_modSec_ne _ hj _
    · rw [hmember]
      unfold State.members
      rw [hself]
      rfl
    · exact hposted.of_agree rfl rfl rfl rfl rfl
    · rw [hframe, hengine]
      rfl

end Sys2Proof.Machine
end

section
/-! PROOFS. The commissioning commands that leave a state, run a trial or calibrate (R29 to R38). -/

namespace Sys2Proof.Machine

/-! ## DESELECT, ABORT, CLEAR FAULT (R29, R35, R38) -/

/-- The first member of a list that a test finds. -/
theorem find?_eq_first {α : Type} {p : α → Bool} {l : List α} {k : Nat} {x : α} (hx : l[k]? = some x) (hp : p x = true)
    (hbefore : ∀ (j : Nat) (y : α), j < k → l[j]? = some y → p y = false) : l.find? p = some x := by
  obtain ⟨hk, rfl⟩ := List.getElem?_eq_some_iff.1 hx
  rw [List.find?_eq_some_iff_getElem]
  exact ⟨hp, k, hk, rfl, fun j hj => by simp [hbefore j _ hj (List.getElem?_eq_getElem _)]⟩

/-- CLEAR FAULT with no member showing FAULT. -/
theorem clearFaultBody_clears {s : State} {i : SecId} (l : Level) (h : (s.sec i).state = .faulted)
    (hm : ∀ q ∈ s.members i, (s.memberFeedback q).status.getLsbD 4 = false) :
    clearFaultBody s l [(i.val : Int)] = (s.enterPassing i .bypass .command none none).answerOk [] := by
  have hnone : s.faultedMember i = none := List.find?_eq_none.2 fun q hq => by
    unfold statusFault
    rw [hm q hq]
    decide
  unfold clearFaultBody
  rw [State.onSection_taken (by rw [h]; rfl), hnone]

/-- CLEAR FAULT names the first member that shows FAULT. -/
theorem clearFaultBody_refuses {s : State} {i : SecId} {q : RecId} (l : Level) (h : (s.sec i).state = .faulted)
    (hq : s.faultedMember i = some q) :
    clearFaultBody s l [(i.val : Int)] = s.refuse .wrongState [6, (s.memberNode q).val + 1] := by
  unfold clearFaultBody
  rw [State.onSection_taken (by rw [h]; rfl), hq]
  unfold State.wrongState
  rw [h]
  rfl

/-- Settles O40: the three commands are one entry to BYPASS. -/
theorem deselectAbortClearFaultEnterBypass : Obligations.DeselectAbortClearFaultEnterBypass := by
  unfold Obligations.DeselectAbortClearFaultEnterBypass
  refine ⟨fun s r i c hops hc => ?_, fun s r i k q htakes hops hstate hk hq hbefore => ?_⟩
  · have hexec : exec c s = .next (((s.dropRequest.enterPassing i .bypass .command none none).answerOk []).post r.tag) := by
      rcases hc with ⟨rfl, htakes, hstate⟩ | ⟨rfl, htakes, hstate⟩ | ⟨rfl, htakes, hstate, hm⟩
      · exact htakes.passes (row := rowDeselect) hops ⟨le_rfl, le_rfl⟩ (body := deselectBody)
          (State.onSection_taken (s := s.dropRequest) (decide_eq_true hstate) _)
      · exact htakes.passes (row := rowAbort) hops ⟨le_rfl, le_rfl⟩ (body := abortBody)
          (State.onSection_taken (s := s.dropRequest) hstate _)
      · exact htakes.passes (row := rowClearFault) hops ⟨le_rfl, le_rfl⟩
          (clearFaultBody_clears (s := s.dropRequest) _ hstate hm)
    obtain ⟨t, rfl, hsec, hrest⟩ := s.enterPassing_answered r i .bypass
    exact ⟨_, hexec, hsec, hrest⟩
  · refine htakes.refuses (row := rowClearFault) hops ⟨le_rfl, le_rfl⟩ (clearFaultBody_refuses (s := s.dropRequest) _ hstate ?_)
    exact find?_eq_first hk hq hbefore

/-! ## START (R30) -/

/-- START of a section in SELECTED: its four checks in their order. -/
theorem startBody_selected {s : State} {i : SecId} (l : Level) (h : (s.sec i).state = .selected) :
    startBody s l [(i.val : Int)] =
      match s.profileFault (s.sec i).cfg.profileStart (s.sec i).cfg.profileLength with
      | some d => s.refuse .badValue [d]
      | none =>
        match s.notReady i with
        | some q => s.refuse .wrongState [1, 2, (s.memberNode q).val + 1]
        | none =>
          match s.notFresh i with
          | some n => s.refuse .wrongState [1, 3, n]
          | none =>
            if (s.sec i).leadRuns then (s.startTrial i).answerOk []
            else s.refuse .wrongState [1, 4, s.leadNumber i] := by
  unfold startBody
  rw [State.onSection_taken (by rw [h]; rfl)]
  unfold State.wrongState
  rw [h]
  rfl

/-- A member that START's second check passes: RUNNING without FAULT (R30). -/
def State.Ready (s : State) (q : RecId) : Prop :=
  (s.memberFeedback q).status.getLsbD 1 = true ∧ (s.memberFeedback q).status.getLsbD 4 = false

/-- START's test of a member, in the words of the statement. -/
theorem State.notReady_test (s : State) (q : RecId) :
    (!(statusRunning (s.memberFeedback q).status) || statusFault (s.memberFeedback q).status) = true ↔ ¬ s.Ready q := by
  unfold State.Ready statusRunning statusFault
  cases (s.memberFeedback q).status.getLsbD 1 <;> cases (s.memberFeedback q).status.getLsbD 4 <;> decide

/-- No member fails START's second check where all are ready. -/
theorem State.notReady_eq_none {s : State} {i : SecId} (h : ∀ q ∈ s.members i, s.Ready q) : s.notReady i = none :=
  List.find?_eq_none.2 fun q hq hn => (s.notReady_test q).1 hn (h q hq)

/-- The first member that START's second check fails on. -/
theorem State.notReady_eq_some {s : State} {i : SecId} {k : Nat} {q : RecId} (hk : (s.members i)[k]? = some q) (hq : ¬ s.Ready q)
    (hbefore : ∀ (j : Nat) (p : RecId), j < k → (s.members i)[j]? = some p → s.Ready p) : s.notReady i = some q :=
  find?_eq_first hk ((s.notReady_test q).2 hq) fun j p hj hp =>
    Bool.eq_false_iff.2 fun hn => (s.notReady_test p).1 hn (hbefore j p hj hp)

/-- The lead's held drive command is RUN or CRAWL. -/
theorem Section.leadRuns_iff (x : Section) : x.leadRuns = true ↔ x.leadCommand = .run ∨ x.leadCommand = .crawl := by
  unfold Section.leadRuns
  simp only [Bool.or_eq_true, decide_eq_true_eq]

/-- A trigger signal leaves the sections. -/
@[simp] theorem State.sec_signal (s : State) (k : TriggerKind) (x : Nat) (i : SecId) : (s.signal k x).sec i = s.sec i := by
  rw [State.signal_frame]
  rfl

/-- A trigger signal leaves the Member Pool. -/
@[simp] theorem State.member_signal (s : State) (k : TriggerKind) (x : Nat) (q : RecId) : (s.signal k x).member q = s.member q := by
  rw [State.signal_frame]
  rfl

/-- What START changes. -/
theorem State.startTrial_spec (s : State) (i : SecId) :
    (s.startTrial i).sec i = { s.sec i with
        state := .trial, startPending := true
        profile := ⟨0, 0, 0, 0, 0, decide ((s.sec i).cfg.profileLength = 0), false, 0⟩
        monitor := { (s.sec i).monitor with zeroCross := 0, sign := .none, fired := false } } ∧
      (∀ j, j ≠ i → (s.startTrial i).sec j = s.sec j) ∧
      (∀ q, (s.startTrial i).member q = if q ∈ s.members i then { s.member q with trim := 0, clamp := .none } else s.member q) ∧
      s.startTrial i = { s with
        sections := (s.startTrial i).sections, pool := (s.startTrial i).pool, capture := (s.startTrial i).capture
        events := (s.startTrial i).events, nextSequence := (s.startTrial i).nextSequence } := by
  unfold State.startTrial State.postStateChange
  refine ⟨?_, fun j hj => ?_, fun q => ?_, ?_⟩
  · simp [ProfilePosition.atStart, ProfilePosition.powerOn]
  · simp [State.sec_modSec_ne _ hj]
  · simp only [State.member_signal, State.member_post, State.member_modSec]
    exact State.member_modMembers_idem s i (fun r => { r with trim := 0, clamp := .none }) (fun _ => rfl) q
  · dsimp only
    unfold State.modMembers
    rw [State.signal_frame, State.post_frame, State.modRecs_frame]
    rfl

/-- The event and the signal of an entry to TRIAL by START, from a state with the events, cycle number and capture control of s. -/
theorem State.trialEntered_events {s v : State} (i : SecId) (he : v.events = s.events) (hn : v.nextSequence = s.nextSequence)
    (hc : v.cycle = s.cycle) (hp : v.capture = s.capture) :
    let w := (v.postStateChange i .trial .command none none).signal .sectionStart i.val
    let u := (s.post .stateChange (some i) none none s.cycle (some 2) 0).signal .sectionStart i.val
    w.events = u.events ∧ w.nextSequence = u.nextSequence ∧ w.capture = u.capture := by
  have hposted := State.post_congr he hn .stateChange (some i) none none s.cycle (some (SectionState.trial.code : Int))
    Cause.command.code
  unfold State.postStateChange
  refine State.signal_congr ?_ ?_ ?_ ?_ _ _
  · rw [hc]; exact hposted.1
  · rw [hc]; exact hposted.2
  · rw [State.cycle_post, State.cycle_post, hc]
  · rw [State.capture_post, State.capture_post, hp]

/-- The events and the signal of START. -/
theorem State.startTrial_events {s t : State} (i : SecId) (he : t.events = s.events) (hn : t.nextSequence = s.nextSequence)
    (hc : t.cycle = s.cycle) (hp : t.capture = s.capture) :
    let u := (s.post .stateChange (some i) none none s.cycle (some 2) 0).signal .sectionStart i.val
    (t.startTrial i).events = u.events ∧ (t.startTrial i).nextSequence = u.nextSequence ∧ (t.startTrial i).capture = u.capture :=
  State.trialEntered_events i (by simpa using he) (by simpa using hn) (by simpa using hc) (by simpa using hp)

/-- START names the lead where no set was evaluated (R30). -/
theorem State.notFresh_absent {s : State} {i : SecId} (h : (s.sec i).lastSet = none) : s.notFresh i = some (s.leadNumber i) := by
  unfold State.notFresh
  rw [h]

/-- START's third check of an evaluated set (R30). -/
theorem State.notFresh_evaluated {s : State} {i : SecId} {l : LastSet} (h : (s.sec i).lastSet = some l) :
    s.notFresh i = if l.complete then none else some (optNode l.firstMissing) := by
  unfold State.notFresh
  rw [h]

/-- Settles O41: the four checks of R30 in their order, then the entry. -/
theorem startEntersTrial : Obligations.StartEntersTrial := by
  unfold Obligations.StartEntersTrial
  intro s r i htakes hops hstate ready runs
  have hbody := startBody_selected (s := s.dropRequest) .commission hstate
  have hrefused {code : ResultCode} {data : List Int}
      (h : startBody s.dropRequest .commission [(i.val : Int)] = s.dropRequest.refuse code data) :
      exec .start s = .next (s.answered r code false data) := htakes.refuses (row := rowStart) hops ⟨le_rfl, le_rfl⟩ h
  have hfault {d : Int} (h : s.dropRequest.profileFault (s.dropRequest.sec i).cfg.profileStart
      (s.dropRequest.sec i).cfg.profileLength = some d) : exec .start s = .next (s.answered r .badValue false [d]) :=
    hrefused (by rw [hbody, h])
  have hvalid (h : ProfileValid s i) : s.dropRequest.profileFault (s.dropRequest.sec i).cfg.profileStart
      (s.dropRequest.sec i).cfg.profileLength = none := (State.profileFault_eq_none ..).2 h
  have hready (h : ∀ q ∈ s.members i, ready q) : s.dropRequest.notReady i = none := State.notReady_eq_none (s := s.dropRequest) h
  have hfresh {l : LastSet} (h : (s.sec i).lastSet = some l) := State.notFresh_evaluated (s := s.dropRequest) h
  refine ⟨fun lead rest hlist => ?_, fun c n h1 h2 h3 h4 => ?_⟩
  · have hlead : s.dropRequest.leadNumber i = (s.memberNode lead).val + 1 := by
      unfold State.leadNumber
      rw [show s.dropRequest.members i = _ from hlist]
      rfl
    refine ⟨fun h => hfault (State.profileFault_past _ h), fun k h1 h2 h3 h4 h5 => hfault (State.profileFault_segment _ h1 h2 h3 h4 h5),
      fun k q h1 h2 h3 h4 => hrefused ?_, fun h1 h2 h3 => hrefused ?_, fun c n h1 h2 h3 => hrefused ?_,
      fun c n h1 h2 h3 h4 => hrefused ?_⟩
    · rw [hbody, hvalid h1, State.notReady_eq_some (s := s.dropRequest) h2 h3 h4]
      rfl
    · rw [hbody, hvalid h1, hready h2, State.notFresh_absent (s := s.dropRequest) h3, hlead]
    · rw [hbody, hvalid h1, hready h2, hfresh h3]
      rfl
    · rw [hbody, hvalid h1, hready h2, hfresh h3, hlead]
      exact if_neg fun h => h4 ((Section.leadRuns_iff _).1 h)
  · obtain ⟨hsec, hother, hmember, hframe⟩ := s.dropRequest.startTrial_spec i
    have hpass : startBody s.dropRequest .commission [(i.val : Int)] = (s.dropRequest.startTrial i).answerOk [] := by
      rw [hbody, hvalid h1, hready h2, hfresh h3]
      exact if_pos ((Section.leadRuns_iff _).2 h4)
    have hevents := State.startTrial_events (s := s) (t := s.dropRequest) i rfl rfl rfl rfl
    generalize s.dropRequest.startTrial i = t at *
    refine ⟨_, htakes.passes (row := rowStart) hops ⟨le_rfl, le_rfl⟩ hpass, hsec, hother, hmember, hevents, ?_⟩
    unfold State.answerOk Answer.post
    conv_lhs => rw [hframe]
    rfl

/-! ## FREEZE and STOP (R31, R34) -/

/-- Settles O42: both form the held offsets of R57. -/
theorem freezeAndStopFormOffsets : Obligations.FreezeAndStopFormOffsets := by
  unfold Obligations.FreezeAndStopFormOffsets
  intro s r i hops formed
  refine ⟨fun htakes hstate => ?_, fun htakes hstate hholder => ?_⟩
  · have hpass : freezeBody s.dropRequest .commission [(i.val : Int)] =
        (s.dropRequest.enterFrozen i .command none none none).answerOk [] :=
      State.onSection_taken (s := s.dropRequest) (decide_eq_true hstate) _
    obtain ⟨hframe, _, _, hmember, hengine, _⟩ := s.dropRequest.enterFrozen_spec i .command none none none
    obtain ⟨hsec, hother, _, _, hposted, _⟩ := EntersFrozen.of_enterFrozen s.dropRequest i .command none none none
    generalize s.dropRequest.enterFrozen i .command none none none = t at *
    refine ⟨_, htakes.passes (row := rowFreeze) hops ⟨le_rfl, le_rfl⟩ hpass,
      ⟨hother, hmember, ?_⟩, hposted.of_agree rfl rfl rfl rfl rfl, hsec⟩
    rw [hframe.answered, hengine]
    rfl
  · have hpass : stopBody s.dropRequest .commission [(i.val : Int)] =
        (s.dropRequest.enterReleasing i .selected .command (.abandoned Cause.command.abandon) none none).answerOk [] :=
      State.onSection_taken (s := s.dropRequest)
        (by rcases hstate with h | h <;> rw [show (s.dropRequest.sec i).state = _ from h] <;> rfl) _
    have hheld : ¬ s.dropRequest.engine.holder = some i := hholder
    obtain ⟨hframe, _, _, hmember, hengine⟩ :=
      s.dropRequest.enterReleasing_spec i .selected .command (.abandoned Cause.command.abandon) none none
    obtain ⟨hsec, hother, _, _, _, hposted, _⟩ := EntersReleasing.of_enterReleasing s.dropRequest i .selected .command none none
    rw [if_neg hheld] at hengine hposted
    generalize s.dropRequest.enterReleasing i .selected .command (.abandoned Cause.command.abandon) none none = t at *
    refine ⟨_, htakes.passes (row := rowStop) hops ⟨le_rfl, le_rfl⟩ hpass,
      ⟨hother, hmember, ?_⟩, hposted.of_agree rfl rfl rfl rfl rfl, hsec⟩
    rw [hframe.answered, hengine]
    rfl

/-! ## CONTINUE and STEP (R32, R33) -/

/-- What CONTINUE and STEP change. -/
theorem State.resumeTrial_spec (s : State) (i : SecId) (pending : Bool) :
    s.entryFrame (s.resumeTrial i pending) ∧
      (s.resumeTrial i pending).sec i =
        { s.sec i with state := .trial, profile := { (s.sec i).profile with stepPending := pending } } ∧
      (∀ j, j ≠ i → (s.resumeTrial i pending).sec j = s.sec j) ∧
      (∀ q, (s.resumeTrial i pending).member q = if q ∈ s.members i then { s.member q with held := 0 } else s.member q) ∧
      (s.resumeTrial i pending).engine = s.engine ∧
      Posted s (s.resumeTrial i pending) .stateChange (some i) none none (some SectionState.trial.code) Cause.command.code := by
  unfold State.resumeTrial State.postStateChange
  refine ⟨?_, ?_, fun j hj => ?_, fun q => ?_, ?_, ?_⟩
  · unfold State.entryFrame State.modMembers
    dsimp only
    rw [State.post_frame, State.modRecs_frame]
    rfl
  · simp
  · simp [State.sec_modSec_ne _ hj]
  · simp only [State.member_post, State.member_modSec]
    exact State.member_modMembers_idem s i (fun r => { r with held := 0 }) (fun _ => rfl) q
  · simp
  · have hposted := State.post_congr (s := (s.modMembers i fun r => { r with held := 0 }).modSec i fun x => { x with
      state := .trial, profile := { x.profile with stepPending := pending } }) (t := s) (by simp) (by simp)
      .stateChange (some i) none none s.cycle (some (SectionState.trial.code : Int)) Cause.command.code
    unfold Posted
    simpa using hposted

/-- CONTINUE and STEP of a section in FROZEN whose profile goes on. -/
theorem resumeBody_passes {s : State} {i : SecId} (l : Level) (h : (s.sec i).state = .frozen) :
    continueBody s l [(i.val : Int)] = (s.resumeTrial i false).answerOk [] ∧
      ((s.sec i).profile.finished = false → stepBody s l [(i.val : Int)] = (s.resumeTrial i true).answerOk []) := by
  have htaken (body : SecId → Answer) : s.onSection [(i.val : Int)] (· = .frozen) body = body i :=
    State.onSection_taken (by rw [h]; rfl) body
  refine ⟨htaken _, fun hf => (htaken _).trans (if_neg (by rw [hf]; decide))⟩

/-- Settles O43: both are one entry to TRIAL, which STEP makes with the step-pending mark. -/
theorem continueAndStepEnterTrial : Obligations.ContinueAndStepEnterTrial := by
  unfold Obligations.ContinueAndStepEnterTrial
  intro s r i step? htakes hops hstate c
  obtain ⟨hcontinue, hstep⟩ := resumeBody_passes (s := s.dropRequest) .commission hstate
  refine ⟨fun hs hfinished => ?_, fun hgoes => ?_⟩
  · subst hs
    refine htakes.refuses (row := rowStep) hops ⟨le_rfl, le_rfl⟩ (body := stepBody) ?_
    unfold stepBody
    rw [State.onSection_taken (s := s.dropRequest) (decide_eq_true hstate),
      if_pos (show (s.dropRequest.sec i).profile.finished = true from hfinished)]
    unfold State.wrongState
    rw [show (s.dropRequest.sec i).state = _ from hstate]
    rfl
  · have hexec : exec c s = .next (((s.dropRequest.resumeTrial i step?).answerOk []).post r.tag) := by
      cases step? with
      | false =>
        exact htakes.passes (row := rowContinue) hops ⟨le_rfl, le_rfl⟩ hcontinue
      | true =>
        exact htakes.passes (row := rowStep) hops ⟨le_rfl, le_rfl⟩ (hstep (hgoes.resolve_left (by decide)))
    obtain ⟨hframe, hsec, hother, hmember, hengine, hposted⟩ := s.dropRequest.resumeTrial_spec i step?
    generalize s.dropRequest.resumeTrial i step? = t at *
    refine ⟨_, hexec, hsec, hother, hmember, hposted.of_agree rfl rfl rfl rfl rfl, ?_⟩
    rw [hframe.answered, hengine]
    rfl

/-! ## CALIBRATE (R36) -/

/-- CALIBRATE of a section in SELECTED: its six checks in their order. -/
theorem calibrateBody_selected {s : State} {i : SecId} (l : Level) (h : (s.sec i).state = .selected) :
    calibrateBody s l [(i.val : Int)] =
      if (s.members i).length < 2 then s.refuse .badValue [1]
      else if (s.sec i).cfg.calHigh ≤ (s.sec i).cfg.calLow then s.refuse .badValue [2]
      else if (s.sec i).cfg.calHigh - (s.sec i).cfg.calLow < 10000 then s.refuse .badValue [3]
      else if (s.sec i).cfg.absoluteLimit < (s.sec i).cfg.calHigh then s.refuse .badValue [4]
      else if (s.sec i).cfg.crawlLimit < ((s.sec i).lineReference.natAbs : Int) then
        s.refuse .wrongState [1, (s.sec i).lineReference]
      else
        match s.engine.holder with
        | some j => s.refuse .busy [(j.val : Int)]
        | none => (s.enterCalibrating i).answerOk [] := by
  unfold calibrateBody
  rw [State.onSection_taken (by rw [h]; rfl)]
  unfold State.wrongState
  rw [h]
  rfl

/-- What CALIBRATE changes. -/
theorem State.enterCalibrating_spec (s : State) (i : SecId) :
    s.entryFrame (s.enterCalibrating i) ∧ (s.enterCalibrating i).pool = s.pool ∧
      (s.enterCalibrating i).sec i = { s.sec i with state := .calibrating } ∧
      (∀ j, j ≠ i → (s.enterCalibrating i).sec j = s.sec j) ∧
      (s.enterCalibrating i).engine = { Engine.free with holder := some i, phase := some .settleLow } ∧
      Posted s (s.enterCalibrating i) .stateChange (some i) none none (some SectionState.calibrating.code) Cause.command.code := by
  unfold State.enterCalibrating State.postStateChange
  refine ⟨?_, by simp, by rw [State.sec_post, State.sec_modSec_self]; rfl, fun j hj => ?_, by simp, ?_⟩
  · unfold State.entryFrame
    dsimp only
    rw [State.post_frame]
    rfl
  · simp only [State.sec_post, State.sec_modSec_ne _ hj]
    rfl
  · unfold Posted
    simp only [State.cycle_modSec]
    apply State.post_congr <;> rfl

/-- Settles O44: the six checks of R36 in their order, then the entry with the engine. -/
theorem calibrateTakesEngine : Obligations.CalibrateTakesEngine := by
  unfold Obligations.CalibrateTakesEngine
  intro s r i htakes hops hstate c b c1 c4 c5
  have hbody := calibrateBody_selected (s := s.dropRequest) .commission hstate
  have hrefused {code : ResultCode} {data : List Int}
      (h : calibrateBody s.dropRequest .commission [(i.val : Int)] = s.dropRequest.refuse code data) :
      exec .calibrate s = .next (s.answered r code false data) := htakes.refuses (row := rowCalibrate) hops ⟨le_rfl, le_rfl⟩ h
  have hcfg : (s.dropRequest.sec i).cfg = c := rfl
  have hline : (s.dropRequest.sec i).lineReference = b := rfl
  have hlist : (s.dropRequest.members i).length = (s.members i).length := rfl
  rw [hcfg, hline, hlist] at hbody
  have hsixth (h5 : c5) : calibrateBody s.dropRequest .commission [(i.val : Int)] =
      match s.engine.holder with
      | some j => s.dropRequest.refuse .busy [(j.val : Int)]
      | none => (s.dropRequest.enterCalibrating i).answerOk [] := by
    obtain ⟨⟨h1, h2, h3, h4⟩, h5, h6⟩ := h5
    rw [hbody, if_neg (by omega), if_neg (by omega), if_neg (by omega), if_neg (by omega), if_neg (by omega)]
    rfl
  refine ⟨fun h1 => hrefused ?_, fun h1 h2 => hrefused ?_, fun h1 h2 h3 => hrefused ?_, fun h1 h2 h3 h4 => hrefused ?_,
    fun h4 h5 => hrefused ?_, fun j h5 hj => hrefused ?_, fun h5 hfree => ?_⟩
  · rw [hbody, if_pos (Nat.not_le.1 h1)]
  · rw [hbody, if_neg (Nat.not_lt.2 h1), if_pos (by omega)]
  · rw [hbody, if_neg (Nat.not_lt.2 h1), if_neg (by omega), if_pos (by omega)]
  · rw [hbody, if_neg (Nat.not_lt.2 h1), if_neg (by omega), if_neg (by omega), if_pos (by omega)]
  · obtain ⟨h1, h2, h3, h4⟩ := h4
    rw [hbody, if_neg (Nat.not_lt.2 h1), if_neg (by omega), if_neg (by omega), if_neg (by omega), if_pos (by omega)]
  · rw [hsixth h5, hj]
  · obtain ⟨hframe, hpool, hsec, hother, hengine, hposted⟩ := s.dropRequest.enterCalibrating_spec i
    have hpass : calibrateBody s.dropRequest .commission [(i.val : Int)] = (s.dropRequest.enterCalibrating i).answerOk [] := by
      rw [hsixth h5, hfree]
    generalize s.dropRequest.enterCalibrating i = t at *
    refine ⟨_, htakes.passes (row := rowCalibrate) hops ⟨le_rfl, le_rfl⟩ hpass, hsec, hother, hengine, hposted.of_agree rfl rfl rfl rfl rfl, ?_⟩
    rw [hframe.answered, hpool]
    rfl

/-! ## TRIGGER (R37) -/

/-- Settles O45: a running STEP segment starts its count again. -/
theorem triggerRestartsStepSegment : Obligations.TriggerRestartsStepSegment := by
  unfold Obligations.TriggerRestartsStepSegment
  intro s r i htakes hops runs
  have hruns : s.dropRequest.triggers i = true ↔ runs := by
    unfold State.triggers State.currentSegment
    simp only [Bool.and_eq_true, decide_eq_true_eq, Bool.not_eq_true']
    exact and_assoc
  have htaken (hstate : (s.sec i).state = .trial) : triggerBody s.dropRequest .commission [(i.val : Int)] =
      if s.dropRequest.triggers i = true then (s.dropRequest.modProfile i fun q => { q with cycleCount := 0 }).answerOk []
      else s.dropRequest.refuse .ignored [] :=
    State.onSection_taken (s := s.dropRequest) (decide_eq_true hstate) _
  refine ⟨fun hstate h => ?_, fun hstate h => ?_, fun hstate => ?_⟩
  · refine ⟨_, htakes.passes (row := rowTrigger) hops ⟨le_rfl, le_rfl⟩ ((htaken hstate).trans (if_pos (hruns.2 h))), 
      State.sec_modSec_self s.dropRequest i fun x => { x with profile := { x.profile with cycleCount := 0 } },
      fun j hj => State.sec_modSec_ne s.dropRequest hj fun x => { x with profile := { x.profile with cycleCount := 0 } }, rfl⟩
  · exact htakes.refuses (row := rowTrigger) hops ⟨le_rfl, le_rfl⟩ ((htaken hstate).trans (if_neg fun hn => h (hruns.1 hn)))
  · exact htakes.refuses (row := rowTrigger) hops ⟨le_rfl, le_rfl⟩ (body := triggerBody)
      (State.onSection_wrongState (s := s.dropRequest) (decide_eq_false hstate) _)

end Sys2Proof.Machine
end

section
/-! SUPPORT. What a step does beyond the turns of the block's own work: the entries that commands make, with the permit that they need
(R162), the writes of configuration within their ranges (R4), and the changes of a member list. -/

namespace Sys2Proof.Machine

/-! ## Acts -/

/-- The configuration fields lie within their ranges (R4). -/
def SectionConfig.InRange (c : SectionConfig) : Prop :=
  (-50000 ≤ c.drawOffset ∧ c.drawOffset ≤ 50000) ∧ (0 ≤ c.trimWindow ∧ c.trimWindow ≤ 100000) ∧
  (10000 ≤ c.absoluteLimit ∧ c.absoluteLimit ≤ 2000000) ∧ (0 ≤ c.shareGain ∧ c.shareGain ≤ 255) ∧
  (0 ≤ c.trimLimit ∧ c.trimLimit ≤ 20000) ∧ c.profileStart ≤ 127 ∧ c.profileLength ≤ 32 ∧ c.repeatCount ≤ 255 ∧
  c.gateHoldLimit ≤ 1000 ∧ (10 ≤ c.releaseRate ∧ c.releaseRate ≤ 10000) ∧ (1 ≤ c.missLimit ∧ c.missLimit ≤ 15) ∧
  (0 ≤ c.crawlLimit ∧ c.crawlLimit ≤ 300000) ∧ (0 ≤ c.calLow ∧ c.calLow ≤ 300000) ∧
  (0 ≤ c.calHigh ∧ c.calHigh ≤ 300000) ∧ (1 ≤ c.settleCycles ∧ c.settleCycles ≤ 1000) ∧
  (2 ≤ c.sampleExponent ∧ c.sampleExponent ≤ 8)

/-- A change of a configuration that keeps the ranges and leaves the trim limit. -/
structure SectionConfig.Kept (f : SectionConfig → SectionConfig) : Prop where
  inRange : ∀ c : SectionConfig, c.InRange → (f c).InRange
  trimLimit : ∀ c : SectionConfig, (f c).trimLimit = c.trimLimit

/-- A turn, or what a command alone does. -/
inductive Act : State → State → Prop where
  | turn {s t : State} (h : Turn s t) : Act s t
  | passing {s : State} {i : SecId} {st : SectionState} (cause : Cause) (node : Option NodeId) (pos : Option Pos)
      (hst : st.rewriting = false) : Act s (s.enterPassing i st cause node pos)
  | started {s : State} (i : SecId) (hp : s.permit = true) : Act s (s.startTrial i)
  | resumed {s : State} (i : SecId) (pending : Bool) (hp : s.permit = true) : Act s (s.resumeTrial i pending)
  | calibrating {s : State} (i : SecId) (hp : s.permit = true) : Act s (s.enterCalibrating i)
  | config {s : State} (i : SecId) {f : SectionConfig → SectionConfig} (hf : SectionConfig.Kept f) : Act s (s.modCfg i f)
  | trimLimit {s : State} (i : SecId) {v : Int} (h0 : 0 ≤ v) (h1 : v ≤ 20000) : Act s (s.writeTrimLimit i v)
  | addMember {s : State} {i : SecId} {n : NodeId} {r : RecId} (weight : Nat) (hr : (s.member r).inUse = false) :
      Act s (s.addMember i n weight r)
  | removeMember {s : State} {i : SecId} {n : NodeId} {r : RecId} (hr : r ∈ s.members i) : Act s (s.removeMember i n r)
  | makeLead {s : State} {i : SecId} {r : RecId} (hr : r ∈ s.members i) : Act s (s.makeLead i r)

/-- Some acts, one after the other. -/
abbrev Acts : State → State → Prop := Relation.ReflTransGen Act

namespace Acts

/-! ## Acts over lists and branches -/

/-- One act. -/
theorem of {s t : State} (h : Act s t) : Acts s t := .single h

/-- Turns are acts. -/
theorem turns {s t : State} (h : Turns s t) : Acts s t := Relation.ReflTransGen.mono (fun _ _ => .turn) _ _ h

/-- Work that leaves sections, pool, permit line and engine. -/
theorem quiet {s t : State} (h1 : t.permit = s.permit) (h2 : t.sections = s.sections) (h3 : t.pool = s.pool)
    (h4 : t.engine.holder = s.engine.holder) : Acts s t := turns (.quiet h1 h2 h3 h4)

/-- A branch. -/
theorem ite {c : Prop} [Decidable c] {s a b : State} (ha : c → Acts s a) (hb : ¬ c → Acts s b) : Acts s (if c then a else b) := by
  split
  · exact ha ‹_›
  · exact hb ‹_›

/-- Acts done or not done. -/
theorem whenTrue {c : Prop} [Decidable c] {s a : State} (ha : c → Acts s a) : Acts s (if c then a else s) := ite ha fun _ => .refl

/-- Acts over a list. -/
theorem foldl {α : Type} (f : State → α → State) (hf : ∀ s a, Acts s (f s a)) : ∀ (l : List α) (s : State), Acts s (l.foldl f s)
  | [], _ => .refl
  | a :: l, s => (hf s a).trans (foldl f hf l _)

/-! ## Writes (R165) -/

/-- A write to the Section Table. -/
theorem writeSection (s : State) (i : SecId) (f : Nat) (v : Int) : (s.writeSection i f v).Leaves (Acts s) := by
  have hconfig {g : SectionConfig → SectionConfig} (hg : ∀ c, c.InRange → (g c).InRange)
      (hl : ∀ c, (g c).trimLimit = c.trimLimit) : Acts s (s.modCfg i g) := of (.config i ⟨hg, hl⟩)
  have hprofile {hi : Int} {change : Nat → SectionConfig → SectionConfig}
      (h : ¬ (v < 0 ∨ hi < v) → ∀ c : SectionConfig, c.InRange → (change v.toNat c).InRange)
      (hl : ∀ k c, (change k c).trimLimit = c.trimLimit) : (s.profileWrite i 0 hi v change).Leaves (Acts s) := by
    refine State.structural_leaves (WriteResult.leaves_unless fun hv => ?_)
    dsimp only
    exact WriteResult.leaves_unless fun _ => hconfig (h hv) (hl _)
  have hrange {lo hi : Int} {g : Int → SectionConfig → SectionConfig}
      (h : ∀ x, lo ≤ x → x ≤ hi → ∀ c : SectionConfig, c.InRange → (g x c).InRange)
      (hl : ∀ x c, (g x c).trimLimit = c.trimLimit) :
      (s.structural i (rangeWrite lo hi v fun x => s.modCfg i (g x))).Leaves (Acts s) :=
    State.structural_leaves (rangeWrite_leaves v fun x h1 h2 => hconfig (h x h1 h2) (hl x))
  have hclamp {lo hi : Int} {g : Int → SectionConfig → SectionConfig}
      (h : ∀ x, lo ≤ x → x ≤ hi → ∀ c : SectionConfig, c.InRange → (g x c).InRange)
      (hl : ∀ x c, (g x c).trimLimit = c.trimLimit) (hle : lo ≤ hi := by decide) :
      (clampWrite lo hi v fun x => s.modCfg i (g x)).Leaves (Acts s) :=
    clampWrite_leaves v (fun x h1 h2 => hconfig (h x h1 h2) (hl x)) hle
  unfold State.writeSection
  split
  case h_1 => exact hclamp (fun x h1 h2 c hc => by unfold SectionConfig.InRange at *; dsimp only; omega) fun _ _ => rfl
  case h_2 => exact hclamp (fun x h1 h2 c hc => by unfold SectionConfig.InRange at *; dsimp only; omega) fun _ _ => rfl
  case h_3 => exact hrange (fun x h1 h2 c hc => by unfold SectionConfig.InRange at *; dsimp only; omega) fun _ _ => rfl
  case h_4 => exact hclamp (fun x h1 h2 c hc => by unfold SectionConfig.InRange at *; dsimp only; omega) fun _ _ => rfl
  case h_5 => exact clampWrite_leaves v fun x h1 h2 => of (.trimLimit i h1 h2)
  case h_6 => exact hprofile (fun hv c hc => by unfold SectionConfig.InRange at *; dsimp only; omega) fun _ _ => rfl
  case h_7 => exact hprofile (fun hv c hc => by unfold SectionConfig.InRange at *; dsimp only; omega) fun _ _ => rfl
  case h_8 => exact hrange (fun x h1 h2 c hc => by unfold SectionConfig.InRange at *; dsimp only; omega) fun _ _ => rfl
  case h_9 => exact State.structural_leaves (codeWrite_leaves _ fun _ => hconfig (fun _ hc => hc) fun _ => rfl)
  case h_10 => exact hrange (fun x h1 h2 c hc => by unfold SectionConfig.InRange at *; dsimp only; omega) fun _ _ => rfl
  case h_11 => exact hclamp (fun x h1 h2 c hc => by unfold SectionConfig.InRange at *; dsimp only; omega) fun _ _ => rfl
  case h_12 => exact hclamp (fun x h1 h2 c hc => by unfold SectionConfig.InRange at *; dsimp only; omega) fun _ _ => rfl
  case h_13 => exact hrange (fun x h1 h2 c hc => by unfold SectionConfig.InRange at *; dsimp only; omega) fun _ _ => rfl
  case h_14 => exact hrange (fun x h1 h2 c hc => by unfold SectionConfig.InRange at *; dsimp only; omega) fun _ _ => rfl
  case h_15 => exact hrange (fun x h1 h2 c hc => by unfold SectionConfig.InRange at *; dsimp only; omega) fun _ _ => rfl
  case h_16 => exact hrange (fun x h1 h2 c hc => by unfold SectionConfig.InRange at *; dsimp only; omega) fun _ _ => rfl
  case h_17 => exact hrange (fun x h1 h2 c hc => by unfold SectionConfig.InRange at *; dsimp only; omega) fun _ _ => rfl
  case h_18 => trivial

/-- A write to the Member Pool. -/
theorem writePool (s : State) (r : RecId) (f : Nat) (v : Int) : (s.writePool r f v).Leaves (Acts s) := by
  unfold State.writePool
  split
  · split
    · exact clampWrite_leaves v fun _ _ _ => turns (.modRec ..)
    · trivial
  · trivial

/-- A write to a table that holds neither states, nor configuration, lists, trims, offsets or flags. -/
theorem writeTable (s : State) (f : Nat) (v : Int) :
    (∀ n, (s.writeDrive n f v).Leaves (Acts s)) ∧ (∀ k, (s.writeSegment k f v).Leaves (Acts s)) ∧
    (∀ w, (s.writeWatch w f v).Leaves (Acts s)) ∧ (∀ k, (s.writeItem k f v).Leaves (Acts s)) ∧
    (s.writeCapture f v).Leaves (Acts s) ∧ (s.writeStation f v).Leaves (Acts s) := by
  have hcode {α : Type} (x : Option α) {g : α → State} (hg : ∀ a, Acts s (g a)) : (codeWrite x g).Leaves (Acts s) :=
    codeWrite_leaves x hg
  have hclamp {lo hi : Int} {g : Int → State} (hg : ∀ x, Acts s (g x)) (hle : lo ≤ hi := by decide) :
      (clampWrite lo hi v g).Leaves (Acts s) := clampWrite_leaves v (fun x _ _ => hg x) hle
  have hcapture (g : CaptureControl → CaptureControl) : Acts s (s.modCapture g) := turns (.modCapture ..)
  have hwatch (w : WatchId) (g : WatchPoint → WatchPoint) : Acts s (s.modWatch w g) := turns (.modWatch ..)
  have hdrive (n : NodeId) (g : DriveEntry → DriveEntry) : Acts s (s.modDrive n g) := turns (.modDrive ..)
  have hsegment (k : Fin 128) (g : Segment → Segment) : Acts s (s.modSegment k g) := quiet rfl rfl rfl rfl
  have hitem (k : Fin 8) (g : CaptureItem → CaptureItem) : Acts s (s.modItem k g) := quiet rfl rfl rfl rfl
  refine ⟨fun n => ?_, fun k => ?_, fun w => ?_, fun k => ?_, ?_, ?_⟩
  · refine WriteResult.leaves_unless fun _ => WriteResult.leaves_unless fun _ => WriteResult.leaves_unless fun _ => ?_
    split
    · exact hcode _ fun _ => hdrive ..
    · exact rangeWrite_leaves v fun _ _ _ => hdrive ..
    · exact rangeWrite_leaves v fun _ _ _ => hdrive ..
  · refine WriteResult.leaves_unless fun _ => ?_
    split
    · exact WriteResult.leaves_unless fun _ => hsegment ..
    · exact hclamp fun _ => hsegment ..
    · split
      · exact WriteResult.leaves_unless fun _ => hsegment ..
      · trivial
    · trivial
  · unfold State.writeWatch
    dsimp only
    split
    · exact hcode _ fun _ => hwatch ..
    · exact hcode _ fun _ => hwatch ..
    · exact hcode _ fun _ => hwatch ..
    · exact hcode _ fun _ => hwatch ..
    · exact hcode _ fun _ => hwatch ..
    · exact hwatch ..
    · trivial
  · unfold State.writeItem
    split
    · split
      · exact hcode _ fun _ => hitem ..
      · exact hcode _ fun _ => hitem ..
      · exact hcode _ fun _ => hitem ..
      · exact hcode _ fun _ => hitem ..
      · trivial
    · trivial
  · refine WriteResult.leaves_unless fun _ => ?_
    split
    · split
      · exact hcode _ fun _ => hcapture ..
      · exact hcode _ fun _ => hcapture ..
      · exact hcode _ fun _ => hcapture ..
      · exact hclamp fun _ => hcapture ..
      · exact hclamp fun _ => hcapture ..
      · exact hclamp fun _ => hcapture ..
    · trivial
  · unfold State.writeStation
    split
    · exact hclamp fun _ => quiet rfl rfl rfl rfl
    · trivial

/-- A write to the Limit Set table. -/
theorem writeMonitor (s : State) (i : SecId) (f : Nat) (v : Int) : (s.writeMonitor i f v).Leaves (Acts s) := by
  have hclamp (lo hi : Int) (g : Int → Monitor → Monitor) (hle : lo ≤ hi := by decide) :
      (clampWrite lo hi v fun x => s.modMonitor i (g x)).Leaves (Acts s) :=
    clampWrite_leaves v (fun _ _ _ => turns (.modMonitor ..)) hle
  have hcode (x : Option LimitAction) (g : LimitAction → Monitor → Monitor) :
      (codeWrite x fun a => s.modMonitor i (g a)).Leaves (Acts s) :=
    codeWrite_leaves _ fun _ => turns (.modMonitor ..)
  unfold State.writeMonitor
  dsimp only
  split
  case h_3 => exact hcode ..
  case h_6 => exact hcode ..
  case h_9 => exact hcode ..
  case h_12 => exact hcode ..
  case h_13 => trivial
  all_goals exact hclamp ..

/-- A write to a field of any table. -/
theorem writeField (s : State) (table e f : Nat) (v : Int) : (s.writeField table e f v).Leaves (Acts s) := by
  obtain ⟨hdrive, hsegment, hwatch, hitem, hcapture, hstation⟩ := writeTable s f v
  unfold State.writeField
  split
  · exact writeSection ..
  · exact writePool ..
  · exact hdrive _
  · exact hsegment _
  · exact writeMonitor ..
  · exact hwatch _
  · exact hitem _
  · exact hcapture
  · exact hstation
  · trivial

/-- A write run. -/
theorem writeRun (table : Nat) : ∀ (vs : List Int) (s : State) (k n : Nat) (c : Option Nat),
    Acts s (State.writeRun table s k vs n c).state
  | [], _, _, _, _ => .refl
  | v :: vs, s, k, n, c => by
    have hfield : (s.writeAt table k v).Leaves (Acts s) := writeField ..
    unfold State.writeRun
    split
    · rename_i t ht; rw [ht] at hfield; exact .trans hfield (writeRun table vs ..)
    · rename_i t ht; rw [ht] at hfield; exact .trans hfield (writeRun table vs ..)
    · exact .refl

/-! ## Answers (R27, R161, R162) -/

/-- An answer behind a check: its acts where the check does not refuse. -/
theorem unlessRefused {s : State} {c : Prop} [Decidable c] {code : ResultCode} {data : List Int} {a : Answer}
    (h : ¬ c → Acts s a.state) : Acts s (if c then s.refuse code data else a).state := by
  split
  · exact .refl
  · exact h ‹_›

/-- An answer behind a check that an entry, if any, is made behind. -/
theorem ifPasses {s : State} {c : Prop} [Decidable c] {code : ResultCode} {data : List Int} {a : Answer}
    (h : c → Acts s a.state) : Acts s (if c then a else s.refuse code data).state := by
  split
  · exact h ‹_›
  · exact .refl

/-- A command of section 2.4: its acts on a section in a state listed for it. -/
theorem onSection (s : State) (ops : List Int) (takenIn : SectionState → Bool) (body : SecId → Answer)
    (h : ∀ i, takenIn (s.sec i).state = true → Acts s (body i).state) : Acts s (s.onSection ops takenIn body).state := by
  unfold State.onSection
  split
  · split
    · exact .refl
    · exact ifPasses (h _)
  · exact .refl

/-- A command of a member: its acts on the record found. -/
theorem onMember (s : State) (ops : List Int) (body : SecId → NodeId → RecId → Answer)
    (h : ∀ i n r, r ∈ s.members i → Acts s (body i n r).state) : Acts s (s.onMember ops body).state := by
  unfold State.onMember
  split
  · split
    · exact .refl
    · refine unlessRefused fun _ => ?_
      split
      · exact .refl
      · split
        · exact .refl
        · exact h _ _ _ (List.mem_of_find?_eq_some ‹_›)
  · exact .refl

/-- Moving a cursor. -/
theorem setCursor (s : State) (l : Level) (c : Cursor) : Acts s (s.setCursor l c) := by
  cases l <;> exact quiet rfl rfl rfl rfl

/-- Setting a snapshot latch. -/
theorem setLatch (s : State) (i : SecId) (v : Option Snapshot) : Acts s (s.setLatch i v) := turns (.modSec s i _)

/-! ## Reads, writes, snapshots, captures -/

theorem readReply (s : State) (table k : Nat) (count : Int) : Acts s (s.readReply table k count).state :=
  unlessRefused fun _ => .refl

theorem readBody (s : State) (l : Level) (ops : List Int) : Acts s (readBody' s l ops).state := by
  unfold readBody'
  split
  · exact ifPasses fun _ => readReply ..
  · exact .refl

theorem readIndexedBody (s : State) (l : Level) (ops : List Int) : Acts s (Machine.readIndexedBody s l ops).state := by
  unfold Machine.readIndexedBody
  split
  · exact ifPasses fun _ => readReply ..
  · exact .refl

theorem setCursorBody (s : State) (l : Level) (ops : List Int) : Acts s (Machine.setCursorBody s l ops).state := by
  unfold Machine.setCursorBody
  split
  · exact ifPasses fun _ => setCursor ..
  · exact .refl

theorem readNextBody (s : State) (l : Level) (ops : List Int) : Acts s (Machine.readNextBody s l ops).state := by
  unfold Machine.readNextBody
  split
  · exact unlessRefused fun _ => setCursor ..
  · exact .refl

theorem writeBody (s : State) (l : Level) (ops : List Int) : Acts s (Machine.writeBody s l ops).state := by
  unfold Machine.writeBody
  split
  · exact ifPasses fun _ => writeRun ..
  · exact .refl

theorem writeNextBody (s : State) (l : Level) (ops : List Int) : Acts s (Machine.writeNextBody s l ops).state :=
  (writeRun ..).trans (setCursor ..)

theorem readEventsBody (s : State) (l : Level) (ops : List Int) : Acts s (Machine.readEventsBody s l ops).state := by
  unfold Machine.readEventsBody
  split
  · split
    · exact .refl
    · exact quiet rfl rfl rfl rfl
  · exact .refl

theorem peekEventsBody (s : State) (l : Level) (ops : List Int) : Acts s (Machine.peekEventsBody s l ops).state := by
  unfold Machine.peekEventsBody
  split
  · split <;> exact .refl
  · exact .refl

theorem latchBody (s : State) (l : Level) (ops : List Int) : Acts s (Machine.latchBody s l ops).state := by
  unfold Machine.latchBody
  split
  · split
    · exact .refl
    · split
      · exact .refl
      · exact setLatch ..
  · exact .refl

theorem readSnapshotBody (s : State) (l : Level) (ops : List Int) : Acts s (Machine.readSnapshotBody s l ops).state := by
  unfold Machine.readSnapshotBody
  split
  · split
    · exact .refl
    · refine unlessRefused fun _ => ?_
      split
      · exact whenTrue fun _ => setLatch ..
      · exact .refl
  · exact .refl

theorem captureStartBody (s : State) (l : Level) (ops : List Int) : Acts s (Machine.captureStartBody s l ops).state := by
  unfold Machine.captureStartBody
  split
  · refine ifPasses fun _ => unlessRefused fun _ => ?_
    split
    · exact .refl
    · exact unlessRefused fun _ => quiet rfl rfl rfl rfl
  · exact .refl

theorem captureStopBody (s : State) (l : Level) (ops : List Int) : Acts s (Machine.captureStopBody s l ops).state := by
  have hcapture (f : CaptureControl → CaptureControl) : Acts s ((s.modCapture f).answerOk []).state := turns (.modCapture s f)
  unfold Machine.captureStopBody
  split
  · split
    case h_4 => exact .refl
    case h_5 => exact .refl
    all_goals exact hcapture _
  · exact .refl

theorem triggerCaptureBody (s : State) (l : Level) (ops : List Int) : Acts s (Machine.triggerCaptureBody s l ops).state := by
  unfold Machine.triggerCaptureBody
  split
  · exact ifPasses fun _ => turns (.signal s .command 0)
  · exact .refl

/-! ## The commissioning and membership commands (chapter 2) -/

/-- An entry to BYPASS by command. -/
theorem enterBypass (s : State) (i : SecId) (cause : Cause) : Acts s (s.enterPassing i .bypass cause none none) :=
  of (.passing _ _ _ rfl)

theorem selectBody (s : State) (l : Level) (ops : List Int) : Acts s (Machine.selectBody s l ops).state := by
  refine onSection _ _ _ _ fun i _ => unlessRefused fun _ => ?_
  split
  · exact .refl
  · exact .trans (turns (.modMonitor ..)) (of (.passing _ _ _ rfl))

theorem deselectBody (s : State) (l : Level) (ops : List Int) : Acts s (Machine.deselectBody s l ops).state :=
  onSection _ _ _ _ fun _ _ => enterBypass ..

theorem startBody (s : State) (l : Level) (ops : List Int) (hp : s.permit = true) : Acts s (Machine.startBody s l ops).state := by
  refine onSection _ _ _ _ fun i hi => ?_
  split
  · exact .refl
  · split
    · exact .refl
    · split
      · exact .refl
      · split
        · exact of (.started i hp)
        · exact .refl

theorem freezeBody (s : State) (l : Level) (ops : List Int) : Acts s (Machine.freezeBody s l ops).state :=
  onSection _ _ _ _ fun _ hi => of (.turn (.frozen _ _ _ _ (of_decide_eq_true hi)))

theorem continueBody (s : State) (l : Level) (ops : List Int) (hp : s.permit = true) :
    Acts s (Machine.continueBody s l ops).state :=
  onSection _ _ _ _ fun i _ => of (.resumed i false hp)

theorem stepBody (s : State) (l : Level) (ops : List Int) (hp : s.permit = true) : Acts s (Machine.stepBody s l ops).state := by
  refine onSection _ _ _ _ fun i _ => ?_
  split
  · exact .refl
  · exact of (.resumed i true hp)

theorem stopBody (s : State) (l : Level) (ops : List Int) : Acts s (Machine.stopBody s l ops).state :=
  onSection _ _ _ _ fun _ hi => turns (.releaseRun (by simpa using hi) ..)

theorem abortBody (s : State) (l : Level) (ops : List Int) : Acts s (Machine.abortBody s l ops).state :=
  onSection _ _ _ _ fun _ _ => enterBypass ..

theorem calibrateBody (s : State) (l : Level) (ops : List Int) (hp : s.permit = true) :
    Acts s (Machine.calibrateBody s l ops).state := by
  refine onSection _ _ _ _ fun i hi => unlessRefused fun _ => unlessRefused fun _ => unlessRefused fun _ => unlessRefused fun _ =>
    unlessRefused fun _ => ?_
  split
  · exact .refl
  · exact of (.calibrating i hp)

theorem triggerBody (s : State) (l : Level) (ops : List Int) : Acts s (Machine.triggerBody s l ops).state :=
  onSection _ _ _ _ fun i _ => ifPasses fun _ => turns (.modProfile s i fun q => { q with cycleCount := 0 })

theorem clearFaultBody (s : State) (l : Level) (ops : List Int) : Acts s (Machine.clearFaultBody s l ops).state := by
  refine onSection _ _ _ _ fun i _ => ?_
  split
  · exact .refl
  · exact enterBypass ..

theorem addMemberBody (s : State) (l : Level) (ops : List Int) : Acts s (Machine.addMemberBody s l ops).state := by
  unfold Machine.addMemberBody
  split
  · split
    · exact .refl
    · split
      · exact .refl
      · refine unlessRefused fun _ => unlessRefused fun _ => unlessRefused fun _ => unlessRefused fun _ => ?_
        split
        · exact .refl
        · rename_i r hr
          exact of (.addMember _ (by simpa using List.find?_some hr))
  · exact .refl

theorem removeMemberBody (s : State) (l : Level) (ops : List Int) : Acts s (Machine.removeMemberBody s l ops).state :=
  onMember _ _ _ fun _ _ _ hr => of (.removeMember hr)

theorem makeLeadBody (s : State) (l : Level) (ops : List Int) : Acts s (Machine.makeLeadBody s l ops).state := by
  refine onMember _ _ _ fun i n r hr => ?_
  split
  · exact .refl
  · exact of (.makeLead hr)

theorem injectBody (s : State) (l : Level) (ops : List Int) : Acts s (Machine.injectBody s l ops).state := by
  unfold Machine.injectBody
  split
  · split
    · exact .refl
    · split
      · exact .refl
      · refine unlessRefused fun _ => unlessRefused fun _ => unlessRefused fun _ => unlessRefused fun _ => unlessRefused fun _ => ?_
        dsimp only [State.state_answerOk]
        exact turns (.takeFeedback ..)
  · exact .refl

theorem restartWork (s : State) : Acts s s.restartWork := by
  have hsection (t : State) (i : SecId) : Acts t (t.restartSection i) := ite (fun _ => .refl) fun _ => enterBypass ..
  have hrecords (t : State) (i : SecId) : Acts t (t.restartRecords i) := by
    unfold State.restartRecords State.clearLimits
    exact .trans (setLatch t i none) (turns (.modMonitor ..))
  have hcursors (t : State) : Acts t { t with observeCursor := Cursor.powerOn, commissionCursor := Cursor.powerOn } :=
    quiet rfl rfl rfl rfl
  have hempty (t : State) : Acts t { t with events := [] } := quiet rfl rfl rfl rfl
  have hevents (t : State) : Acts t t.restartEvents := (hempty t).trans (turns (.post ..))
  unfold State.restartWork
  dsimp only
  exact (foldl _ hsection _ s).trans <| (turns (.modCapture ..)).trans <| (hevents _).trans <| (hcursors _).trans <|
    (foldl _ hrecords _ _).trans <| foldl _ (fun t w => turns (.modWatch t w _)) _ _

/-! ## Requests (R161, R162) -/

/-- A row's request: the command's acts, in a permitted state where the row's least level is COMMISSION. -/
theorem serve (s : State) (row : CommandRow) (body : State → Level → List Int → Answer)
    (h : ∀ (t : State) (l : Level) (ops : List Int), (row.least = .commission → t.permit = true) → Acts t (body t l ops).state) :
    Acts s (s.serve row body) := by
  have hdrop : Acts s s.dropRequest := quiet rfl rfl rfl rfl
  unfold State.serve
  split
  · exact .refl
  · rename_i r level _
    dsimp only
    split
    · exact hdrop.trans (turns (.postReply ..))
    · rename_i hadmitted
      refine hdrop.trans ((h _ _ _ fun hleast => ?_).trans (turns (.postReply ..)))
      unfold State.admission at hadmitted
      split at hadmitted
      · cases hadmitted
      · rename_i hpermit
        split at hadmitted
        · cases hadmitted
        · rename_i hlevel
          cases level
          · exact absurd ⟨hleast, rfl⟩ hlevel
          · exact Bool.eq_true_of_not_eq_false fun hp => hpermit ⟨rfl, hp⟩

/-- A command of a powered bridge. -/
theorem of_whenPowered {s t : State} {f : State → State} (h : s.whenPowered f = .next t) (hf : Acts s (f s)) : Acts s t := by
  cases h
  exact whenTrue fun _ => hf

/-- A row's command. -/
theorem of_serve {s t : State} {row : CommandRow} {body : State → Level → List Int → Answer}
    (h : s.whenPowered (fun s => s.serve row body) = .next t)
    (hbody : ∀ (u : State) (l : Level) (ops : List Int), Acts u (body u l ops).state) : Acts s t :=
  of_whenPowered h (serve s row body fun u l ops _ => hbody u l ops)

/-- The command of a row that COMMISSION requests alone may ask for. -/
theorem of_permitted {s t : State} {row : CommandRow} {body : State → Level → List Int → Answer}
    (h : s.whenPowered (fun s => s.serve row body) = .next t) (hleast : row.least = .commission)
    (hbody : ∀ (u : State) (l : Level) (ops : List Int), u.permit = true → Acts u (body u l ops).state) : Acts s t :=
  of_whenPowered h (serve s row body fun u l ops hp => hbody u l ops (hp hleast))

/-! ## Every command -/

/-- The arbiter. -/
theorem arbitrate (s : State) : Acts s s.arbitrate := by
  have hsend (t : State) (x : UpPlace × ReadyFrame) : Acts t (t.sendUp x) := by
    obtain ⟨p, f⟩ := x
    cases p <;> exact quiet rfl rfl rfl rfl
  have hdraw : Acts s { s with freeDraws := s.freeDraws + 1 } := quiet rfl rfl rfl rfl
  unfold State.arbitrate
  split
  · exact .refl
  · exact hsend ..
  · exact hdraw.trans (hsend ..)

/-- The intake of a return. -/
theorem intake (s : State) (f : ReturnFrame) : Acts s (s.intake f) := by
  unfold State.intake
  split
  · exact turns (.takeFeedback ..)
  · exact .refl

/-- Sending the head of the downstream queue. -/
theorem sendDown (s : State) : Acts s s.sendDown := by
  unfold State.sendDown
  split
  · exact .refl
  · exact quiet rfl rfl rfl rfl

/-- Every command is acts, but for a power-up and a change of the permit line. -/
theorem of_exec {c : Instr} {s t : State} (h : exec c s = .next t) :
    Acts s t ∨ (∃ straps permit, t = s.powerUp straps permit) ∨ ∃ active, t = s.permitChange active := by
  cases c
  case powerOn straps permit => cases h; exact .inr (.inl ⟨straps, permit, rfl⟩)
  case resetLine straps permit =>
    cases h
    split
    · exact .inr (.inl ⟨straps, permit, rfl⟩)
    · exact .inl .refl
  case permitLineChange active =>
    cases h
    split
    · dsimp only
      split
      · exact .inl .refl
      · exact .inr (.inr ⟨active, rfl⟩)
    · exact .inl .refl
  all_goals left
  case lineTimerExpiry =>
    simp only [exec, execLineTimerExpiry] at h
    have hexpired : Acts s { s with timer := .expired } := quiet rfl rfl rfl rfl
    exact of_whenPowered h (whenTrue fun _ => hexpired.trans
      (foldl _ (fun u i => turns (.faultCondition u i .lineLost none none)) _ _))
  case dispatch f =>
    simp only [exec, execDispatch] at h
    exact of_whenPowered h (whenTrue fun _ => turns (.dispatchWork s f))
  case returnFrame f =>
    simp only [exec, execReturnFrame] at h
    exact of_whenPowered h ((turns (.forwardUp ..)).trans (intake ..))
  case serviceRequest f =>
    simp only [exec, execServiceRequest] at h
    refine of_whenPowered h (whenTrue fun _ => ite (fun _ => ?_) fun _ => turns (.forwardDown ..))
    exact whenTrue fun _ => quiet rfl rfl rfl rfl
  case otherStationFrame f =>
    simp only [exec, execOtherStationFrame] at h
    exact of_whenPowered h (whenTrue fun _ => turns (.forwardUp ..))
  case badFrame => cases h; exact .refl
  case upstreamSend =>
    simp only [exec, execUpstreamSend] at h
    exact of_whenPowered h (arbitrate s)
  case downstreamSend =>
    simp only [exec, execDownstreamSend] at h
    exact of_whenPowered h (sendDown s)
  case powerLoss =>
    simp only [exec, execPowerLoss] at h
    exact of_whenPowered h (quiet rfl rfl rfl rfl)
  case read => exact of_serve h readBody
  case write => exact of_serve h writeBody
  case readIndexed => exact of_serve h readIndexedBody
  case setCursor => exact of_serve h setCursorBody
  case readNext => exact of_serve h readNextBody
  case writeNext => exact of_serve h writeNextBody
  case readEvents => exact of_serve h readEventsBody
  case peekEvents => exact of_serve h peekEventsBody
  case restart =>
    simp only [exec, execRestart] at h
    have hdrop : Acts s s.dropRequest := quiet rfl rfl rfl rfl
    refine of_whenPowered h ?_
    split
    · exact .refl
    · split
      · exact hdrop.trans (turns (.postReply ..))
      · exact hdrop.trans ((turns (.postReply ..)).trans (restartWork _))
  case unknownCommandCode =>
    simp only [exec, execUnknownCommandCode] at h
    have hdrop : Acts s s.dropRequest := quiet rfl rfl rfl rfl
    refine of_whenPowered h ?_
    split
    · exact .refl
    · exact ite (fun _ => .refl) fun _ => hdrop.trans (turns (.postReply ..))
  case select => exact of_serve h selectBody
  case deselect => exact of_serve h deselectBody
  case start => exact of_permitted h rfl startBody
  case freeze => exact of_serve h freezeBody
  case continueTrial => exact of_permitted h rfl continueBody
  case stepRun => exact of_permitted h rfl stepBody
  case stopTrial => exact of_serve h stopBody
  case abort => exact of_serve h abortBody
  case calibrate => exact of_permitted h rfl calibrateBody
  case trigger => exact of_serve h triggerBody
  case clearFault => exact of_serve h clearFaultBody
  case addMember => exact of_serve h addMemberBody
  case removeMember => exact of_serve h removeMemberBody
  case makeLead => exact of_serve h makeLeadBody
  case injectFeedback => exact of_serve h injectBody
  case latchSnapshot => exact of_serve h latchBody
  case readSnapshot => exact of_serve h readSnapshotBody
  case captureStart => exact of_serve h captureStartBody
  case captureStop => exact of_serve h captureStopBody
  case triggerCapture => exact of_serve h triggerCaptureBody

end Acts

/-- A property that holds after power-up and that every act and a change of the permit line keep is kept by every step. -/
theorem KeptByStep.of_acts {P : State → Prop} (hup : ∀ (s : State) (straps : BitVec 6) (permit : Bool), P (s.powerUp straps permit))
    (hpermit : ∀ (s : State) (active : Bool), P s → P (s.permitChange active)) (hact : ∀ {s t : State}, Act s t → P s → P t) :
    KeptByStep P := by
  have hacts {s t : State} (h : Acts s t) (hs : P s) : P t := by
    induction h with
    | refl => exact hs
    | tail _ ha ih => exact hact ha ih
  intro s t hs ht
  unfold step at ht
  split at ht
  · cases ht; exact hs
  · rename_i c rest hc
    have hrest : P { s with pending := rest } := hacts (s := s) (.quiet rfl rfl rfl rfl) hs
    rcases Acts.of_exec ht with h | ⟨straps, permit, rfl⟩ | ⟨active, rfl⟩
    · exact hacts h hrest
    · exact hup _ straps permit
    · exact hpermit _ active hrest

end Sys2Proof.Machine
end

section
/-! PROOFS. What every step keeps of the permit line's hold on the section states (R39), of the trims, and of the trims, held offsets and
clamp flags of passing sections (R25, R61, R71, R74). -/

namespace Sys2Proof.Machine

/-! ## The permit line (R39) -/

/-- An entry touches no line. -/
theorem State.entryFrame.permit_eq {s t : State} (h : s.entryFrame t) : t.permit = s.permit := (congrArg State.permit (show t = _ from h) :)

/-- t has the permit line of s, and a section that needs the permit in t needed it in s or the line is active. -/
structure Permitted (s t : State) : Prop where
  permit : t.permit = s.permit
  states : ∀ i, (t.sec i).state.permitted = true → (s.sec i).state.permitted = true ∨ s.permit = true

/-- Work that leaves every section's state. -/
theorem Permitted.of_states {s t : State} (hp : t.permit = s.permit) (h : ∀ i, (t.sec i).state = (s.sec i).state) : Permitted s t :=
  ⟨hp, fun i hi => .inl (h i ▸ hi)⟩

/-- Work that leaves the states of all sections but one, which ends in a state that the permit allows. -/
theorem Permitted.of_section {s t : State} {i : SecId} (hp : t.permit = s.permit) (hother : ∀ j, j ≠ i → t.sec j = s.sec j)
    (hself : (t.sec i).state.permitted = true → (s.sec i).state.permitted = true ∨ s.permit = true) : Permitted s t := by
  refine ⟨hp, fun j hj => ?_⟩
  by_cases h : j = i
  · subst h; exact hself hj
  · exact .inl (hother j h ▸ hj)

/-- No state of a passing section needs the permit. -/
theorem SectionState.permitted_of_passing {st : SectionState} (h : st.rewriting = false) : st.permitted = false := by
  cases st <;> first | rfl | cases h

/-- An entry to BYPASS, SELECTED or FAULTED. -/
theorem Permitted.passing (s : State) (i : SecId) {st : SectionState} (cause : Cause) (node : Option NodeId) (pos : Option Pos)
    (h : st.rewriting = false) : Permitted s (s.enterPassing i st cause node pos) := by
  obtain ⟨hframe, hsec, hother, _⟩ := s.enterPassing_spec i st cause node pos
  refine .of_section hframe.permit_eq hother fun hp => ?_
  rw [hsec] at hp
  exact absurd ((SectionState.permitted_of_passing h).symm.trans hp) Bool.false_ne_true

/-- A turn gives no section a state that needs the permit, but FROZEN to one in TRIAL. -/
theorem Turn.permitted {s t : State} (h : Turn s t) : Permitted s t := by
  cases h with
  | plain h => exact .of_states h.permit fun i => (h.sec i).state
  | issue c hs hc => exact .of_states (by rw [State.issue_frame]) fun i => by rw [State.issue_frame]; rfl
  | trims hs => exact .of_states (State.permit_modMembers ..) fun i => by rw [State.updateTrims, State.sec_modMembers]
  | decay hs => exact .of_states (State.permit_modMembers ..) fun i => by rw [State.decayOffsets, State.sec_modMembers]
  | passing cause node pos hs hst => exact .passing _ _ _ _ _ hst
  | frozen cause src node pos hs =>
    obtain ⟨hframe, _, hother, _⟩ := State.enterFrozen_spec s _ cause src node pos
    exact .of_section hframe.permit_eq hother fun _ => .inl (by rw [hs]; rfl)
  | releasing target cause result node pos hs =>
    obtain ⟨hframe, hsec, hother, _⟩ := State.enterReleasing_spec s _ target cause result node pos
    refine .of_section hframe.permit_eq hother fun hp => ?_
    rw [hsec] at hp
    cases hp

/-- An act gives a section a state that needs the permit only while the line is active. -/
theorem Act.permitted {s t : State} (h : Act s t) : Permitted s t := by
  cases h with
  | turn h => exact h.permitted
  | passing cause node pos hst => exact .passing _ _ _ _ _ hst
  | started i hp =>
    obtain ⟨_, hother, _, hframe⟩ := s.startTrial_spec i
    exact .of_section (congrArg State.permit hframe :) hother fun _ => .inr hp
  | resumed i pending hp =>
    obtain ⟨hframe, _, hother, _⟩ := s.resumeTrial_spec i pending
    exact .of_section hframe.permit_eq hother fun _ => .inr hp
  | calibrating i hp =>
    obtain ⟨hframe, _, _, hother, _⟩ := s.enterCalibrating_spec i
    exact .of_section hframe.permit_eq hother fun _ => .inr hp
  | config i hf => exact .of_states rfl fun j => by rw [State.modCfg, State.sec_modSec]; split <;> simp_all
  | trimLimit i h0 h1 =>
    refine .of_states (by rw [State.frame_writeTrimLimit]) fun j => ?_
    rw [State.sec_writeTrimLimit, State.modCfg, State.sec_modSec]
    split <;> simp_all
  | addMember w hr => exact .of_states rfl fun j => by rw [State.sec_addMember]; split <;> simp_all
  | removeMember hr =>
    exact .of_states (by rw [State.removeMember_frame]) fun j => by rw [State.sec_removeMember]; split <;> simp_all
  | makeLead hr => exact .of_states (by rw [State.makeLead_frame]) fun j => by rw [State.sec_makeLead]; split <;> simp_all

/-- The states that PermitRespected excludes. -/
theorem permitRespected_iff (s : State) : PermitRespected s ↔ (s.permit = false → ∀ i, (s.sec i).state.permitted = false) := by
  have h (st : SectionState) : (st ≠ .trial ∧ st ≠ .frozen ∧ st ≠ .calibrating) ↔ st.permitted = false := by
    cases st <;> decide
  simp only [PermitRespected, h]

/-- Settles O56: TRIAL and CALIBRATING are entered by commands alone, which the permit line must allow, and the loss of the line leaves no
section in a state that needs it. -/
theorem permitStaysRespected : Obligations.PermitStaysRespected := by
  unfold Obligations.PermitStaysRespected
  refine KeptByStep.of_acts (fun s straps permit => ?_) (fun s active _ => ?_) fun {s t} hact hs => ?_
  · rw [permitRespected_iff]
    intro _ i
    show (State.reset.sec i).state.permitted = false
    rw [State.sec_reset]
    rfl
  · rw [permitRespected_iff]
    intro hp i
    unfold State.permitChange at hp ⊢
    dsimp only at hp ⊢
    rw [State.sec_post]
    cases active with
    | true =>
      rw [State.permit_post] at hp
      cases hp
    | false =>
      rw [if_neg (by decide), (State.permitLost_all _).sec_all]
      exact permitLoss_not_permitted _
  · rw [permitRespected_iff] at hs ⊢
    intro hp i
    obtain ⟨hpermit, hstates⟩ := hact.permitted
    rw [hpermit] at hp
    refine Bool.eq_false_iff.2 fun hi => ?_
    rcases hstates i hi with h | h
    · exact Bool.eq_false_iff.1 (hs hp i) h
    · exact Bool.eq_false_iff.1 hp h

end Sys2Proof.Machine
end

section
/-! PROOFS. What every step keeps of the trims, and of the trims, held offsets and clamp flags of passing sections (R25, R61, R71, R74). -/

namespace Sys2Proof.Machine

/-! ## Bounded records -/

/-- A member's trim lies within the trim limit of its section, and where the section passes the line's references the trim and the held
offset are 0 and the clamp flag NONE. -/
structure PoolRecord.Within (x : Section) (y : PoolRecord) : Prop where
  trim : -x.cfg.trimLimit ≤ y.trim ∧ y.trim ≤ x.cfg.trimLimit
  clean : x.state.rewriting = false → y.trim = 0 ∧ y.held = 0 ∧ y.clamp = .none

/-- Every member's record is in use and within its section's bounds, no record stands twice in the lists, and configuration is in range. -/
structure Bounded (s : State) : Prop where
  config : ∀ i, (s.sec i).cfg.InRange
  nodup : ∀ i, (s.members i).Nodup
  disjoint : ∀ {i j r}, r ∈ s.members i → r ∈ s.members j → i = j
  record : ∀ {i r}, r ∈ s.members i → (s.member r).inUse = true ∧ (s.member r).Within (s.sec i)

/-- The bounds are the three properties, where the lists are consistent. -/
theorem bounded_iff {s : State} (hm : MembersConsistent s) :
    Bounded s ↔ ConfigInRange s ∧ TrimsInLimit s ∧ PassingMembersClean s := by
  constructor
  · intro h
    exact ⟨h.config, fun i r hr => (h.record hr).2.trim, fun i r hi hr => (h.record hr).2.clean hi⟩
  · rintro ⟨hconfig, htrims, hclean⟩
    exact ⟨hconfig, hm.nodup, hm.list_unique, fun hr => ⟨(hm.record_of_mem hr).1, htrims _ _ hr, fun hi => hclean _ _ hi hr⟩⟩

/-- The trim limit is not negative. -/
theorem Bounded.limit_nonneg {s : State} (h : Bounded s) (i : SecId) : 0 ≤ (s.sec i).cfg.trimLimit := by
  have hc := h.config i
  unfold SectionConfig.InRange at hc
  omega

/-- A member of a rewriting section is within its bounds where its trim is. -/
theorem PoolRecord.Within.of_rewriting {x : Section} {y : PoolRecord} (hx : x.state.rewriting = true)
    (ht : -x.cfg.trimLimit ≤ y.trim ∧ y.trim ≤ x.cfg.trimLimit) : y.Within x :=
  ⟨ht, fun h => absurd (h.symm.trans hx) Bool.false_ne_true⟩

/-- A record with trim 0, held offset 0 and no clamp flag is within the bounds of any section. -/
theorem PoolRecord.Within.of_clean {x : Section} {y : PoolRecord} (hx : 0 ≤ x.cfg.trimLimit) (h1 : y.trim = 0) (h2 : y.held = 0)
    (h3 : y.clamp = .none) : y.Within x := by
  refine ⟨?_, fun _ => ⟨h1, h2, h3⟩⟩
  rw [h1]
  omega

/-- A record's bounds depend on state, configuration, trim, held offset and clamp flag alone. -/
theorem PoolRecord.Within.alike {x x' : Section} {y y' : PoolRecord} (h : y.Within x) (hx : x.Alike x') (hy : y.Alike y') :
    y'.Within x' := by
  obtain ⟨htrim, hclean⟩ := h
  refine ⟨?_, fun hst => ?_⟩
  · rw [hx.cfg, hy.trim]; exact htrim
  · rw [hx.state] at hst
    rw [hy.trim, hy.held, hy.clamp]
    exact hclean hst

/-! ## Changes of one section -/

/-- A change of one section, its list and its members' records that leaves other sections and their members. -/
theorem Bounded.of_section {s t : State} (hs : Bounded s) {i : SecId} (hother : ∀ j, j ≠ i → t.sec j = s.sec j)
    (hconfig : (t.sec i).cfg.InRange) (hnodup : (t.members i).Nodup)
    (hin : ∀ q ∈ t.members i, (∀ j, q ∈ s.members j → j = i) ∧ (t.member q).inUse = true ∧ (t.member q).Within (t.sec i))
    (hout : ∀ q j, j ≠ i → q ∈ s.members j → t.member q = s.member q) : Bounded t := by
  have hmembers {j : SecId} (hj : j ≠ i) : t.members j = s.members j := congrArg Section.members (hother j hj)
  refine ⟨fun j => ?_, fun j => ?_, fun {j k r} hj hk => ?_, fun {j r} hr => ?_⟩
  · by_cases h : j = i
    · subst h; exact hconfig
    · rw [hother j h]; exact hs.config j
  · by_cases h : j = i
    · subst h; exact hnodup
    · rw [hmembers h]; exact hs.nodup j
  · by_cases h : j = i <;> by_cases h' : k = i
    · rw [h, h']
    · subst h
      rw [hmembers h'] at hk
      exact absurd ((hin r hj).1 k hk) h'
    · subst h'
      rw [hmembers h] at hj
      exact absurd ((hin r hk).1 j hj) h
    · rw [hmembers h] at hj
      rw [hmembers h'] at hk
      exact hs.disjoint hj hk
  · by_cases h : j = i
    · subst h; exact (hin r hr).2
    · rw [hmembers h] at hr
      rw [hout r j h hr, hother j h]
      exact hs.record hr

/-- A change of one section and its members' records that leaves its list and configuration. -/
theorem Bounded.of_members {s t : State} (hs : Bounded s) {i : SecId} {x : Section} (hself : t.sec i = x)
    (hother : ∀ j, j ≠ i → t.sec j = s.sec j)
    (hin : ∀ q ∈ s.members i, (t.member q).inUse = (s.member q).inUse ∧ ((s.member q).Within (s.sec i) → (t.member q).Within x))
    (hout : ∀ q, q ∉ s.members i → t.member q = s.member q) (hlist : x.members = s.members i := by rfl)
    (hcfg : x.cfg = (s.sec i).cfg := by rfl) : Bounded t := by
  subst hself
  have hlist' : t.members i = s.members i := hlist
  refine hs.of_section hother (hcfg ▸ hs.config i) (hlist' ▸ hs.nodup i) (fun q hq => ?_) fun q j hj hq => ?_
  · rw [hlist'] at hq
    obtain ⟨hused, hwithin⟩ := hs.record hq
    obtain ⟨huse, hkept⟩ := hin q hq
    exact ⟨fun j hj => hs.disjoint hj hq, huse.trans hused, hkept hwithin⟩
  · exact hout q fun hi => hj (hs.disjoint hq hi)

/-- A change of one section and of every member's record in one way. -/
theorem Bounded.of_change {s t : State} (hs : Bounded s) {i : SecId} {x : Section} {f : PoolRecord → PoolRecord} (hself : t.sec i = x)
    (hother : ∀ j, j ≠ i → t.sec j = s.sec j)
    (hmember : ∀ q, t.member q = if q ∈ s.members i then f (s.member q) else s.member q)
    (hwithin : ∀ y : PoolRecord, y.Within (s.sec i) → (f y).Within x) (huse : ∀ y, (f y).inUse = y.inUse := by intro; rfl)
    (hlist : x.members = s.members i := by rfl) (hcfg : x.cfg = (s.sec i).cfg := by rfl) : Bounded t := by
  refine hs.of_members hself hother (fun q hq => ?_) (fun q hq => ?_) hlist hcfg
  · rw [hmember, if_pos hq]
    exact ⟨huse _, hwithin _⟩
  · rw [hmember, if_neg hq]

/-- An entry to BYPASS, SELECTED or FAULTED cleans the members (R25, R74). -/
theorem Bounded.passing {s : State} (hs : Bounded s) (i : SecId) (st : SectionState) (cause : Cause) (node : Option NodeId)
    (pos : Option Pos) : Bounded (s.enterPassing i st cause node pos) := by
  obtain ⟨_, hsec, hother, hmember, _⟩ := s.enterPassing_spec i st cause node pos
  exact hs.of_change hsec hother hmember fun _ _ => .of_clean (hs.limit_nonneg i) rfl rfl rfl

/-! ## Every turn -/

/-- A member's record after the trims were written (R71). -/
def State.trimmed (s : State) (i : SecId) (y : PoolRecord) : PoolRecord :=
  { y with trim := saturate (s.sec i).cfg.trimLimit (y.provisionalTrim (s.sec i).cfg.shareGain -
      trimMean ((s.members i).map fun r => (s.member r).provisionalTrim (s.sec i).cfg.shareGain)) }

/-- The trims of a list without repetition are written once each. -/
theorem State.member_updateTrims (s : State) {i : SecId} (h : (s.members i).Nodup) (q : RecId) :
    (s.updateTrims i).member q = if q ∈ s.members i then s.trimmed i (s.member q) else s.member q :=
  State.member_modRecs (s.trimmed i) q _ s h

/-- The held offsets of a list without repetition decay once each (R59). -/
theorem State.member_decayOffsets (s : State) {i : SecId} (h : (s.members i).Nodup) (q : RecId) :
    (s.decayOffsets i).member q =
      if q ∈ s.members i then { s.member q with held := decay (s.sec i).cfg.releaseRate (s.member q).held } else s.member q :=
  State.member_modRecs (fun y => { y with held := decay (s.sec i).cfg.releaseRate y.held }) q _ s h

/-- Every turn keeps the bounds. -/
theorem Turn.keeps_bounded {s t : State} (h : Turn s t) (hs : Bounded s) : Bounded t := by
  cases h with
  | plain h =>
    have hmembers (i : SecId) : t.members i = s.members i := (h.sec i).members
    refine ⟨fun i => (h.sec i).cfg ▸ hs.config i, fun i => hmembers i ▸ hs.nodup i,
      fun hi hj => hs.disjoint (hmembers _ ▸ hi) (hmembers _ ▸ hj), fun {i r} hr => ?_⟩
    obtain ⟨hused, hwithin⟩ := hs.record (hmembers i ▸ hr)
    exact ⟨(h.member r).inUse.trans hused, hwithin.alike (h.sec i) (h.member r)⟩
  | @issue i c hst hc =>
    have hsec (j : SecId) : (s.issue i c).sec j = s.sec j := by rw [State.issue_frame]; rfl
    refine hs.of_members (hsec i) (fun j _ => hsec j) (fun q _ => ?_) fun q hq => ?_
    · rw [State.member_issue]
      split
      · exact ⟨rfl, fun hw => .of_rewriting hst hw.trim⟩
      · exact ⟨rfl, id⟩
    · rw [State.member_issue, if_neg (by rintro rfl; exact hq hc)]
  | @trims i hst =>
    have hsec (j : SecId) : (s.updateTrims i).sec j = s.sec j := State.sec_modMembers ..
    exact hs.of_change (hsec i) (fun j _ => hsec j) (s.member_updateTrims (hs.nodup i)) fun y _ =>
      .of_rewriting (by rw [hst]; rfl) (saturate_inRange _ (hs.limit_nonneg i))
  | @decay i hst =>
    have hsec (j : SecId) : (s.decayOffsets i).sec j = s.sec j := State.sec_modMembers ..
    exact hs.of_change (hsec i) (fun j _ => hsec j) (f := fun y => { y with held := Sys2Proof.Machine.decay (s.sec i).cfg.releaseRate y.held })
      (s.member_decayOffsets (hs.nodup i)) fun y hy =>
      .of_rewriting (by rw [hst]; rfl) hy.trim
  | passing cause node pos hst hst' => exact hs.passing ..
  | @frozen i cause src node pos hst =>
    obtain ⟨_, hsec, hother, hmember, _⟩ := s.enterFrozen_spec i cause src node pos
    exact hs.of_change (f := fun y => y.withOffset (s.sec i).issueBase) hsec hother hmember fun _ hy => .of_rewriting rfl hy.trim
  | @releasing i target cause result node pos hst =>
    obtain ⟨_, hsec, hother, hmember, _⟩ := s.enterReleasing_spec i target cause result node pos
    exact hs.of_change (f := fun y => y.withOffset (s.sec i).issueBase) hsec hother hmember fun _ hy => .of_rewriting rfl hy.trim

/-! ## Every act -/

/-- A write of configuration that leaves the trim limit. -/
theorem Bounded.config_write {s : State} (hs : Bounded s) (i : SecId) {f : SectionConfig → SectionConfig} (hf : SectionConfig.Kept f) :
    Bounded (s.modCfg i f) := by
  have hself : (s.modCfg i f).sec i = { s.sec i with cfg := f (s.sec i).cfg } := State.sec_modSec_self ..
  have hlist : (s.modCfg i f).members i = s.members i := (congrArg Section.members hself :)
  refine hs.of_section (fun j hj => State.sec_modSec_ne _ hj _) ?_ (hlist ▸ hs.nodup i) (fun q hq => ?_) fun _ _ _ _ => rfl
  · rw [hself]
    exact hf.inRange _ (hs.config i)
  · rw [hlist] at hq
    obtain ⟨hused, htrim, hclean⟩ := hs.record hq
    refine ⟨fun j hj => hs.disjoint hj hq, hused, ?_⟩
    rw [hself]
    exact ⟨(hf.trimLimit (s.sec i).cfg).symm ▸ htrim, hclean⟩

/-- A write of the trim limit, which clamps the trims at once where it lowers it (R72). -/
theorem Bounded.trimLimit_write {s : State} (hs : Bounded s) (i : SecId) {v : Int} (h0 : 0 ≤ v) (h1 : v ≤ 20000) :
    Bounded (s.writeTrimLimit i v) := by
  have hsec (j : SecId) : (s.writeTrimLimit i v).sec j =
      if j = i then { s.sec i with cfg := { (s.sec i).cfg with trimLimit := v } } else s.sec j :=
    (s.sec_writeTrimLimit i v j).trans (State.sec_modSec ..)
  have hself := (hsec i).trans (if_pos rfl)
  have hlist : (s.writeTrimLimit i v).members i = s.members i := (congrArg Section.members hself :)
  refine hs.of_section (fun j hj => (hsec j).trans (if_neg hj)) ?_ (hlist ▸ hs.nodup i) (fun q hq => ?_) fun q j hj hq => ?_
  · have hc := hs.config i
    rw [hself]
    unfold SectionConfig.InRange at hc ⊢
    dsimp only
    omega
  · rw [hlist] at hq
    obtain ⟨hused, htrim, hclean⟩ := hs.record hq
    rw [s.member_writeTrimLimit i h0, hself]
    refine ⟨fun j hj => hs.disjoint hj hq, ?_⟩
    split
    · refine ⟨hused, saturate_inRange _ h0, fun hst => ?_⟩
      obtain ⟨ht, hrest⟩ := hclean hst
      refine ⟨?_, hrest⟩
      dsimp only
      rw [ht, saturate, clampTo, if_neg (by omega), if_neg (by omega)]
    · rename_i hv
      have hle : (s.sec i).cfg.trimLimit ≤ v := Int.not_lt.1 fun h => hv ⟨hq, h⟩
      refine ⟨hused, ?_, hclean⟩
      dsimp only
      omega
  · rw [s.member_writeTrimLimit i h0, if_neg fun h => hj (hs.disjoint hq h.1)]

/-- A record that joins a list is clean (R10). -/
theorem Bounded.addMember {s : State} (hs : Bounded s) (i : SecId) (n : NodeId) {r : RecId} (w : Nat)
    (hr : (s.member r).inUse = false) : Bounded (s.addMember i n w r) := by
  have hnew {j : SecId} (h : r ∈ s.members j) : False := Bool.false_ne_true (hr.symm.trans (hs.record h).1)
  have hself := (s.sec_addMember i n w r i).trans (if_pos rfl)
  have hlist : (s.addMember i n w r).members i = s.members i ++ [r] := congrArg Section.members hself
  refine hs.of_section (fun j hj => (s.sec_addMember i n w r j).trans (if_neg hj)) ?_ ?_ (fun q hq => ?_) fun q j hj hq => ?_
  · rw [hself]; exact hs.config i
  · rw [hlist, List.nodup_append']
    exact ⟨hs.nodup i, List.nodup_singleton r, fun q hq hqr => hnew (List.mem_singleton.1 hqr ▸ hq)⟩
  · rw [hlist, List.mem_append, List.mem_singleton] at hq
    rw [State.member_addMember, hself]
    rcases hq with hq | rfl
    · rw [if_neg (by rintro rfl; exact hnew hq)]
      obtain ⟨hused, htrim, hclean⟩ := hs.record hq
      exact ⟨fun j hj => hs.disjoint hj hq, hused, htrim, hclean⟩
    · rw [if_pos rfl]
      exact ⟨fun j hj => (hnew hj).elim, rfl, .of_clean (hs.limit_nonneg i) rfl rfl rfl⟩
  · rw [State.member_addMember, if_neg (by rintro rfl; exact hnew hq)]

/-- A shorter or reordered list whose records have only their positions written (R9, R10). -/
theorem Bounded.relist {s t : State} (hs : Bounded s) {i : SecId} {ms : List RecId} (hnodup : ms.Nodup) (hsub : ∀ q ∈ ms, q ∈ s.members i)
    (hsec : ∀ j, t.sec j = if j = i then { s.sec i with members := ms, lastSet := none } else s.sec j)
    (hplace : ∀ (k : Nat) (q : RecId), ms[k]? = some q → t.member q = { s.member q with position := some (Fin.ofNat 4 k) })
    (hout : ∀ q, q ∉ s.members i → t.member q = s.member q) : Bounded t := by
  have hself := (hsec i).trans (if_pos rfl)
  have hlist : t.members i = ms := congrArg Section.members hself
  refine hs.of_section (fun j hj => (hsec j).trans (if_neg hj)) ?_ (hlist ▸ hnodup) (fun q hq => ?_) fun q j hj hq => ?_
  · rw [hself]; exact hs.config i
  · rw [hlist] at hq
    obtain ⟨k, hk⟩ := List.getElem?_of_mem hq
    obtain ⟨hused, htrim, hclean⟩ := hs.record (hsub q hq)
    rw [hplace k q hk, hself]
    exact ⟨fun j hj => hs.disjoint hj (hsub q hq), hused, htrim, hclean⟩
  · exact hout q fun hi => hj (hs.disjoint hq hi)

/-- Every act keeps the bounds. -/
theorem Act.keeps_bounded {s t : State} (h : Act s t) (hs : Bounded s) : Bounded t := by
  cases h with
  | turn h => exact h.keeps_bounded hs
  | passing cause node pos hst => exact hs.passing ..
  | started i hp =>
    obtain ⟨hsec, hother, hmember, _⟩ := s.startTrial_spec i
    have hlimit := hs.limit_nonneg i
    exact hs.of_change (f := fun y => { y with trim := 0, clamp := .none }) hsec hother hmember fun _ _ =>
      .of_rewriting rfl (by dsimp only; omega)
  | resumed i pending hp =>
    obtain ⟨_, hsec, hother, hmember, _⟩ := s.resumeTrial_spec i pending
    exact hs.of_change (f := fun y => { y with held := 0 }) hsec hother hmember fun _ hy => .of_rewriting rfl hy.trim
  | calibrating i hp =>
    obtain ⟨_, hpool, hsec, hother, _⟩ := s.enterCalibrating_spec i
    exact hs.of_change (f := id) hsec hother (fun q => (State.member_of_eq hpool q).trans (ite_self _).symm) fun _ hy =>
      .of_rewriting rfl hy.trim
  | config i hf => exact hs.config_write i hf
  | trimLimit i h0 h1 => exact hs.trimLimit_write i h0 h1
  | addMember w hr => exact hs.addMember _ _ w hr
  | @removeMember i n r hr =>
    exact hs.relist ((hs.nodup i).filter _) (fun q hq => List.mem_of_mem_filter hq) (s.sec_removeMember i n r)
      (fun k q hk => State.member_removeMember n r (hs.nodup i) hk) fun q hq => State.member_removeMember_other n hr hq
  | @makeLead i r hr =>
    exact hs.relist (nodup_leadFirst r (hs.nodup i)) (fun q hq => mem_of_mem_leadFirst hr hq) (s.sec_makeLead i r)
      (fun k q hk => State.member_makeLead r (hs.nodup i) hk) fun q hq => State.member_makeLead_other hr hq

/-- The loss of the permit line is made of turns. -/
theorem Turns.permitLost (s : State) (i : SecId) : Turns s (s.permitLost i) := by
  have hrelease (h : (s.sec i).state.rewriting = true) :
      Turns s (s.enterReleasing i .bypass .permit (.abandoned .permit) none none) := of (.releasing _ _ _ _ _ (.inl h))
  unfold State.permitLost
  split <;> rename_i h
  case h_1 => exact hrelease (by rw [h]; rfl)
  case h_2 => exact hrelease (by rw [h]; rfl)
  case h_3 => exact hrelease (by rw [h]; rfl)
  case h_4 => exact modSec ..
  all_goals exact .refl

/-- Turns keep the bounds. -/
theorem Turns.keep_bounded {s t : State} (h : Turns s t) (hs : Bounded s) : Bounded t := by
  induction h with
  | refl => exact hs
  | tail _ ht ih => exact ht.keeps_bounded ih

/-- The bounds hold after every step from a state where they hold. -/
theorem boundedStays : KeptByStep Bounded := by
  refine KeptByStep.of_acts (fun s straps permit => ?_) (fun s active hs => ?_) Act.keeps_bounded
  · have hempty (i : SecId) : (s.powerUp straps permit).members i = [] := State.members_reset i
    refine ⟨configInRange_reset, fun i => ?_, fun {i} _ _ hr => ?_, fun {i} _ hr => ?_⟩
    · rw [hempty]; exact List.nodup_nil
    · rw [hempty] at hr; cases hr
    · rw [hempty] at hr; cases hr
  · have hline : Bounded { s with permit := active } := ⟨hs.config, hs.nodup, hs.disjoint, hs.record⟩
    have hlost : Turns { s with permit := active } (s.permitChange active) :=
      (Turns.ite (fun _ => .refl) fun _ => Turns.forSections _ Turns.permitLost _).trans (Turns.post ..)
    exact hlost.keep_bounded hline

/-- Settles O58: beside the consistency of the lists, every step keeps the bounds. -/
theorem trimsAndOffsetsStayBounded : Obligations.TrimsAndOffsetsStayBounded := by
  unfold Obligations.TrimsAndOffsetsStayBounded
  rintro s t ⟨hmembers, hrest⟩ hstep
  have hmembers' := membersStayConsistent s t hmembers hstep
  exact ⟨hmembers', (bounded_iff hmembers').1 (boundedStays s t ((bounded_iff hmembers).2 hrest) hstep)⟩

end Sys2Proof.Machine
end

section
/-! SUPPORT. The phases of a dispatch (R52, R153), what each keeps, and what none after the close of the sets touches. -/

namespace Sys2Proof.Machine

/-! ## The phases by name -/

/-- s when the dispatch of this cycle number has been accepted and its sets are open (R83, R153, R158). -/
def State.opened (s : State) (cycle : Word16) : State :=
  { s with cycle := cycle, timer := .running, timerPeriod := s.timeout, cycleOpen := true }

/-- Step 1 and the LINE occurrences of a dispatch. -/
def State.arrived (s : State) (f : DispatchFrame) : Watched := (s.startCycle f.cycle).lineArrival f.entries

/-- Steps 2 to 4: the sets closed, the line references, the engine and the profiles. -/
def State.profiled (s : State) (f : DispatchFrame) : Advanced :=
  ((s.arrived f).state.cycleWork s.previousCycle f.entries).advanceProfiles

/-- Steps 5 and 6: the references of a dispatch. -/
def State.referenced (s : State) (f : DispatchFrame) : Formed := (s.profiled f).state.formReferences f.entries

/-- The frame that a dispatch forwards (R56, R154). -/
def State.forwarded (s : State) (f : DispatchFrame) : DispatchFrame :=
  { f with entries := f.entries.map (Entry.rewrite (s.referenced f).rewrites) }

/-- The ISSUED occurrences of a dispatch (R130). -/
def State.issued (s : State) (f : DispatchFrame) : Watched :=
  (s.forwarded f).entries.zipIdx.foldl (Watched.issuedEntry (s.referenced f).skips) ⟨(s.referenced f).state, []⟩

/-- The late requests of a dispatch (R102, R132). -/
def State.requested (s : State) (f : DispatchFrame) : State :=
  (s.issued f).state.takeLates (s.profiled f).late ((s.arrived f).late ++ (s.issued f).late)

/-- The work of a dispatch, by its phases. -/
theorem State.dispatchWork_eq (s : State) (f : DispatchFrame) : s.dispatchWork f =
    (((s.requested f).forwardDown (.dispatch (s.forwarded f))).takeSweep
      ⟨f.entries, (s.forwarded f).entries, s.previousCycle⟩).placeStationFrame := rfl

/-! ## Membership and configuration through the phases -/

namespace Stable

/-- Opening a cycle before or after stable work is the same. -/
theorem reopen {s t : State} (h : Stable s t) : Stable { s with cycleOpen := true } { t with cycleOpen := true } :=
  ⟨congrArg (fun u : State => { u with cycleOpen := true }) h.frame, h.sec, h.rec', h.map⟩

/-- Drawing free values before or after stable work is the same. -/
theorem redraw {s t : State} (h : Stable s t) (k : Nat) : Stable { s with freeDraws := k } { t with freeDraws := k } :=
  ⟨congrArg (fun u : State => { u with freeDraws := k }) h.frame, h.sec, h.rec', h.map⟩

theorem lineArrival (s : State) (entries : List Entry) : Stable s (s.lineArrival entries).state := by
  refine .trans (forSections (State.overrideStep entries) (overrideStep entries) s) ?_
  unfold State.lineArrival
  generalize s.forSections (State.overrideStep entries) = t
  exact foldlOn Watched.state Watched.lineEntry lineEntry entries ⟨t, []⟩

theorem openSets (s : State) : Stable s s.openSets where
  frame := rfl
  sec i := by
    unfold State.members
    rw [State.sec_openSets]
    exact ⟨rfl, rfl, rfl⟩
  rec' _ := ⟨rfl, rfl, rfl, rfl, rfl⟩
  map n := by
    rw [State.drive_openSets]
    exact ⟨rfl, rfl⟩

/-- The close of the sets opens the cycle, and else keeps membership and configuration. -/
theorem closeSets {s : State} {previous : Option Word16} (h : previous = none ∨ s.cycleOpen = true) :
    Stable { s with cycleOpen := true } (s.closeSets previous) := by
  cases previous with
  | none => exact refl _
  | some c =>
    have hopen : { s with cycleOpen := true } = s := by rw [← h.resolve_left (by simp)]
    rw [hopen]
    exact (forSections _ (closeSet c) s).trans (openSets _)

theorem cycleWork {s : State} {previous : Option Word16} (entries : List Entry) (h : previous = none ∨ s.cycleOpen = true) :
    Stable { s with cycleOpen := true } (s.cycleWork previous entries) :=
  (closeSets h).trans ((forSections _ (lineStep entries) _).trans (engineDispatch _))

theorem advanceProfiles (s : State) : Stable s s.advanceProfiles.state := by
  unfold State.advanceProfiles
  generalize sectionIds = is
  refine foldlOn Advanced.state _ (fun a i => ?_) is ⟨s, []⟩
  exact advanceProfile a.state i

theorem formReferences (s : State) (entries : List Entry) : Stable s (s.formReferences entries).state := by
  unfold State.formReferences
  generalize sectionIds = is
  exact foldlOn Formed.state (Formed.takeSection entries) (takeSection entries) is ⟨s, [], []⟩

/-- Everything up to the profiles. -/
theorem profiled (s : State) (f : DispatchFrame) : Stable (s.opened f.cycle) (s.profiled f).state := by
  have harrived : Stable (s.startCycle f.cycle) (s.arrived f).state := lineArrival ..
  have hopen : s.previousCycle = none ∨ (s.arrived f).state.cycleOpen = true := by
    have hkept : (s.arrived f).state.cycleOpen = s.cycleOpen := (congrArg State.cycleOpen harrived.frame :)
    unfold State.previousCycle
    rw [hkept]
    cases s.cycleOpen
    · exact .inl rfl
    · exact .inr rfl
  exact harrived.reopen.trans ((cycleWork f.entries hopen).trans (advanceProfiles _))

/-- Everything up to the references. -/
theorem referenced (s : State) (f : DispatchFrame) : Stable (s.opened f.cycle) (s.referenced f).state :=
  (profiled s f).trans (formReferences ..)

theorem issuedEntries (s : State) (skips : List (WatchId × Nat)) (l : List (Entry × Nat)) :
    Stable s (l.foldl (Watched.issuedEntry skips) ⟨s, []⟩).state :=
  foldlOn Watched.state _ (issuedEntry skips) l ⟨s, []⟩

/-- Everything up to the ISSUED occurrences. -/
theorem issued (s : State) (f : DispatchFrame) : Stable (s.opened f.cycle) (s.issued f).state :=
  (referenced s f).trans (issuedEntries ..)

/-- The late requests, and the free value that their order may draw. -/
theorem takeLates (s : State) (profile watch : List LateRequest) :
    ∃ k, Stable { s with freeDraws := k } (s.takeLates profile watch) := by
  unfold State.takeLates State.orderLate
  dsimp only
  split
  · exact ⟨s.freeDraws, foldl _ takeLate _ _⟩
  · split
    · exact ⟨s.freeDraws, foldl _ takeLate _ _⟩
    · exact ⟨s.freeDraws + 1, foldl _ takeLate _ _⟩

/-- Everything up to the forwarding. -/
theorem requested (s : State) (f : DispatchFrame) : ∃ k, Stable { s.opened f.cycle with freeDraws := k } (s.requested f) := by
  obtain ⟨k, hk⟩ := takeLates (s.issued f).state (s.profiled f).late ((s.arrived f).late ++ (s.issued f).late)
  exact ⟨k, ((issued s f).redraw k).trans hk⟩

end Stable

/-- A sweep changes the capture control, the buffer and the events alone (R144). -/
theorem State.takeSweep_frame (s : State) (v : FrameView) : s.takeSweep v = { s with
    capture := (s.takeSweep v).capture, buffer := (s.takeSweep v).buffer, events := (s.takeSweep v).events
    nextSequence := (s.takeSweep v).nextSequence } := by
  have hwrite (rs : List CaptureRecord) : rs.foldl State.writeRecord s = { s with
      buffer := (rs.foldl State.writeRecord s).buffer, capture := (rs.foldl State.writeRecord s).capture } := by
    rw [State.writeRecords_control]
  have hitem (t : State) : t.advanceItem = { t with capture := t.advanceItem.capture } := by
    unfold State.advanceItem
    split <;> rfl
  have hend (t : State) : t.endSweep = { t with
      capture := t.endSweep.capture, events := t.endSweep.events, nextSequence := t.endSweep.nextSequence } := by
    have hdone (u : State) (d : Nat) : u.captureDone d = { u with
        capture := (u.captureDone d).capture, events := (u.captureDone d).events, nextSequence := (u.captureDone d).nextSequence } :=
      (State.captureDone_spec u u rfl rfl rfl d).2.2.2
    unfold State.endSweep
    dsimp only
    split
    · split
      · exact hdone _ _
      · rfl
    · split
      · exact hdone _ _
      · split <;> rfl
    · split
      · split
        · exact hdone _ _
        · rfl
      · rfl
  unfold State.takeSweep
  split
  · rw [hend, hitem, hwrite]
  · rfl

/-- A frame queued downstream changes that queue alone, which has room for 8 (R154). -/
theorem State.forwardDown_eq (s : State) (f : Frame) : s.forwardDown f =
    { s with downstreamQueue := if s.downstreamQueue.length < 8 then s.downstreamQueue ++ [f] else s.downstreamQueue } := by
  unfold State.forwardDown
  by_cases h : s.downstreamQueue.length < 8
  · rw [if_pos h, if_pos (show _ < Config.downstreamQueueSize from h)]
  · rw [if_neg h, if_neg (show ¬ _ < Config.downstreamQueueSize from h)]

/-- The downstream queue after a dispatch. -/
theorem State.downstreamQueue_dispatchWork (s : State) (f : DispatchFrame) : (s.dispatchWork f).downstreamQueue =
    if s.downstreamQueue.length < 8 then s.downstreamQueue ++ [.dispatch (s.forwarded f)] else s.downstreamQueue := by
  obtain ⟨k, hk⟩ := Stable.requested s f
  have hqueue : (s.requested f).downstreamQueue = s.downstreamQueue := (congrArg State.downstreamQueue hk.frame :)
  rw [State.dispatchWork_eq, State.downstreamQueue_placeStationFrame, State.takeSweep_frame, State.forwardDown_eq]
  dsimp only
  rw [hqueue]

/-! ## What follows the close of the sets -/

/-- t has the Drive Map and the evaluated flags of s. -/
structure Later (s t : State) : Prop where
  drives : t.drives = s.drives
  evaluated : ∀ i, (t.sec i).evaluated = (s.sec i).evaluated

namespace Later

theorem refl (s : State) : Later s s := ⟨rfl, fun _ => rfl⟩

theorem trans {s t u : State} (h : Later s t) (k : Later t u) : Later s u :=
  ⟨k.drives.trans h.drives, fun i => (k.evaluated i).trans (h.evaluated i)⟩

/-- Work that leaves sections and Drive Map. -/
theorem quiet {s t : State} (h1 : t.sections = s.sections) (h2 : t.drives = s.drives) : Later s t :=
  ⟨h2, fun i => by rw [State.sec_of_eq h1 i]⟩

/-- A branch. -/
theorem ite {c : Prop} [Decidable c] {s a b : State} (ha : c → Later s a) (hb : ¬ c → Later s b) : Later s (if c then a else b) := by
  split
  · exact ha ‹_›
  · exact hb ‹_›

/-- Work done or not done. -/
theorem whenTrue {c : Prop} [Decidable c] {s a : State} (ha : c → Later s a) : Later s (if c then a else s) :=
  ite ha fun _ => refl s

/-- Work over a list that carries more than a state. -/
theorem foldlOn {α β : Type} (state : β → State) (f : β → α → β) (hf : ∀ b a, Later (state b) (state (f b a))) :
    ∀ (l : List α) (b : β), Later (state b) (state (l.foldl f b))
  | [], _ => refl _
  | a :: l, b => (hf b a).trans (foldlOn state f hf l _)

/-- Work over a list. -/
theorem foldl {α : Type} (f : State → α → State) (hf : ∀ s a, Later s (f s a)) (l : List α) (s : State) : Later s (l.foldl f s) :=
  foldlOn id f hf l s

/-- A change of a section's record that leaves its evaluated flag. -/
theorem modSec (s : State) (i : SecId) (f : Section → Section) (hf : ∀ x, (f x).evaluated = x.evaluated := by intro; rfl) :
    Later s (s.modSec i f) := by
  refine ⟨rfl, fun j => ?_⟩
  rw [State.sec_modSec]
  split
  · subst j; exact hf _
  · rfl

theorem modProfile (s : State) (i : SecId) (f : ProfilePosition → ProfilePosition) : Later s (s.modProfile i f) := modSec s i _

theorem modWatch (s : State) (w : WatchId) (f : WatchPoint → WatchPoint) : Later s (s.modWatch w f) := quiet rfl rfl

theorem placeStationFrame (s : State) : Later s s.placeStationFrame := quiet rfl rfl

theorem post (s : State) (k : EventKind) (a : Option SecId) (n : Option NodeId) (p : Option Pos) (c : Word16) (v : Option Int)
    (d : Nat) : Later s (s.post k a n p c v d) := quiet (State.sections_post ..) (State.drives_post ..)

theorem signal (s : State) (k : TriggerKind) (x : Nat) : Later s (s.signal k x) := by
  rw [State.signal_frame]
  exact quiet rfl rfl

/-- An entry to a state that leaves the evaluated flag of its section. -/
theorem entry {s t : State} {i : SecId} (hframe : s.entryFrame t) (hself : (t.sec i).evaluated = (s.sec i).evaluated)
    (hother : ∀ j, j ≠ i → t.sec j = s.sec j) : Later s t := by
  refine ⟨hframe.tables.1, fun j => ?_⟩
  by_cases h : j = i
  · subst h; exact hself
  · rw [hother j h]

theorem enterPassing (s : State) (i : SecId) (st : SectionState) (cause : Cause) (node : Option NodeId) (pos : Option Pos) :
    Later s (s.enterPassing i st cause node pos) := by
  obtain ⟨hframe, hself, hother, _⟩ := s.enterPassing_spec i st cause node pos
  exact entry hframe (congrArg Section.evaluated hself :) hother

theorem enterReleasing (s : State) (i : SecId) (target : ReleaseTarget) (cause : Cause) (result : CalResult) (node : Option NodeId)
    (pos : Option Pos) : Later s (s.enterReleasing i target cause result node pos) := by
  obtain ⟨hframe, hself, hother, _⟩ := s.enterReleasing_spec i target cause result node pos
  exact entry hframe (congrArg Section.evaluated hself :) hother

theorem requestFreeze (s : State) (i : SecId) (cause : Cause) (src : Option Nat) (node : Option NodeId) (pos : Option Pos) :
    Later s (s.requestFreeze i cause src node pos) := by
  refine whenTrue fun _ => ?_
  obtain ⟨hframe, hself, hother, _⟩ := s.enterFrozen_spec i cause src node pos
  exact entry hframe (congrArg Section.evaluated hself :) hother

theorem takeLate (s : State) : ∀ r : LateRequest, Later s (s.takeLate r)
  | .freeze .. => requestFreeze ..
  | .release .. => whenTrue fun _ => enterReleasing ..

theorem lineStep (entries : List Entry) (s : State) (i : SecId) : Later s (s.lineStep entries i) := by
  unfold State.lineStep
  split
  · exact refl s
  · split
    · exact modSec ..
    · exact ite (fun _ => (modSec ..).trans (whenTrue fun _ => enterPassing ..)) fun _ => modSec ..

theorem engineDispatch (s : State) : Later s s.engineDispatch := by
  unfold State.engineDispatch
  split
  · exact refl s
  · exact whenTrue fun _ => ite (fun _ => enterReleasing ..) fun _ => quiet rfl rfl

theorem advanceProfile (s : State) (i : SecId) : Later s (s.advanceProfile i).state := by
  have hnext (t : State) (idx pass : Nat) (p : Int) : Later t (t.nextSegment i idx pass p).state := by
    unfold State.nextSegment
    dsimp only
    exact modProfile ..
  have hend (t : State) (p : Int) : Later t (t.endProfile i p).state := by
    unfold State.endProfile
    dsimp only
    split
    · exact (modProfile ..).trans (post ..)
    · exact (post ..).trans (hnext ..)
    · exact (modProfile ..).trans (post ..)
  have hsegment (t : State) : Later t (t.endSegment i).state := by
    have hboundary : Later t (t.signalBoundary i) := (modSec ..).trans (signal ..)
    unfold State.endSegment
    dsimp only
    split
    · exact hboundary.trans (hnext ..)
    · split
      · exact hboundary.trans (hnext ..)
      · exact hboundary.trans (hend ..)
  unfold State.advanceProfile State.gatedAdvance State.gateClosed
  dsimp only
  split
  · exact refl s
  · split
    · split
      · dsimp only
        exact (modProfile ..).trans (modProfile ..)
      · exact (modProfile ..).trans (hsegment _)
    · dsimp only
      exact modProfile ..

theorem watchHit (s : State) (w : WatchId) (v : Int) (src : OccurrenceSource) : Later s (s.watchHit w v src) := by
  unfold State.watchHit
  dsimp only
  split
  · exact (modWatch ..).trans ((post ..).trans (signal ..))
  · exact modWatch ..

theorem occurrence (s : State) (w : WatchId) (v : Int) (src : OccurrenceSource) (change : ChangeStop) :
    Later s (s.occurrence w v src change).1 := by
  have hseen (t : State) : Later t (t.modWatch w fun p => p.seen v) := quiet rfl rfl
  unfold State.occurrence
  dsimp only
  split
  · generalize (if (s.watch w).action.stops = true then s.watchRequest w else none) = q
    cases q with
    | none => exact (watchHit ..).trans (hseen _)
    | some r =>
      dsimp only
      split
      · exact (watchHit ..).trans (hseen _)
      · exact ((watchHit ..).trans (hseen _)).trans (takeLate ..)
  · exact hseen s

theorem issuedEntry (skips : List (WatchId × Nat)) (a : Watched) (p : Entry × Nat) : Later a.state (a.issuedEntry skips p).state := by
  unfold Watched.issuedEntry
  split
  · exact refl _
  · refine foldlOn Watched.state _ (fun b w => ?_) _ _
    split
    · exact refl _
    · unfold Watched.point
      dsimp only
      split
      · split
        · exact refl _
        · exact occurrence ..
      · exact refl _

theorem takeSection (entries : List Entry) (a : Formed) (i : SecId) : Later a.state (Formed.takeSection entries a i).state := by
  have hissue (t : State) (cs : List Candidate) : Later t (t.issueAll i cs) := by
    rw [State.issueAll_frame]
    exact quiet rfl rfl
  have hbase (t : State) : Later t (t.setIssueBase i) := modSec t i _
  have hline (t : State) : Later t (t.recordLine entries i) := by
    refine foldl _ (fun u r => ?_) _ _
    split
    · exact quiet rfl rfl
    · exact refl u
  have htrial (t : State) : Later t (t.formTrial entries i).1 := by
    have hseen (u : State) (w : WatchId) (v : Int) : Later u (u.modWatch w fun p => p.seen v) := quiet rfl rfl
    unfold State.formTrial
    dsimp only
    split
    · dsimp only
      exact (hissue ..).trans (modSec ..)
    · exact (watchHit ..).trans ((hseen ..).trans ((requestFreeze ..).trans (hissue ..)))
  unfold Formed.takeSection
  dsimp only
  split
  · exact (htrial _).trans (hbase _)
  · exact (hissue ..).trans (hbase _)
  · have hdecay : Later a.state (a.state.decayOffsets i) := quiet (State.sections_modMembers ..) (State.drives_modMembers ..)
    exact hdecay.trans ((hissue ..).trans ((hbase _).trans (whenTrue fun _ => enterPassing ..)))
  · exact (hissue ..).trans (hbase _)
  all_goals exact (hline _).trans (hbase _)

theorem takeLates (s : State) (profile watch : List LateRequest) : Later s (s.takeLates profile watch) := by
  unfold State.takeLates State.orderLate
  dsimp only
  split
  · exact foldl _ takeLate _ _
  · split
    · exact foldl _ takeLate _ _
    · exact (quiet (s := s) (t := { s with freeDraws := s.freeDraws + 1 }) rfl rfl).trans (foldl _ takeLate _ _)

theorem cycleWork (s : State) (previous : Option Word16) (entries : List Entry) :
    Later (s.closeSets previous) (s.cycleWork previous entries) :=
  (foldl _ (lineStep entries) _ _).trans (engineDispatch _)

theorem advanceProfiles (s : State) : Later s s.advanceProfiles.state := by
  unfold State.advanceProfiles
  generalize sectionIds = is
  refine foldlOn Advanced.state _ (fun a i => ?_) is ⟨s, []⟩
  exact advanceProfile a.state i

theorem formReferences (s : State) (entries : List Entry) : Later s (s.formReferences entries).state := by
  unfold State.formReferences
  generalize sectionIds = is
  exact foldlOn Formed.state (Formed.takeSection entries) (takeSection entries) is ⟨s, [], []⟩

theorem issuedEntries (s : State) (skips : List (WatchId × Nat)) (l : List (Entry × Nat)) :
    Later s (l.foldl (Watched.issuedEntry skips) ⟨s, []⟩).state :=
  foldlOn Watched.state _ (issuedEntry skips) l ⟨s, []⟩

theorem forwardDown (s : State) (f : Frame) : Later s (s.forwardDown f) := by
  rw [State.forwardDown_eq]
  exact quiet rfl rfl

theorem takeSweep (s : State) (v : FrameView) : Later s (s.takeSweep v) := by
  rw [State.takeSweep_frame]
  exact quiet rfl rfl

/-- Everything that a dispatch does after it closed the sets. -/
theorem dispatchWork (s : State) (f : DispatchFrame) : Later ((s.arrived f).state.closeSets s.previousCycle) (s.dispatchWork f) := by
  have hprofiled : Later ((s.arrived f).state.closeSets s.previousCycle) (s.profiled f).state :=
    (cycleWork ..).trans (advanceProfiles _)
  have hreferenced : Later (s.profiled f).state (s.referenced f).state := formReferences ..
  have hissued : Later (s.referenced f).state (s.issued f).state := issuedEntries ..
  have hrequested : Later (s.issued f).state (s.requested f) := takeLates ..
  rw [State.dispatchWork_eq]
  exact hprofiled.trans <| hreferenced.trans <| hissued.trans <| hrequested.trans <|
    (forwardDown ..).trans <| (takeSweep ..).trans (placeStationFrame _)

end Later

end Sys2Proof.Machine
end

section
/-! PROOFS. An accepted DISPATCH: the order of its work, what it forwards, and what it leaves (R40, R52, R102, R132, R153, R154). -/

namespace Sys2Proof.Machine

/-! ## The late requests (R102, R132) -/

/-- Late requests of one kind are taken in their order. -/
theorem State.takeLates_one (s : State) {profile watch : List LateRequest} (h : profile = [] ∨ watch = []) :
    s.takeLates profile watch = (profile ++ watch).foldl State.takeLate s := by
  unfold State.takeLates State.orderLate
  rcases h with rfl | rfl
  · rfl
  · cases profile with
    | nil => rfl
    | cons x xs => rw [List.append_nil]; rfl

/-- Of late requests of both kinds either may come first, by a free value. -/
theorem State.takeLates_both (s : State) {profile watch : List LateRequest} (hp : profile ≠ []) (hw : watch ≠ []) :
    s.takeLates profile watch = (profile ++ watch).foldl State.takeLate { s with freeDraws := s.freeDraws + 1 } ∨
      s.takeLates profile watch = (watch ++ profile).foldl State.takeLate { s with freeDraws := s.freeDraws + 1 } := by
  unfold State.takeLates State.orderLate
  rw [if_neg (by simpa using hp), if_neg (by simpa using hw)]
  dsimp only
  split
  · exact .inl rfl
  · exact .inr rfl

/-- A freeze request taken late (R44). -/
theorem State.takeLate_freeze (u : State) (i : SecId) (cause : Cause) (source : Option Nat) (node : Option NodeId) (pos : Option Pos) :
    ((u.sec i).state = .trial → EntersFrozen u (u.takeLate (.freeze i cause source node pos)) i cause source cause.code node pos) ∧
      ((u.sec i).state ≠ .trial → u.takeLate (.freeze i cause source node pos) = u) := by
  refine ⟨fun h => ?_, fun h => if_neg h⟩
  rw [show u.takeLate (.freeze i cause source node pos) = u.enterFrozen i cause source node pos from if_pos h]
  exact EntersFrozen.of_enterFrozen ..

/-- A release request taken late (R45). -/
theorem State.takeLate_release (u : State) (i : SecId) (cause : Cause) :
    ((u.sec i).state = .trial ∨ (u.sec i).state = .frozen →
      EntersReleasing u (u.takeLate (.release i cause)) i .selected cause.code cause.abandon.code none none) ∧
      ((u.sec i).state ≠ .trial → (u.sec i).state ≠ .frozen → u.takeLate (.release i cause) = u) := by
  refine ⟨fun h => ?_, fun h1 h2 => if_neg (not_or.2 ⟨h1, h2⟩)⟩
  rw [show u.takeLate (.release i cause) = u.enterReleasing i .selected cause (.abandoned cause.abandon) none none from if_pos h]
  exact EntersReleasing.of_enterReleasing ..

/-! ## What a dispatch leaves -/

/-- A forwarded entry keeps its node and its drive command (R154). -/
theorem Entry.rewrite_kept (ws : List Rewrite) (e : Entry) : ((Entry.rewrite ws e).node, (Entry.rewrite ws e).command) = (e.node, e.command) := by
  unfold Entry.rewrite
  split <;> rfl

/-- The forwarding, the sweep and the station frame leave the rest of what the late requests left. -/
theorem State.dispatchWork_frame (s : State) (f : DispatchFrame) : s.dispatchWork f = { s.requested f with
    downstreamQueue := (s.dispatchWork f).downstreamQueue, capture := (s.dispatchWork f).capture
    buffer := (s.dispatchWork f).buffer, events := (s.dispatchWork f).events, nextSequence := (s.dispatchWork f).nextSequence
    stationSlot := (s.dispatchWork f).stationSlot, readyCount := (s.dispatchWork f).readyCount } := by
  rw [State.dispatchWork_eq]
  generalize s.requested f = u
  generalize Frame.dispatch (s.forwarded f) = d
  generalize FrameView.mk _ _ _ = v
  rw [State.forwardDown_eq, State.takeSweep_frame]
  rfl

/-- t differs from s only where a dispatch may. -/
def DispatchesFrom (s t : State) : Prop :=
  t = { s with
    cycle := t.cycle, timer := t.timer, timerPeriod := t.timerPeriod, cycleOpen := t.cycleOpen, sections := t.sections
    pool := t.pool, drives := t.drives, watches := t.watches, engine := t.engine, capture := t.capture, buffer := t.buffer
    events := t.events, nextSequence := t.nextSequence, downstreamQueue := t.downstreamQueue, stationSlot := t.stationSlot
    readyCount := t.readyCount, freeDraws := t.freeDraws }

/-- A dispatch differs there alone. -/
theorem State.dispatchesFrom (s : State) (f : DispatchFrame) : DispatchesFrom s (s.dispatchWork f) := by
  obtain ⟨k, hk⟩ := Stable.requested s f
  have hrequested : DispatchesFrom s (s.requested f) := by
    have hframe := hk.frame
    generalize s.requested f = t at hframe
    unfold DispatchesFrom
    rw [hframe]
    rfl
  have hframe := s.dispatchWork_frame f
  generalize s.dispatchWork f = t at hframe
  generalize s.requested f = u at *
  unfold DispatchesFrom at *
  rw [hframe, hrequested]

/-- Where a cycle was open, a dispatch leaves no fresh flag and no evaluated flag (R83). -/
theorem State.dispatchWork_opens {s : State} (f : DispatchFrame) (h : s.cycleOpen = true) :
    (∀ n : NodeId, ((s.dispatchWork f).drive n).feedback.fresh = false) ∧ ∀ i : SecId, ((s.dispatchWork f).sec i).evaluated = false := by
  obtain ⟨hdrives, hevaluated⟩ := Later.dispatchWork s f
  have hprevious : s.previousCycle = some s.cycle := if_pos h
  rw [hprevious] at hdrives hevaluated
  refine ⟨fun n => ?_, fun i => ?_⟩
  · rw [State.drive_of_eq hdrives n]
    unfold State.closeSets
    rw [State.drive_openSets]
  · rw [hevaluated i]
    unfold State.closeSets
    rw [State.sec_openSets]

/-! ## The rewritten entries (R56, R154) -/

/-- The forwarded entry at a place is that of the received one. -/
theorem State.forwarded_entry {s : State} {f : DispatchFrame} {k : Nat} {e : Entry} (h : f.entries[k]? = some e) :
    (s.forwarded f).entries[k]? = some (Entry.rewrite (s.referenced f).rewrites e) := by
  unfold State.forwarded
  rw [List.getElem?_map, h]
  rfl

/-- No node is rewritten twice (R9, R56). -/
theorem State.rewrites_nodup {s : State} (hm : MembersConsistent s) (f : DispatchFrame) :
    ((s.referenced f).rewrites.map Rewrite.node).Nodup := by
  have hopened : MembersConsistent (s.opened f.cycle) := hm
  have hstart : Stable (s.opened f.cycle) (s.profiled f).state := Stable.profiled s f
  unfold State.referenced State.formReferences
  generalize (s.profiled f).state = t at hstart ⊢
  exact Formed.nodes_nodup f.entries hopened sectionIds ⟨t, [], []⟩ SectionWork.nodup_sectionIds hstart List.nodup_nil
    fun i _ r _ => List.not_mem_nil

/-- What a dispatch does, by its phases. -/
theorem State.dispatch_completes (s : State) (f : DispatchFrame) (hpow : s.powered = true) (hlen : f.entries.length ≤ 62) :
    let watch := (s.arrived f).late ++ (s.issued f).late
    let g := s.forwarded f
    (∀ (k : Nat) (e e' : Entry), f.entries[k]? = some e → g.entries[k]? = some e' →
      ((∀ w ∈ (s.referenced f).rewrites, e.node.toNat ≠ w.node.val + 1) → e' = e) ∧
      (MembersConsistent s → ∀ w ∈ (s.referenced f).rewrites, e.node.toNat = w.node.val + 1 → e' = { e with speed := w.speed })) ∧
    ∃ t requested : State,
    exec (.dispatch f) s = .next t ∧
    ((s.profiled f).late = [] ∨ watch = [] → requested = ((s.profiled f).late ++ watch).foldl State.takeLate (s.issued f).state) ∧
    (let drawn := { (s.issued f).state with freeDraws := s.freeDraws + 1 }
     (s.profiled f).late ≠ [] → watch ≠ [] → requested = ((s.profiled f).late ++ watch).foldl State.takeLate drawn ∨
      requested = (watch ++ (s.profiled f).late).foldl State.takeLate drawn) ∧
    (let queued := { requested with
      downstreamQueue := if s.downstreamQueue.length < 8 then s.downstreamQueue ++ [Frame.dispatch g] else s.downstreamQueue }
     let swept := queued.takeSweep ⟨f.entries, g.entries, s.previousCycle⟩
     t = { swept with stationSlot := some ⟨s.readyCount, .station swept.stationFrame⟩, readyCount := s.readyCount + 1 }) ∧
    t.cycle = f.cycle ∧ t.timer = .running ∧ t.timerPeriod = s.timeout ∧ t.cycleOpen = true ∧
    t.downstreamQueue = (if s.downstreamQueue.length < 8 then s.downstreamQueue ++ [.dispatch g] else s.downstreamQueue) ∧
    g.headerNode = f.headerNode ∧ g.cycle = f.cycle ∧
    g.entries.map (fun e => (e.node, e.command)) = f.entries.map (fun e => (e.node, e.command)) ∧
    t.stationSlot = some ⟨s.readyCount, .station t.stationFrame⟩ ∧ t.readyCount = s.readyCount + 1 ∧
    (s.cycleOpen = true → (∀ n : NodeId, (t.drive n).feedback.fresh = false) ∧ ∀ i : SecId, (t.sec i).evaluated = false) ∧
    (∀ i : SecId, t.members i = s.members i ∧ (t.sec i).cfg = (s.sec i).cfg ∧ (t.sec i).snapshot = (s.sec i).snapshot) ∧
    (∀ n : NodeId, (t.drive n).direction = (s.drive n).direction ∧ (t.drive n).inSection = (s.drive n).inSection) ∧
    DispatchesFrom s t := by
  intro watch g
  have hexec := exec_dispatch s f hpow hlen
  have hqueued := s.downstreamQueue_dispatchWork f
  have hopens := State.dispatchWork_opens (s := s) f
  have hfrom := s.dispatchesFrom f
  have hframe := s.dispatchWork_frame f
  have heq := s.dispatchWork_eq f
  have hdraws : (s.issued f).state.freeDraws = s.freeDraws := (congrArg State.freeDraws (Stable.issued s f).frame :)
  have hone : (s.profiled f).late = [] ∨ watch = [] →
      s.requested f = ((s.profiled f).late ++ watch).foldl State.takeLate (s.issued f).state := State.takeLates_one _
  have hboth := State.takeLates_both (s.issued f).state (profile := (s.profiled f).late) (watch := watch)
  rw [hdraws, show (s.issued f).state.takeLates (s.profiled f).late watch = s.requested f from rfl] at hboth
  obtain ⟨k, hk⟩ := Stable.requested s f
  generalize s.requested f = u at *
  generalize s.dispatchWork f = t at *
  have hrequested := hk.frame
  have hqueue : u.downstreamQueue = s.downstreamQueue := (congrArg State.downstreamQueue hrequested :)
  have hready : u.readyCount = s.readyCount := (congrArg State.readyCount hrequested :)
  rw [State.forwardDown_eq, hqueue] at heq
  generalize hswept : State.takeSweep { u with
      downstreamQueue := if s.downstreamQueue.length < 8 then s.downstreamQueue ++ [Frame.dispatch (s.forwarded f)]
        else s.downstreamQueue } ⟨f.entries, (s.forwarded f).entries, s.previousCycle⟩ = swept at heq
  have hsweptReady : swept.readyCount = s.readyCount := by
    rw [← hswept, State.takeSweep_frame]
    exact hready
  have hslot : t = { swept with stationSlot := some ⟨s.readyCount, .station swept.stationFrame⟩, readyCount := s.readyCount + 1 } := by
    rw [heq, ← hsweptReady]
    rfl
  have hsections : t.sections = u.sections := (congrArg State.sections hframe :)
  have hdrives : t.drives = u.drives := (congrArg State.drives hframe :)
  refine ⟨fun k e e' he he' => ?_, t, u, hexec, hone, hboth, ?_, ?_, ?_, ?_, ?_, hqueued, rfl, rfl, ?_, ?_, ?_, hopens, fun i => ?_,
    fun n => ?_, hfrom⟩
  · rw [State.forwarded_entry he] at he'
    obtain rfl := Option.some.inj he'
    obtain ⟨hnone, hsome⟩ := Entry.rewrite_spec (s.referenced f).rewrites e
    exact ⟨hnone, fun hm => hsome (State.rewrites_nodup hm f)⟩
  · dsimp only
    rw [hswept]
    exact hslot
  · exact (congrArg State.cycle hframe :).trans (congrArg State.cycle hrequested :)
  · exact (congrArg State.timer hframe :).trans (congrArg State.timer hrequested :)
  · exact (congrArg State.timerPeriod hframe :).trans (congrArg State.timerPeriod hrequested :)
  · exact (congrArg State.cycleOpen hframe :).trans (congrArg State.cycleOpen hrequested :)
  · show (f.entries.map (Entry.rewrite _)).map _ = _
    rw [List.map_map]
    exact List.map_congr_left fun e _ => Entry.rewrite_kept _ e
  · rw [hslot]; rfl
  · rw [hslot]
  · unfold State.members
    rw [State.sec_of_eq hsections i]
    exact hk.sec i
  · rw [State.drive_of_eq hdrives n]
    exact hk.map n

/-- Settles O11: the phases in their order, each with what it leaves. -/
theorem dispatchCompletes : Obligations.DispatchCompletes := by
  unfold Obligations.DispatchCompletes
  refine ⟨fun u i source node pos => ⟨?_, u.takeLate_release i .profileEnd⟩, State.dispatch_completes⟩
  simp only [List.forall_mem_cons, List.not_mem_nil, false_imp_iff, implies_true, and_true]
  exact ⟨u.takeLate_freeze i .watch source node pos, u.takeLate_freeze i .gate source node pos,
    u.takeLate_freeze i .stepDone source node pos⟩

end Sys2Proof.Machine
end

section
/-! PROOFS. QUICK_STOP and COAST entries, and dispatches while no section rewrites (R40, R61, R154). -/

namespace Sys2Proof.Machine

/-! ## Sections at rest -/

/-- Section i neither rewrites nor holds the engine. -/
structure State.Rests (s : State) (i : SecId) : Prop where
  passing : (s.sec i).state.rewriting = false
  engine : s.engine.holder ≠ some i

/-- The engine after an entry is held by no section that did not hold it. -/
theorem holder_freed {i j : SecId} {e : Engine} (h : e.holder ≠ some i) :
    (if e.holder = some j then Engine.free else e).holder ≠ some i := by
  split
  · exact nofun
  · exact h

/-- No turn takes a section at rest out of it, and a section at rest in BYPASS stays there. -/
theorem Turn.keeps_rests {s t : State} (h : Turn s t) {i : SecId} (hr : s.Rests i) :
    t.Rests i ∧ ((s.sec i).state = .bypass → (t.sec i).state = .bypass) := by
  obtain ⟨hpassing, hengine⟩ := hr
  have hsame {u : State} (hsec : u.sec i = s.sec i) (heng : u.engine.holder ≠ some i) :
      u.Rests i ∧ ((s.sec i).state = .bypass → (u.sec i).state = .bypass) := by
    rw [hsec]
    exact ⟨⟨hsec ▸ hpassing, heng⟩, id⟩
  cases h with
  | plain h => exact ⟨⟨(h.sec i).state ▸ hpassing, h.holder ▸ hengine⟩, fun hb => (h.sec i).state.trans hb⟩
  | issue c hs hc => exact hsame (by rw [State.issue_frame]; rfl) (by rw [State.issue_frame]; exact hengine)
  | trims hs => exact hsame (State.sec_modMembers ..) (by rw [State.updateTrims, State.engine_modMembers]; exact hengine)
  | decay hs => exact hsame (State.sec_modMembers ..) (by rw [State.decayOffsets, State.engine_modMembers]; exact hengine)
  | @passing j st cause node pos hs hst =>
    obtain ⟨_, hself, hother, _, heng⟩ := s.enterPassing_spec j st cause node pos
    have hfreed := holder_freed (j := j) hengine
    rw [← heng] at hfreed
    by_cases hij : i = j
    · subst hij
      rw [hself]
      refine ⟨⟨hself ▸ hst, hfreed⟩, fun hb => ?_⟩
      rw [hb] at hs
      cases hs
    · exact hsame (hother i hij) hfreed
  | @frozen j cause src node pos hs =>
    obtain ⟨_, _, hother, _, heng, _⟩ := s.enterFrozen_spec j cause src node pos
    refine hsame (hother i ?_) (heng ▸ hengine)
    rintro rfl
    rw [hs] at hpassing
    cases hpassing
  | @releasing j target cause result node pos hs =>
    obtain ⟨_, _, hother, _, heng⟩ := s.enterReleasing_spec j target cause result node pos
    have hfreed := holder_freed (j := j) hengine
    rw [← heng] at hfreed
    refine hsame (hother i ?_) hfreed
    rintro rfl
    rcases hs with hs | hs
    · exact Bool.false_ne_true (hpassing.symm.trans hs)
    · exact hengine hs

/-- No turns take a section at rest out of it. -/
theorem Turns.keep_rests {s t : State} (h : Turns s t) {i : SecId} (hr : s.Rests i) :
    t.Rests i ∧ ((s.sec i).state = .bypass → (t.sec i).state = .bypass) := by
  induction h with
  | refl => exact ⟨hr, id⟩
  | tail _ ht ih =>
    obtain ⟨hrest, hbypass⟩ := ih
    obtain ⟨hrest', hbypass'⟩ := ht.keeps_rests hrest
    exact ⟨hrest', fun hb => hbypass' (hbypass hb)⟩

/-- A section that does not rewrite is at rest, by the invariant of R36. -/
theorem EngineHeld.rests {s : State} (h : EngineHeld s) {i : SecId} (hi : (s.sec i).state.rewriting = false) : s.Rests i := by
  refine ⟨hi, fun hh => ?_⟩
  rw [(h.1 i).2 hh] at hi
  cases hi

/-! ## The line-override check (R40) -/

/-- Entry e overrides section i for the member r of node n. -/
structure State.Overrides (s : State) (i : SecId) (e : Entry) (r : RecId) (n : NodeId) : Prop where
  command : e.command = .quickStop ∨ e.command = .coast
  member : r ∈ s.members i
  node : (s.member r).node = some n
  number : e.node.toNat = n.val + 1

/-- QUICK_STOP and COAST are the overriding commands. -/
theorem overriding_iff (c : DriveCommand) : overriding c = true ↔ c = .quickStop ∨ c = .coast := by
  cases c <;> decide

/-- Entry e is of the node of record r. -/
def State.names (s : State) (e : Entry) (r : RecId) : Bool := nodeOf e.node.toNat = (s.member r).node

/-- The test of an entry by the line-override check. -/
def State.overrideTest (s : State) (i : SecId) (e : Entry) : Bool := overriding e.command && (s.members i).any (s.names e)

/-- The member of the first entry that passes the test. -/
theorem State.overrider_eq (s : State) (i : SecId) (entries : List Entry) :
    s.overrider i entries = (entries.find? (s.overrideTest i)).bind fun e => (s.members i).find? (s.names e) := rfl

/-- An entry is of the node that a record holds. -/
theorem State.names_iff {s : State} {e : Entry} {r : RecId} {n : NodeId} (h : (s.member r).node = some n) :
    s.names e r = true ↔ e.node.toNat = n.val + 1 := by
  unfold State.names
  rw [decide_eq_true_eq, h, nodeOf_eq_some]

/-- The test finds an overriding entry. -/
theorem State.Overrides.test {s : State} {i : SecId} {e : Entry} {r : RecId} {n : NodeId} (h : s.Overrides i e r n) :
    s.overrideTest i e = true := by
  unfold State.overrideTest
  rw [Bool.and_eq_true, overriding_iff, List.any_eq_true]
  exact ⟨h.command, r, h.member, (State.names_iff h.node).2 h.number⟩

/-- The test finds overriding entries alone. -/
theorem State.overrides_of_test {s : State} (hm : MembersConsistent s) {i : SecId} {e : Entry} (h : s.overrideTest i e = true) :
    ∃ r n, s.Overrides i e r n := by
  unfold State.overrideTest at h
  rw [Bool.and_eq_true, overriding_iff, List.any_eq_true] at h
  obtain ⟨hc, r, hr, hn⟩ := h
  obtain ⟨hnode, _⟩ := hm.facts hr
  exact ⟨r, _, hc, hr, hnode, (State.names_iff hnode).1 hn⟩

/-- No entry overrides the section. -/
theorem State.overrider_eq_none {s : State} (hm : MembersConsistent s) {i : SecId} {entries : List Entry}
    (h : ∀ e ∈ entries, ∀ r n, ¬ s.Overrides i e r n) : s.overrider i entries = none := by
  have hnone : entries.find? (s.overrideTest i) = none := List.find?_eq_none.2 fun e he ht => by
    obtain ⟨r, n, ho⟩ := State.overrides_of_test hm ht
    exact h e he r n ho
  rw [State.overrider_eq, hnone]
  rfl

/-- The member of the first overriding entry. -/
theorem State.overrider_eq_some {s : State} (hm : MembersConsistent s) {i : SecId} {entries : List Entry} {k : Nat} {e : Entry}
    {r : RecId} {n : NodeId} (hk : entries[k]? = some e) (ho : s.Overrides i e r n)
    (hbefore : ∀ (j : Nat) (e' : Entry), j < k → entries[j]? = some e' → ∀ r' n', ¬ s.Overrides i e' r' n') :
    s.overrider i entries = some r := by
  have hfirst : entries.find? (s.overrideTest i) = some e :=
    find?_eq_first hk ho.test fun j e' hj he' => Bool.eq_false_iff.2 fun ht => by
      obtain ⟨r', n', ho'⟩ := State.overrides_of_test hm ht
      exact hbefore j e' hj he' r' n' ho'
  have hr := (State.names_iff ho.node).2 ho.number
  obtain ⟨q, hq⟩ := Option.isSome_iff_exists.1 (List.find?_isSome.2 ⟨r, ho.member, hr⟩)
  have hqnames : s.names e q = true := List.find?_some hq
  have hsame : q = r := hm.record_unique (List.mem_of_find?_eq_some hq) ho.member
    ((of_decide_eq_true hqnames).symm.trans (of_decide_eq_true hr))
  rw [State.overrider_eq, hfirst, ← hsame]
  exact hq

/-- Where some entry overrides a section, a first one does. -/
theorem State.overrider_isSome {s : State} {i : SecId} {entries : List Entry} {e : Entry} {r : RecId} {n : NodeId}
    (he : e ∈ entries) (ho : s.Overrides i e r n) : ∃ q, s.overrider i entries = some q := by
  obtain ⟨x, hx⟩ := Option.isSome_iff_exists.1 (List.find?_isSome.2 ⟨e, he, ho.test⟩)
  have htest := List.find?_some hx
  unfold State.overrideTest at htest
  rw [Bool.and_eq_true, List.any_eq_true] at htest
  obtain ⟨q, hq⟩ := Option.isSome_iff_exists.1 (List.find?_isSome.2 htest.2)
  exact ⟨q, by rw [State.overrider_eq, hx]; exact hq⟩

/-- The check of another section leaves section i. -/
theorem State.sec_overrideStep {s : State} {i j : SecId} (entries : List Entry) (h : i ≠ j) :
    (s.overrideStep entries j).sec i = s.sec i := by
  unfold State.overrideStep
  split
  · split
    · exact (State.enterPassing_spec ..).2.2.1 i h
    · rfl
  · rfl

/-- The checks of other sections leave section i. -/
theorem State.sec_overrideSteps {i : SecId} (entries : List Entry) : ∀ (is : List SecId) (s : State), i ∉ is →
    (is.foldl (State.overrideStep entries) s).sec i = s.sec i
  | [], _, _ => rfl
  | j :: is, s, h => by
    obtain ⟨hj, his⟩ := not_or.1 (mt List.mem_cons.2 h)
    rw [List.foldl_cons, State.sec_overrideSteps entries is _ his, State.sec_overrideStep entries hj]

/-- Overriding depends on lists and nodes alone. -/
theorem State.Overrides.stable {s t : State} (h : Stable s t) {i : SecId} {e : Entry} {r : RecId} {n : NodeId} (ho : s.Overrides i e r n) :
    t.Overrides i e r n := by
  obtain ⟨hc, hr, hnode, hn⟩ := ho
  obtain ⟨_, _, hkept, _⟩ := h.rec' r
  exact ⟨hc, (h.sec i).1 ▸ hr, hkept.trans hnode, hn⟩

/-- The check takes a rewriting section with an overriding entry to rest in BYPASS (R40). -/
theorem State.overrideStep_rests {s : State} {i : SecId} {entries : List Entry} (hi : (s.sec i).state.rewriting = true) {e : Entry}
    {r : RecId} {n : NodeId} (he : e ∈ entries) (ho : s.Overrides i e r n) :
    (s.overrideStep entries i).Rests i ∧ ((s.overrideStep entries i).sec i).state = .bypass := by
  obtain ⟨q, hq⟩ := State.overrider_isSome he ho
  have hstep : s.overrideStep entries i =
      s.enterPassing i .bypass .lineOverride (s.member q).node (s.member q).position := by
    unfold State.overrideStep
    rw [if_pos hi, hq]
  obtain ⟨_, hself, _, _, hengine⟩ := s.enterPassing_spec i .bypass .lineOverride (s.member q).node (s.member q).position
  rw [hstep, hself]
  refine ⟨⟨by rw [hself]; rfl, ?_⟩, rfl⟩
  rw [hengine]
  split
  · exact nofun
  · assumption

/-- The checks of all sections take a rewriting section with an overriding entry to rest in BYPASS. -/
theorem State.overrideSteps_rest {s : State} {i : SecId} {entries : List Entry} (hi : (s.sec i).state.rewriting = true) {e : Entry}
    {r : RecId} {n : NodeId} (he : e ∈ entries) (ho : s.Overrides i e r n) :
    (s.forSections (State.overrideStep entries)).Rests i ∧ ((s.forSections (State.overrideStep entries)).sec i).state = .bypass := by
  obtain ⟨before, after, hsplit⟩ := List.append_of_mem (SectionWork.mem_sectionIds i)
  have hbefore : i ∉ before := fun h => by
    have hnodup := SectionWork.nodup_sectionIds
    rw [hsplit, List.nodup_append'] at hnodup
    exact hnodup.2.2 h List.mem_cons_self
  unfold State.forSections
  rw [hsplit, List.foldl_append, List.foldl_cons]
  have hkept := State.sec_overrideSteps entries before s hbefore
  have hstable := Stable.foldl (State.overrideStep entries) (Stable.overrideStep entries) before s
  generalize before.foldl (State.overrideStep entries) s = t at hkept hstable ⊢
  obtain ⟨hrests, hbypass⟩ := State.overrideStep_rests (entries := entries) (hkept ▸ hi) he (ho.stable hstable)
  obtain ⟨hrests', hbypass'⟩ := (Turns.foldl (State.overrideStep entries) (Turns.overrideStep entries) after _).keep_rests hrests
  exact ⟨hrests', hbypass' hbypass⟩

/-! ## What a dispatch rewrites -/

/-- A rewrite is of a member of a section that was not at rest when the forming began (R56). -/
theorem Formed.rewrites_of (entries : List Entry) {s : State} : ∀ (is : List SecId) (a : Formed), Stable s a.state → Turns s a.state →
    (∀ n ∈ a.rewrites.map Rewrite.node, ∃ j, ¬ s.Rests j ∧ ∃ r ∈ s.members j, s.memberNode r = n) →
    ∀ n ∈ (is.foldl (Formed.takeSection entries) a).rewrites.map Rewrite.node, ∃ j, ¬ s.Rests j ∧ ∃ r ∈ s.members j, s.memberNode r = n
  | [], _, _, _, h => h
  | i :: is, a, hst, ht, h => by
    refine Formed.rewrites_of entries is _ (hst.trans (Stable.takeSection entries a i)) (ht.trans (Turns.takeSection entries a i)) ?_
    intro n hn
    rw [Formed.nodes_takeSection, List.mem_append] at hn
    rcases hn with hn | hn
    · exact h n hn
    · split at hn
      · rename_i hi
        obtain ⟨r, hr, hrn⟩ := List.mem_map.1 hn
        refine ⟨i, fun hrests => ?_, r, (hst.sec i).1 ▸ hr, (hst.memberNode r).symm.trans hrn⟩
        exact Bool.false_ne_true ((ht.keep_rests hrests).1.passing.symm.trans hi)
      · cases hn

/-- The line-override checks of a dispatch. -/
def State.checked (s : State) (f : DispatchFrame) : State := (s.startCycle f.cycle).forSections (State.overrideStep f.entries)

/-- What a dispatch does after the line-override checks, up to the references. -/
theorem Turns.profiled (s : State) (f : DispatchFrame) : Turns (s.checked f) (s.profiled f).state := by
  have harrived : Turns (s.checked f) (s.arrived f).state := by
    unfold State.arrived State.lineArrival State.checked
    generalize (s.startCycle f.cycle).forSections (State.overrideStep f.entries) = t
    exact foldlOn Watched.state Watched.lineEntry lineEntry f.entries ⟨t, []⟩
  exact harrived.trans ((cycleWork ..).trans (advanceProfiles _))

/-- What a dispatch does after the line-override checks. -/
theorem Turns.checked_dispatchWork (s : State) (f : DispatchFrame) : Turns (s.checked f) (s.dispatchWork f) := by
  have hreferenced : Turns (s.profiled f).state (s.referenced f).state := formReferences ..
  have hissued : Turns (s.referenced f).state (s.issued f).state := issuedEntries ..
  have hrequested : Turns (s.issued f).state (s.requested f) := takeLates ..
  rw [State.dispatchWork_eq]
  exact (Turns.profiled s f).trans <| hreferenced.trans <| hissued.trans <| hrequested.trans <|
    (forwardDown ..).trans <| (takeSweep ..).trans (placeStationFrame _)

/-- A rewrite of a dispatch is of a member of a section that was not at rest after the line-override checks. -/
theorem State.rewrites_of (s : State) (f : DispatchFrame) : ∀ w ∈ (s.referenced f).rewrites,
    ∃ j, ¬ (s.checked f).Rests j ∧ ∃ r ∈ s.members j, s.memberNode r = w.node := by
  intro w hw
  have hstable := Stable.profiled s f
  have hturns := Turns.profiled s f
  unfold State.referenced State.formReferences at hw
  generalize (s.profiled f).state = t at hw hstable hturns
  obtain ⟨j, hj, r, hr, hn⟩ := Formed.rewrites_of f.entries (s := t) sectionIds ⟨t, [], []⟩ (Stable.refl t) .refl
    (fun _ h => absurd h List.not_mem_nil) w.node (List.mem_map_of_mem hw)
  exact ⟨j, fun h => hj (hturns.keep_rests h).1, r, (hstable.sec j).1 ▸ hr, (hstable.memberNode r).symm.trans hn⟩

/-- An entry all of whose sections are at rest after the checks is forwarded as received. -/
theorem State.rewrite_unchanged {s : State} {f : DispatchFrame} {e : Entry}
    (h : ∀ j r, r ∈ s.members j → e.node.toNat = (s.memberNode r).val + 1 → (s.checked f).Rests j) :
    Entry.rewrite (s.referenced f).rewrites e = e := by
  refine (Entry.rewrite_spec _ e).1 fun w hw hn => ?_
  obtain ⟨j, hj, r, hr, hrn⟩ := s.rewrites_of f w hw
  exact hj (h j r hr (hrn ▸ hn))

/-! ## The statement -/

/-- The check of one section (R40). -/
theorem State.overrideStep_spec {s : State} {entries : List Entry} {i : SecId} (hm : MembersConsistent s) :
    ((s.sec i).state.rewriting = false ∨ (∀ e ∈ entries, ∀ r n, ¬ s.Overrides i e r n) → s.overrideStep entries i = s) ∧
    ∀ (k : Nat) (e : Entry) (r : RecId) (n : NodeId), (s.sec i).state.rewriting = true → entries[k]? = some e → s.Overrides i e r n →
      (∀ (j : Nat) (e' : Entry), j < k → entries[j]? = some e' → ∀ r' n', ¬ s.Overrides i e' r' n') →
      EntersPassing s (s.overrideStep entries i) i .bypass none 0 9 1 (some n) (s.member r).position := by
  refine ⟨fun h => ?_, fun k e r n hi hk ho hbefore => ?_⟩
  · unfold State.overrideStep
    split
    · rename_i hi
      rw [State.overrider_eq_none hm (h.resolve_left (by rw [hi]; decide))]
    · rfl
  · have hstep : s.overrideStep entries i = s.enterPassing i .bypass .lineOverride (some n) (s.member r).position := by
      unfold State.overrideStep
      rw [if_pos hi, State.overrider_eq_some hm hk ho hbefore, ← ho.node]
    rw [hstep]
    exact EntersPassing.of_enterPassing s i .bypass .lineOverride (some n) (s.member r).position

/-- Overriding, in the words of the statement. -/
theorem State.overrides_iff (s : State) (i : SecId) (e : Entry) (r : RecId) (n : NodeId) : s.Overrides i e r n ↔
    (e.command = .quickStop ∨ e.command = .coast) ∧ r ∈ s.members i ∧ (s.member r).node = some n ∧ e.node.toNat = n.val + 1 :=
  ⟨fun h => ⟨h.command, h.member, h.node, h.number⟩, fun ⟨h1, h2, h3, h4⟩ => ⟨h1, h2, h3, h4⟩⟩

/-- Settles O12: sections that do not rewrite stay at rest, and the line-override check takes the others that a QUICK_STOP or COAST entry
concerns to rest before any reference is formed. -/
theorem quickStopAndCoastPassUnchanged : Obligations.QuickStopAndCoastPassUnchanged := by
  unfold Obligations.QuickStopAndCoastPassUnchanged
  refine ⟨fun s f hpow hlen hroom heng hm => ?_, fun s entries i hm => ?_⟩
  · have hchecked : Turns s (s.checked f) := (Turns.startCycle ..).trans (Turns.forSections _ (Turns.overrideStep f.entries) _)
    have hoverridden {i : SecId} {e : Entry} {r : RecId} {n : NodeId} (hi : (s.sec i).state.rewriting = true) (he : e ∈ f.entries)
        (ho : s.Overrides i e r n) : (s.checked f).Rests i ∧ ((s.checked f).sec i).state = .bypass :=
      State.overrideSteps_rest (s := s.startCycle f.cycle) hi he ⟨ho.command, ho.member, ho.node, ho.number⟩
    refine ⟨_, s.forwarded f, exec_dispatch s f hpow hlen, ?_, fun hall => ?_, fun k e hk hc => ⟨?_, fun i r n hi hr hn he => ?_⟩⟩
    · rw [State.downstreamQueue_dispatchWork, if_pos hroom]
    · have hentries : f.entries.map (Entry.rewrite (s.referenced f).rewrites) = f.entries :=
        (List.map_congr_left fun e _ =>
          State.rewrite_unchanged fun j _ _ _ => (hchecked.keep_rests (heng.rests (hall j))).1).trans (List.map_id _)
      unfold State.forwarded
      rw [hentries]
    · rw [State.forwarded_entry hk, State.rewrite_unchanged fun j r hr hn => ?_]
      cases hj : (s.sec j).state.rewriting
      · exact (hchecked.keep_rests (heng.rests hj)).1
      · exact (hoverridden hj (List.mem_of_getElem? hk) ⟨hc, hr, (hm.facts hr).1, hn⟩).1
    · obtain ⟨hrests, hbypass⟩ := hoverridden hi (List.mem_of_getElem? hk) ⟨hc, hr, hn, he⟩
      exact ((Turns.checked_dispatchWork s f).keep_rests hrests).2 hbypass
  · have hspec := State.overrideStep_spec (entries := entries) (i := i) hm
    simp only [State.overrides_iff] at hspec
    exact hspec

end Sys2Proof.Machine
end

section
/-! PROOFS. One step of the command queue (R1), the references of a releasing section (R47, R59) and the line reference (R42, R50, R51). -/

namespace Sys2Proof.Machine

/-! ## One step -/

/-- A step with commands queued runs the first of them. -/
theorem step_cons (c : Instr) (rest : List Instr) (s : State) : step { s with pending := c :: rest } = exec c { s with pending := rest } := rfl

/-- A step with no command queued idles. -/
theorem step_idle {s : State} (h : s.pending = []) : step s = .next s := by
  unfold step; rw [h]

/-- Settles O1, by the two cases of the queue. -/
theorem stepRunsFrontCommandOrIdles : Obligations.StepRunsFrontCommandOrIdles :=
  ⟨step_cons, fun _ => step_idle⟩

/-! ## A releasing section -/

/-- The decay in terms of a bound on both sides. -/
theorem decay_eq (rate o : Int) :
    decay rate o = if -rate ≤ o ∧ o ≤ rate then 0 else if 0 < o then o - rate else o + rate := by
  unfold decay
  exact if_congr (by omega) rfl rfl

/-- The absolute clamp of a value without a mark. -/
theorem absoluteClamp_unmarked (A v : Int) : absoluteClamp A ⟨v, .none⟩ =
    ⟨clampTo (-A) A v, if v < -A then .low else if A < v then .high else .none⟩ := by
  unfold absoluteClamp Marked.clamp clampTo
  split
  · rfl
  · split <;> rfl

/-- The work of a releasing section before the test for its end (R59). -/
def State.released (s : State) (i : SecId) : State := ((s.decayOffsets i).issueFrozen i).setIssueBase i

/-- The reference of a member of a releasing section before its clamp (R59). -/
def State.releasedValue (s : State) (i : SecId) (r : RecId) : Int :=
  (s.sec i).lineReference + decay (s.sec i).cfg.releaseRate (s.member r).held

/-- The candidates of a releasing section. -/
theorem State.offsetCandidate_decayOffsets {s : State} {i : SecId} (hn : (s.members i).Nodup) {r : RecId} (hr : r ∈ s.members i) :
    (s.decayOffsets i).offsetCandidate i r =
      ⟨r, s.releasedValue i r, absoluteClamp (s.sec i).cfg.absoluteLimit ⟨s.releasedValue i r, .none⟩⟩ := by
  have hsec : (s.decayOffsets i).sec i = s.sec i := State.sec_modMembers ..
  unfold State.offsetCandidate State.releasedValue
  rw [hsec, State.member_decayOffsets s hn, if_pos hr]

/-- The candidates of a releasing section name its members in order. -/
theorem State.offsetCandidates_record (s : State) (i : SecId) :
    ((s.members i).map (s.offsetCandidate i)).map Candidate.record = s.members i := by
  rw [List.map_map]; exact List.map_id _

/-- The records after the work of a releasing section. -/
theorem State.member_released {s : State} {i : SecId} (hn : (s.members i).Nodup) (q : RecId) :
    (s.released i).member q = if q ∈ s.members i then { s.member q with
      held := decay (s.sec i).cfg.releaseRate (s.member q).held
      issued := (absoluteClamp (s.sec i).cfg.absoluteLimit ⟨s.releasedValue i q, .none⟩).value
      clamp := (absoluteClamp (s.sec i).cfg.absoluteLimit ⟨s.releasedValue i q, .none⟩).mark } else s.member q := by
  have hmembers : (s.decayOffsets i).members i = s.members i := congrArg Section.members (State.sec_modMembers ..)
  have hrecords := (s.decayOffsets i).offsetCandidates_record i
  unfold State.released State.setIssueBase State.issueFrozen
  rw [State.member_modSec]
  split
  · next hq =>
    have h := State.member_issueAll i _ (s.decayOffsets i) (hrecords.symm ▸ hmembers ▸ hn) _
      (List.mem_map_of_mem (f := (s.decayOffsets i).offsetCandidate i) (hmembers ▸ hq))
    rw [State.offsetCandidate_decayOffsets hn hq] at h
    rw [h, State.member_decayOffsets s hn, if_pos hq]
  · next hq =>
    rw [State.member_issueAll_other, State.member_decayOffsets s hn, if_neg hq]
    rintro c hc rfl
    exact hq (hmembers ▸ hrecords ▸ List.mem_map_of_mem hc)

/-- Issues leave the sections. -/
theorem State.sec_issueFrozen (s : State) (i j : SecId) : (s.issueFrozen i).sec j = s.sec j := by
  unfold State.issueFrozen; exact State.sec_of_eq (congrArg State.sections (State.issueAll_frame ..) :) j

/-- The section after the work of RELEASING holds the line reference as its base, and the others are as before. -/
theorem State.sec_released (s : State) (i : SecId) :
    (s.released i).sec i = { s.sec i with issueBase := (s.sec i).lineReference } ∧ ∀ j, j ≠ i → (s.released i).sec j = s.sec j := by
  have hsec (j : SecId) : ((s.decayOffsets i).issueFrozen i).sec j = s.sec j :=
    (State.sec_issueFrozen ..).trans (State.sec_modMembers ..)
  unfold State.released State.setIssueBase
  exact ⟨by rw [State.sec_modSec_self, hsec], fun j hj => (State.sec_modSec_ne _ hj _).trans (hsec j)⟩

/-- The work of RELEASING changes sections, records and events alone. -/
theorem State.released_frame (s : State) (i : SecId) : s.released i = { s with
    sections := (s.released i).sections, pool := (s.released i).pool, events := (s.released i).events
    nextSequence := (s.released i).nextSequence } := by
  unfold State.released State.setIssueBase State.modSec State.issueFrozen
  rw [State.issueAll_frame]
  unfold State.decayOffsets State.modMembers
  rw [State.modRecs_frame]

/-- The CLAMP events of a releasing section (R55). -/
theorem State.released_clamps {s : State} {i : SecId} (hn : (s.members i).Nodup) : ClampsPosted s s (s.released i) i (s.releasedValue i) := by
  have hmembers : (s.decayOffsets i).members i = s.members i := congrArg Section.members (State.sec_modMembers ..)
  have hcs (c : Candidate) (hc : c ∈ (s.members i).map ((s.decayOffsets i).offsetCandidate i)) :
      ∃ r ∈ s.members i, c = ⟨r, s.releasedValue i r, absoluteClamp (s.sec i).cfg.absoluteLimit ⟨s.releasedValue i r, .none⟩⟩ := by
    obtain ⟨r, hr, rfl⟩ := List.mem_map.1 hc
    exact ⟨r, hr, State.offsetCandidate_decayOffsets hn hr⟩
  refine ClampsPosted.of_issueAll s s (s.decayOffsets i) (s.released i) i ((s.members i).map ((s.decayOffsets i).offsetCandidate i))
    (hmembers ▸ (s.decayOffsets i).offsetCandidates_record i) hn (fun c _ => ?_) (State.cycle_modMembers ..) (State.events_modMembers ..)
    (State.nextSequence_modMembers ..) (hmembers ▸ ⟨rfl, rfl⟩) (fun c hc => ?_) _ fun c hc => ?_
  · rw [State.member_decayOffsets s hn]; split <;> exact ⟨rfl, rfl, rfl⟩
  · obtain ⟨r, hr, rfl⟩ := hcs c hc
    rw [State.member_released hn, if_pos hr]
  · obtain ⟨r, _, rfl⟩ := hcs c hc
    rfl

/-- A releasing section forms its references, then ends RELEASING where every offset is 0 (R47, R59). -/
theorem Formed.takeSection_releasing (entries : List Entry) {s : State} {i : SecId} (h : (s.sec i).state = .releasing) (ws : List Rewrite)
    (ks : List (WatchId × Nat)) :
    Formed.takeSection entries ⟨s, ws, ks⟩ i = ⟨(s.released i).endRelease i, ws ++ (s.released i).rewritesOf i, ks⟩ := by
  unfold Formed.takeSection
  dsimp only
  rw [h]
  rfl

/-- While a held offset is not 0, RELEASING goes on (R47). -/
theorem State.endRelease_held {s : State} {i : SecId} {r : RecId} (hr : r ∈ s.members i) (h : (s.member r).held ≠ 0) :
    s.endRelease i = s := by
  unfold State.endRelease State.offsetsZero
  exact if_neg fun hall => h (of_decide_eq_true (List.all_eq_true.1 hall r hr))

/-- With every held offset 0, the section enters its release target (R47). -/
theorem State.endRelease_done {s : State} {i : SecId} {target : ReleaseTarget} (h : ∀ r ∈ s.members i, (s.member r).held = 0)
    (ht : (s.sec i).releaseTarget = some target) :
    EntersPassing s (s.endRelease i) i target.state none target.state.code 11 0 none none := by
  have hzero : s.offsetsZero i = true := List.all_eq_true.2 fun r hr => decide_eq_true (h r hr)
  have hend : s.endRelease i = s.enterPassing i target.state .releaseDone none none := by
    unfold State.endRelease; rw [if_pos hzero, ht]; rfl
  rw [hend]
  have henters := EntersPassing.of_enterPassing s i target.state .releaseDone none none
  cases target <;> exact henters

/-- The rewrites of a section whose members keep their nodes and directions (R56). -/
theorem State.rewritesOf_eq {s t : State} {i : SecId} (hmembers : t.members i = s.members i)
    (hnode : ∀ r ∈ s.members i, (t.member r).node = (s.member r).node) (hdrives : t.drives = s.drives) :
    t.rewritesOf i = (s.members i).map fun r =>
      ⟨s.memberNode r, BitVec.ofInt 24 ((s.memberDirection r).sign * (t.member r).issued)⟩ := by
  unfold State.rewritesOf
  rw [hmembers]
  refine List.map_congr_left fun r hr => ?_
  have hmem : t.memberNode r = s.memberNode r := by unfold State.memberNode; rw [hnode r hr]
  have hdir : t.memberDirection r = s.memberDirection r := by
    unfold State.memberDirection; rw [hmem, State.drive_of_eq hdrives]
  rw [hmem, hdir, Direction.sign_mul]; rfl

/-- Settles O16: the decayed offsets, the clamped references and their events, then the end of RELEASING. -/
theorem releasingDecaysAndEnds : Obligations.ReleasingDecaysAndEnds := by
  unfold Obligations.ReleasingDecaysAndEnds
  intro s i entries ws ks hm _ hst x a t moved value
  have hn := hm.nodup i
  have hmoved (r : RecId) : moved r = decay x.cfg.releaseRate (s.member r).held := (decay_eq ..).symm
  have hvalue : value = s.releasedValue i := funext fun r => congrArg (x.lineReference + ·) (hmoved r)
  obtain ⟨hself, hother⟩ := s.sec_released i
  have hmembers : (s.released i).members i = s.members i := (congrArg Section.members hself :)
  have hin (r : RecId) (hr : r ∈ s.members i) : (s.released i).member r = _ := (State.member_released hn r).trans (if_pos hr)
  have ha : a = _ := Formed.takeSection_releasing entries hst ws ks
  have hheld (r : RecId) (hr : r ∈ s.members i) : ((s.released i).member r).held = moved r := by rw [hin r hr, hmoved]
  refine ⟨s.released i, fun r hr => ?_, fun r hr => (State.member_released hn r).trans (if_neg hr), hself, hother,
    hvalue ▸ State.released_clamps hn, State.released_frame s i, ?_, congrArg Formed.skips ha, ?_, ?_⟩
  · rw [hin r hr, absoluteClamp_unmarked, hmoved, hvalue]
  · rw [ha, State.rewritesOf_eq hmembers (fun r hr => by rw [hin r hr]) (congrArg State.drives (State.released_frame s i) :)]
  · rintro ⟨r, hr, hne⟩
    exact (congrArg Formed.state ha).trans (State.endRelease_held (hmembers.symm ▸ hr) ((hheld r hr).symm ▸ hne))
  · intro hall target htarget
    have ht : t = (s.released i).endRelease i := congrArg Formed.state ha
    rw [ht]
    have hends := State.endRelease_done (fun r hr => (hheld r (hmembers ▸ hr)).trans (hall r (hmembers ▸ hr)))
      ((congrArg Section.releaseTarget hself).trans htarget)
    cases target <;> exact hends

/-! ## The line reference -/

/-- A count that saturates at 15. -/
theorem raiseCount_eq (n : Nat) : raiseCount n = if n < 15 then n + 1 else 15 := by
  unfold raiseCount; split <;> split <;> omega

/-- A section without members takes no line reference. -/
theorem State.lineStep_empty (entries : List Entry) {s : State} {i : SecId} (h : s.members i = []) : s.lineStep entries i = s := by
  unfold State.lineStep; rw [h]

/-- The lead's first entry gives the line reference (R50). -/
theorem State.lineStep_taken {entries : List Entry} {s : State} {i : SecId} {lead : RecId} {rest : List RecId}
    (h : s.members i = lead :: rest) {e : Entry} (he : entries.find? (fun e => e.node.toNat = (s.memberNode lead).val + 1) = some e) :
    s.lineStep entries i = s.takeLine i lead e := by
  unfold State.lineStep; rw [h]; dsimp only; rw [firstEntry_eq, he]

/-- No entry for the lead raises the line miss count (R51). -/
theorem State.lineStep_missed {entries : List Entry} {s : State} {i : SecId} {lead : RecId} {rest : List RecId}
    (h : s.members i = lead :: rest) (he : entries.find? (fun e => e.node.toNat = (s.memberNode lead).val + 1) = none) :
    s.lineStep entries i = s.missLine i lead := by
  unfold State.lineStep; rw [h]; dsimp only; rw [firstEntry_eq, he]

/-- The section after its line reference was taken (R50). -/
theorem State.sec_takeLine (s : State) (i : SecId) (lead : RecId) (e : Entry) : (s.takeLine i lead e).sec i = { s.sec i with
    lineReference := clampTo (-8388608) 8388607 ((s.memberDirection lead).sign * e.speed.toInt)
    leadCommand := e.command, lineMiss := 0 } := by
  unfold State.takeLine
  rw [State.sec_modSec_self, Direction.sign_mul]; rfl

/-- A section with its line miss count raised (R51). -/
def Section.missed (x : Section) : Section := { x with lineMiss := raiseCount x.lineMiss }

/-- A miss faults the section where its count reaches the miss limit and the section is monitored (R42). -/
theorem State.missLine_eq (s : State) (i : SecId) (lead : RecId) : s.missLine i lead =
    if (s.sec i).cfg.missLimit ≤ raiseCount (s.sec i).lineMiss ∧ (s.sec i).state.monitored = true then
      (s.modSec i Section.missed).enterPassing i .faulted .lineEntryLost (s.member lead).node (s.member lead).position
    else s.modSec i Section.missed := by
  have hself : (s.modSec i Section.missed).sec i = (s.sec i).missed := s.sec_modSec_self i _
  have hmiss : s.missLine i lead =
      if ((s.modSec i Section.missed).sec i).cfg.missLimit ≤ ((s.modSec i Section.missed).sec i).lineMiss then
        (s.modSec i Section.missed).faultCondition i .lineEntryLost (s.member lead).node (s.member lead).position
      else s.modSec i Section.missed := rfl
  rw [hmiss, State.faultCondition, hself, ite_and]
  rfl

/-- The events of an entry, told from a state that agrees on the engine and on what a post depends on. -/
theorem Posted.of_engine {s u t : State} {i : SecId} {v : Option Int} {d : Nat} {k : EventKind} {a : Option SecId} {n : Option NodeId}
    {p : Option Pos} {x : Option Int} {c : Nat} (hengine : u.engine = s.engine) (hevents : u.events = s.events)
    (hnext : u.nextSequence = s.nextSequence) (hcycle : u.cycle = s.cycle)
    (h : Posted (if u.engine.holder = some i then u.post .calResult (some i) none none u.cycle v d else u) t k a n p x c) :
    Posted (if s.engine.holder = some i then s.post .calResult (some i) none none s.cycle v d else s) t k a n p x c := by
  rw [hengine, hcycle] at h
  by_cases hheld : s.engine.holder = some i
  · rw [if_pos hheld] at h ⊢
    obtain ⟨hposts, hnumbers⟩ := State.post_congr hevents hnext .calResult (some i) none none s.cycle v d
    exact h.of_agree hposts hnumbers (by simpa using hcycle) rfl rfl
  · rw [if_neg hheld] at h ⊢
    exact h.of_agree hevents hnext hcycle rfl rfl

/-- Settles O17, by whether the frame holds an entry for the lead, then by the miss limit. -/
theorem lineReferenceIsTakenOrMissed : Obligations.LineReferenceIsTakenOrMissed := by
  unfold Obligations.LineReferenceIsTakenOrMissed
  refine fun s i entries => ⟨State.lineStep_empty entries, fun lead rest h => ⟨fun e he => ?_, fun he => ?_⟩⟩
  · rw [State.lineStep_taken h he]
    exact ⟨s.sec_takeLine i lead e, rfl⟩
  · rw [State.lineStep_missed h he, State.missLine_eq, ← raiseCount_eq]
    intro miss t
    have hif : ((s.sec i).cfg.missLimit ≤ miss ∧ (s.sec i).state.monitored = true) ↔
        (s.sec i).state ≠ .bypass ∧ (s.sec i).state ≠ .faulted ∧ (s.sec i).cfg.missLimit ≤ miss := by
      rw [SectionState.monitored_iff, and_comm, and_assoc]
    split
    · next hfaults =>
      have ht : t = (s.modSec i Section.missed).enterPassing i .faulted .lineEntryLost (s.member lead).node (s.member lead).position :=
        if_pos (hif.2 hfaults)
      have henters := EntersPassing.of_enterPassing (s.modSec i Section.missed) i .faulted .lineEntryLost
        (s.member lead).node (s.member lead).position
      rw [← ht] at henters
      obtain ⟨hsec, _, hmember, _, hengine, hposted, _⟩ := henters
      rw [State.sec_modSec_self] at hsec
      have hmembers : (s.modSec i Section.missed).members i = s.members i :=
        (congrArg Section.members (s.sec_modSec_self i Section.missed) :)
      refine ⟨hsec, fun r hr => hmember r (hmembers.symm ▸ hr), hengine, ?_⟩
      exact Posted.of_engine (u := s.modSec i Section.missed) (s := s) rfl rfl rfl rfl hposted
    · next hkept =>
      have ht : t = s.modSec i Section.missed := if_neg fun h => hkept (hif.1 h)
      rw [ht]
      exact ⟨s.sec_modSec_self i Section.missed, rfl⟩

end Sys2Proof.Machine
end

section
/-! PROOFS. The Section Monitor (R115 to R125): the table of a limit and of the zero-crossings, and what their changes post and request. -/

namespace Sys2Proof.Machine

/-! ## One limit (R119) -/

/-- A limit is exceeded where its threshold is not 0 and the value is greater. -/
theorem Limit.over_iff (l : Limit) (v : Int) : l.over v = true ↔ l.threshold ≠ 0 ∧ l.threshold < v := by
  unfold Limit.over
  rw [Bool.and_eq_true, decide_eq_true_eq, decide_eq_true_eq]

/-- A limit is not exceeded. -/
theorem Limit.over_false (l : Limit) (v : Int) : l.over v = false ↔ ¬ (l.threshold ≠ 0 ∧ l.threshold < v) := by
  rw [← l.over_iff, Bool.not_eq_true]

/-- Inside and exceeded, the dwell not reached: the counter rises. -/
theorem Limit.evaluate_counts {l : Limit} {v : Int} (hs : l.state = .inside) (ho : l.threshold ≠ 0 ∧ l.threshold < v)
    (hd : l.counter + 1 < l.dwell) : l.evaluate v = ({ l with counter := l.counter + 1 }, .stays) := by
  unfold Limit.evaluate
  rw [hs, (l.over_iff v).2 ho]
  exact if_neg (Nat.not_le.2 hd)

/-- Inside and exceeded, the dwell reached: the limit goes OUTSIDE. -/
theorem Limit.evaluate_out {l : Limit} {v : Int} (hs : l.state = .inside) (ho : l.threshold ≠ 0 ∧ l.threshold < v)
    (hd : l.dwell ≤ l.counter + 1) : l.evaluate v = ({ l with counter := l.counter + 1, state := .outside }, .out) := by
  unfold Limit.evaluate
  rw [hs, (l.over_iff v).2 ho]
  exact if_pos hd

/-- Inside and not exceeded: the counter is 0. -/
theorem Limit.evaluate_inside {l : Limit} {v : Int} (hs : l.state = .inside) (ho : ¬ (l.threshold ≠ 0 ∧ l.threshold < v)) :
    l.evaluate v = ({ l with counter := 0 }, .stays) := by
  unfold Limit.evaluate
  rw [hs, (l.over_false v).2 ho]

/-- Outside and exceeded: nothing changes. -/
theorem Limit.evaluate_outside {l : Limit} {v : Int} (hs : l.state = .outside) (ho : l.threshold ≠ 0 ∧ l.threshold < v) :
    l.evaluate v = (l, .stays) := by
  unfold Limit.evaluate
  rw [hs, (l.over_iff v).2 ho]

/-- Outside and not exceeded: the limit comes back. -/
theorem Limit.evaluate_back {l : Limit} {v : Int} (hs : l.state = .outside) (ho : ¬ (l.threshold ≠ 0 ∧ l.threshold < v)) :
    l.evaluate v = ({ l with state := .inside, counter := 0 }, .back) := by
  unfold Limit.evaluate
  rw [hs, (l.over_false v).2 ho]

/-! ## One zero-crossing step (R124) -/

/-- The crossing count raised, at most 255. -/
def Monitor.raised (m : Monitor) : Nat := if m.zeroCross = 255 then 255 else m.zeroCross + 1

/-- The raised count of a count in its range. -/
theorem Monitor.raised_eq {m : Monitor} (h : m.zeroCross ≤ 255) : min 255 (m.zeroCross + 1) = m.raised := by
  unfold Monitor.raised; split <;> omega

/-- An error above the band. -/
theorem Monitor.crossing_above {m : Monitor} {e : Int} (h : m.band < e) (hz : m.zeroCross ≤ 255) :
    (m.sign = .none → m.crossing e = ({ m with sign := .positive }, false)) ∧
    (m.sign = .negative → m.crossing e = ({ m with sign := .positive, zeroCross := m.raised }, true)) ∧
    (m.sign = .positive → m.crossing e = (m, false)) := by
  unfold Monitor.crossing
  rw [if_pos h, m.raised_eq hz]
  exact ⟨fun hs => by rw [hs], fun hs => by rw [hs], fun hs => by rw [hs]⟩

/-- An error below the band. -/
theorem Monitor.crossing_below {m : Monitor} {e : Int} (hb : 0 ≤ m.band) (h : e < -m.band) (hz : m.zeroCross ≤ 255) :
    (m.sign = .none → m.crossing e = ({ m with sign := .negative }, false)) ∧
    (m.sign = .positive → m.crossing e = ({ m with sign := .negative, zeroCross := m.raised }, true)) ∧
    (m.sign = .negative → m.crossing e = (m, false)) := by
  unfold Monitor.crossing
  rw [if_neg (by omega), if_pos h, m.raised_eq hz]
  exact ⟨fun hs => by rw [hs], fun hs => by rw [hs], fun hs => by rw [hs]⟩

/-- An error inside the band changes nothing. -/
theorem Monitor.crossing_inside {m : Monitor} {e : Int} (hl : -m.band ≤ e) (hu : e ≤ m.band) : m.crossing e = (m, false) := by
  unfold Monitor.crossing
  rw [if_neg (by omega), if_neg (by omega)]

/-! ## The step on a state -/

/-- Two changes of one section's record. -/
theorem State.modSec_modSec (s : State) (i : SecId) (f g : Section → Section) :
    (s.modSec i f).modSec i g = s.modSec i fun x => g (f x) := by
  unfold State.modSec
  simp only [Fin.getElem_fin, Vector.getElem_set_self, Vector.set_set]

/-- A change that leaves the section's record leaves the state. -/
theorem State.modSec_same {s : State} {i : SecId} {f : Section → Section} (h : f (s.sec i) = s.sec i) : s.modSec i f = s := by
  unfold State.modSec
  rw [show f s.sections[i] = s.sections[i] from h]
  simp

/-- The section after a change of its monitor record. -/
theorem State.sec_modMonitor (s : State) (i : SecId) (f : Monitor → Monitor) :
    (s.modMonitor i f).sec i = { s.sec i with monitor := f (s.sec i).monitor } := s.sec_modSec_self i _

/-- The zero-cross step of a section with a lead, in TRIAL and not start-pending, reads the lead's error. -/
theorem State.zeroCrossStep_trial {s : State} {i : SecId} {c : Word16} {lead : RecId} {rest : List RecId} (h : s.members i = lead :: rest)
    (hst : (s.sec i).state = .trial) (hp : (s.sec i).startPending = false) :
    let x := (s.sec i).monitor.crossing (s.speedError lead)
    s.zeroCrossStep i c =
      if (x.2 && x.1.oscillates) = true then
        ((s.modMonitor i fun _ => { x.1 with fired := true }).post .oscillation (some i) (s.member lead).node (some 0) c
          (some (x.1.zeroCross : Int)) x.1.oscillationAction.code).requestAction i x.1.oscillationAction .oscillation none
            (s.member lead).node (some 0)
      else s.modMonitor i fun _ => x.1 := by
  unfold State.zeroCrossStep
  rw [if_pos ⟨hst, hp⟩, h]
  dsimp only
  rw [show (s.modMonitor i fun _ => ((s.sec i).monitor.crossing (s.speedError lead)).1).modMonitor i (fun m => { m with fired := true }) =
    s.modMonitor i fun _ => { ((s.sec i).monitor.crossing (s.speedError lead)).1 with fired := true } from
      State.modSec_modSec s i _ _]
  rfl

/-- The zero-cross step of other sections does nothing. -/
theorem State.zeroCrossStep_other {s : State} {i : SecId} (c : Word16)
    (h : s.members i = [] ∨ (s.sec i).state ≠ .trial ∨ (s.sec i).startPending = true) : s.zeroCrossStep i c = s := by
  unfold State.zeroCrossStep
  split
  · next htrial =>
    obtain ⟨hst, hp⟩ := htrial
    rcases h with h | h | h
    · rw [h]
    · exact absurd hst h
    · rw [hp] at h; cases h
  · rfl

/-- Whether an oscillation fires (R125). -/
theorem Monitor.fires_iff (b : Bool) (m : Monitor) : (b && m.oscillates) = true ↔
    b = true ∧ m.oscillationLimit ≠ 0 ∧ m.oscillationLimit ≤ m.zeroCross ∧ m.fired = false := by
  unfold Monitor.oscillates
  simp only [Bool.and_eq_true, decide_eq_true_eq, Bool.not_eq_true', and_assoc]

/-- Settles O25: the tables by their cases, the order of the four steps, and the oscillation's event and request. -/
theorem limitAndZeroCrossTables : Obligations.LimitAndZeroCrossTables := by
  unfold Obligations.LimitAndZeroCrossTables
  refine ⟨?_, ?_, fun _ _ _ => rfl, ?_⟩
  · intro l v exceeds
    exact ⟨Limit.evaluate_counts, Limit.evaluate_out, Limit.evaluate_inside, Limit.evaluate_outside, Limit.evaluate_back⟩
  · intro m e hb hz raised
    exact ⟨fun he => (m.crossing_above he hz).1, fun he => (m.crossing_above he hz).2.1, fun he => (m.crossing_below hb he hz).1,
      fun he => (m.crossing_below hb he hz).2.1, fun he => (m.crossing_above he hz).2.2, fun he => (m.crossing_below hb he hz).2.2,
      m.crossing_inside⟩
  · intro s i c x t
    refine ⟨State.zeroCrossStep_other c, ?_⟩
    intro lead rest h hst hp step m node fires
    refine ⟨fun hn => ?_, ?_⟩
    · have ht : t = s.modMonitor i fun _ => m :=
        (State.zeroCrossStep_trial h hst hp).trans (if_neg fun hx => hn ((Monitor.fires_iff ..).1 hx))
      rw [ht]
      exact ⟨s.sec_modMonitor i _, rfl⟩
    · intro hf code u
      have hcode : code = m.oscillationAction.code := by simp only [code]; cases m.oscillationAction <;> rfl
      have hu : t = u.requestAction i m.oscillationAction .oscillation none node (some 0) := by
        simp only [u, hcode]
        exact (State.zeroCrossStep_trial h hst hp).trans (if_pos ((Monitor.fires_iff ..).2 hf))
      have hstate : (u.sec i).state = .trial := by
        simp only [u, State.sec_post, State.sec_modSec_self]; exact hst
      obtain ⟨hevent, hfreeze, _, hrelease, _, habort, _⟩ :=
        State.requestAction_spec u i m.oscillationAction .oscillation none node (some 0)
      rw [← hu] at hevent hfreeze hrelease habort
      exact ⟨hevent, fun ha => hfreeze ha hstate, fun ha => hrelease ha (.inl hstate), fun ha => habort ha (by rw [hstate]; rfl)⟩

/-! ## The evaluation of a limit (R117 to R121) -/

/-- A section without members evaluates no limit. -/
theorem State.evaluateLimit_empty {s : State} {i : SecId} (c : Word16) (k : LimitKind) (h : s.members i = []) : s.evaluateLimit i c k = s := by
  unfold State.evaluateLimit; rw [h]; rfl

/-- The evaluation on the largest value, by what it does to the limit. -/
theorem State.evaluateLimit_of {s : State} {i : SecId} {k : LimitKind} {r : RecId} {v : Int} {l : Limit} {edge : LimitEdge} (c : Word16)
    (hv : largest (s.comparedOf k) (s.members i) = some (r, v)) (hl : ((s.sec i).monitor.limit k).evaluate v = (l, edge)) :
    s.evaluateLimit i c k =
      match (generalizing := false) edge with
      | .stays => s.modMonitor i fun m => m.setLimit k l
      | .back => (s.modMonitor i fun m => m.setLimit k l).post .limitIn (some i) (s.member r).node (s.member r).position c (some v) k.code
      | .out => (((s.modMonitor i fun m => m.setLimit k l).post .limitOut (some i) (s.member r).node (s.member r).position c (some v)
          k.code).signal .limit i.val).requestAction i l.action .limit (some k.code) none none := by
  unfold State.evaluateLimit
  rw [hv]
  dsimp only
  rw [hl]
  cases edge <;> rfl

/-- Setting the limit that a monitor record holds. -/
theorem Monitor.setLimit_limit (m : Monitor) (k : LimitKind) : m.setLimit k (m.limit k) = m := by cases k <;> rfl

/-- Settles O26, by the five cases of the limit's table. -/
theorem limitOutsidePostsAndRequests : Obligations.LimitOutsidePostsAndRequests := by
  unfold Obligations.LimitOutsidePostsAndRequests
  refine ⟨fun s i c k => State.evaluateLimit_empty c k, ?_⟩
  intro s i c kind k r hk x compared hlargest code l t exceeds limitBecomes
  have hcompared : compared = s.comparedOf kind := by funext q; simp only [compared]; cases kind <;> rfl
  have hcode : code = kind.code := by simp only [code]; cases kind <;> rfl
  have hv : largest (s.comparedOf kind) (s.members i) = some (r, compared r) :=
    hcompared ▸ largest_first compared _ k r hk hlargest
  have ht {l' : Limit} {edge : LimitEdge} (hl : l.evaluate (compared r) = (l', edge)) : t = _ := State.evaluateLimit_of c hv hl
  refine ⟨fun hs ho hd => ht (Limit.evaluate_counts hs ho hd), fun hs ho => ht (Limit.evaluate_inside hs ho), fun hs ho => ?_,
    fun hs ho => hcode ▸ ht (Limit.evaluate_back hs ho), ?_⟩
  · refine (ht (Limit.evaluate_outside hs ho)).trans (State.modSec_same ?_)
    exact congrArg (fun m => { x with monitor := m }) (x.monitor.setLimit_limit kind)
  · intro hs ho hd u
    have hu : t = u.requestAction i l.action .limit (some code) none none := by
      simp only [u, hcode]; exact ht (Limit.evaluate_out hs ho hd)
    have hstate : (u.sec i).state = x.state := by
      simp only [u, limitBecomes, State.sec_signal, State.sec_post, State.sec_modSec_self]; rfl
    have hspec := State.requestAction_spec u i l.action .limit (some code) none none
    rw [← hu, hstate] at hspec
    exact hspec

end Sys2Proof.Machine
end

section
/-! PROOFS. The watch points (R128 to R136): what one point sees, what an occurrence counts, latches, posts and requests, and the values
that the sources present. -/

namespace Sys2Proof.Machine

/-! ## What a point sees (R130) -/

/-- A watch point sees values of node n from a source. -/
def WatchPoint.Sees (p : WatchPoint) (n : NodeId) (src : OccurrenceSource) : Prop :=
  p.action ≠ .off ∧ p.node = n ∧ (p.source = .any ∨ p.source = .only src)

/-- A source setting takes a source where it is ANY or names it. -/
theorem WatchSource.accepts_iff (w : WatchSource) (src : OccurrenceSource) : w.accepts src = true ↔ w = .any ∨ w = .only src := by
  cases w with
  | any => simp [WatchSource.accepts]
  | only x => simp [WatchSource.accepts]

/-- The look of one point, by what it sees. -/
theorem Watched.point_eq (a : Watched) (n : NodeId) (src : OccurrenceSource) (values : List (WatchField × Int)) (change : ChangeStop)
    (w : WatchId) :
    (¬ (a.state.watch w).Sees n src ∨ values.find? (fun x => x.1 = (a.state.watch w).field) = none →
      a.point n src values change w = a) ∧
    ∀ f v, (a.state.watch w).Sees n src → values.find? (fun x => x.1 = (a.state.watch w).field) = some (f, v) →
      a.point n src values change w =
        ⟨(a.state.occurrence w v src change).1, a.late ++ (a.state.occurrence w v src change).2⟩ := by
  have hif : ((a.state.watch w).action ≠ .off ∧ (a.state.watch w).node = n ∧ (a.state.watch w).source.accepts src = true) ↔
      (a.state.watch w).Sees n src := by
    rw [WatchSource.accepts_iff]; rfl
  unfold Watched.point presented
  dsimp only
  refine ⟨fun h => ?_, fun f v hsees hv => ?_⟩
  · split
    · next hsees =>
      rw [h.resolve_left (fun hn => hn (hif.1 hsees))]
      rfl
    · rfl
  · rw [if_pos (hif.2 hsees), hv]
    rfl

/-! ## Hits (R131, R132, R133) -/

/-- A value stops at a point: a change at a STOP_ON_CHANGE point, a match at a STOP_ON_MATCH point. -/
def WatchPoint.Stopping (p : WatchPoint) (v : Int) : Prop :=
  (p.action = .stopOnChange ∧ p.lastSeenFlag = true ∧ v ≠ p.lastSeen) ∨
    (p.action = .stopOnMatch ∧ ((p.mode = .equal ∧ v = p.value) ∨ (p.mode = .above ∧ p.value < v) ∨ (p.mode = .below ∧ v < p.value)))

/-- A compare mode holds in the way that it names. -/
theorem CompareMode.holds_iff (m : CompareMode) (v c : Int) :
    m.holds v c = true ↔ (m = .equal ∧ v = c) ∨ (m = .above ∧ c < v) ∨ (m = .below ∧ v < c) := by
  cases m with
  | equal => simp [CompareMode.holds]
  | above => simp [CompareMode.holds]
  | below => simp [CompareMode.holds]

/-- The hits of a point that is not OFF: every value at a MONITOR point, and the values that stop. -/
theorem WatchPoint.hits_iff {p : WatchPoint} (h : p.action ≠ .off) (v : Int) :
    p.hits v = true ↔ p.action = .monitor ∨ p.Stopping v := by
  unfold WatchPoint.hits WatchPoint.Stopping
  cases ha : p.action with
  | off => exact absurd ha h
  | monitor => simp
  | stopOnChange => simp
  | stopOnMatch => simp [CompareMode.holds_iff]

/-- A value stops at points with a stop action alone. -/
theorem WatchPoint.Stopping.stops {p : WatchPoint} {v : Int} (h : p.Stopping v) : p.action.stops = true := by
  rcases h with ⟨ha, _⟩ | ⟨ha, _⟩ <;> rw [ha] <;> rfl

/-! ## The marks of an occurrence -/

/-- The watch points take no part in posting an event. -/
theorem State.post_watches (s : State) (x : Vector WatchPoint 4) (k : EventKind) (a : Option SecId) (n : Option NodeId) (p : Option Pos)
    (c : Word16) (v : Option Int) (d : Nat) :
    State.post { s with watches := x } k a n p c v d = { s.post k a n p c v d with watches := x } := by
  unfold State.post; dsimp only; split <;> rfl

/-- The watch points take no part in a trigger (R147). -/
theorem State.signal_watches (s : State) (k : TriggerKind) (y : Nat) (x : Vector WatchPoint 4) :
    State.signal { s with watches := x } k y = { s.signal k y with watches := x } := by
  unfold State.signal State.takeTrigger
  dsimp only
  split
  · split
    · rfl
    · split
      · unfold State.captureDone State.modCapture
        dsimp only
        rw [← State.post_watches]
      · rfl
    · rfl
  · rfl

/-- The event and the trigger of a hit at a point with a stop action (R131, R136). -/
def State.hitPosted (s : State) (w : WatchId) (v : Int) : State :=
  (s.post .watchHit (s.drive (s.watch w).node).inSection (some (s.watch w).node) (s.positionOf (s.watch w).node) s.cycle (some v)
    w.val).signal .watch w.val

/-- The state after the marks of a hit: count, latch, event, trigger and last-seen value. -/
def State.hitMarked (s : State) (w : WatchId) (v : Int) (src : OccurrenceSource) : State :=
  (s.watchHit w v src).modWatch w fun p => p.seen v

/-- The marks of a hit at a MONITOR point change the watch points alone. -/
theorem State.hitMarked_monitor {s : State} {w : WatchId} {v : Int} {src : OccurrenceSource} (h : (s.watch w).action.stops = false) :
    s.hitMarked w v src = { s with watches := (s.hitMarked w v src).watches } ∧
      s.hitMarked w v src = (s.modWatch w fun p => p.latched v s.cycle src).modWatch w fun p => p.seen v := by
  have hhit : s.watchHit w v src = s.modWatch w fun p => p.latched v s.cycle src := by
    unfold State.watchHit
    exact if_neg (by rw [h]; decide)
  unfold State.hitMarked
  rw [hhit]
  exact ⟨rfl, rfl⟩

/-- The marks of a hit at a point that stops: the watch points, the event and the trigger. -/
theorem State.hitMarked_stops {s : State} {w : WatchId} {v : Int} {src : OccurrenceSource} (h : (s.watch w).action.stops = true) :
    s.hitMarked w v src = { s.hitPosted w v with watches := (s.hitMarked w v src).watches } ∧
      (s.hitMarked w v src).watches =
        ((s.modWatch w fun p => p.latched v s.cycle src).modWatch w fun p => p.seen v).watches := by
  have hhit : s.watchHit w v src = { s.hitPosted w v with watches := (s.modWatch w fun p => p.latched v s.cycle src).watches } := by
    unfold State.watchHit State.hitPosted
    rw [← State.signal_watches, ← State.post_watches]
    exact if_pos h
  unfold State.hitMarked
  rw [hhit]
  exact ⟨rfl, rfl⟩

/-- The watch points after the marks of a hit. -/
theorem State.watch_hitMarked (s : State) (w : WatchId) (v : Int) (src : OccurrenceSource) (x : WatchId) :
    (s.hitMarked w v src).watch x = if x = w then ((s.watch w).latched v s.cycle src).seen v else s.watch x := by
  have hwatches : (s.hitMarked w v src).watches =
      ((s.modWatch w fun p => p.latched v s.cycle src).modWatch w fun p => p.seen v).watches := by
    cases h : (s.watch w).action.stops with
    | false => rw [(s.hitMarked_monitor h).2]
    | true => exact (s.hitMarked_stops h).2
  have hwatch : (s.hitMarked w v src).watch x =
      ((s.modWatch w fun p => p.latched v s.cycle src).modWatch w fun p => p.seen v).watch x := congrArg (fun y => y[x]) hwatches
  rw [hwatch, State.watch_modWatch, State.watch_modWatch, State.watch_modWatch, if_pos rfl]
  split <;> rfl

/-- A hit's marks at its point, the count saturated at 65535. -/
theorem WatchPoint.latched_seen (p : WatchPoint) (v : Int) (c : Word16) (src : OccurrenceSource) : (p.latched v c src).seen v = { p with
    lastSeen := v, lastSeenFlag := true, hitCount := if p.hitCount < 65535 then p.hitCount + 1 else 65535
    latchValue := v, latchCycle := c, latchSource := some src } := by
  have hcount : min 65535 (p.hitCount + 1) = if p.hitCount < 65535 then p.hitCount + 1 else 65535 := by split <;> omega
  unfold WatchPoint.latched WatchPoint.seen
  rw [hcount]

/-! ## One occurrence -/

/-- An occurrence that is no hit renews the last-seen value alone. -/
theorem State.occurrence_miss {s : State} {w : WatchId} {v : Int} (h : (s.watch w).hits v = false) (src : OccurrenceSource)
    (change : ChangeStop) : s.occurrence w v src change = (s.modWatch w fun p => p.seen v, []) := by
  unfold State.occurrence
  exact if_neg (by rw [h]; decide)

/-- A hit at a MONITOR point leaves its marks alone. -/
theorem State.occurrence_monitor {s : State} {w : WatchId} (h : (s.watch w).action = .monitor) (v : Int) (src : OccurrenceSource)
    (change : ChangeStop) : s.occurrence w v src change = (s.hitMarked w v src, []) := by
  have hhits : (s.watch w).hits v = true := by unfold WatchPoint.hits; rw [h]
  unfold State.occurrence
  dsimp only
  rw [if_pos hhits, h]
  rfl

/-- A value that stops leaves its marks, and its request is taken or kept for after the references. -/
theorem State.occurrence_stops {s : State} {w : WatchId} {v : Int} (h : (s.watch w).Stopping v) (src : OccurrenceSource)
    (change : ChangeStop) :
    (s.watchRequest w = none → s.occurrence w v src change = (s.hitMarked w v src, [])) ∧
    ∀ r, s.watchRequest w = some r → s.occurrence w v src change =
      if (s.watch w).action = .stopOnChange ∧ change = .late then (s.hitMarked w v src, [r])
      else ((s.hitMarked w v src).takeLate r, []) := by
  have hoff : (s.watch w).action ≠ .off := fun he => by have hstops := h.stops; rw [he] at hstops; cases hstops
  have hhits := (WatchPoint.hits_iff hoff v).2 (.inr h)
  unfold State.occurrence
  dsimp only
  rw [if_pos hhits, if_pos h.stops]
  refine ⟨fun hr => ?_, fun r hr => ?_⟩ <;> rw [hr] <;> rfl

/-- The request of a hit at a point: the freeze of its node's section, where that is in TRIAL (R132, R133). -/
theorem State.watchRequest_eq_some {s : State} {w : WatchId} {i : SecId} (hi : (s.drive (s.watch w).node).inSection = some i)
    (ht : (s.sec i).state = .trial) :
    s.watchRequest w = some (.freeze i .watch (some w.val) (some (s.watch w).node) (s.positionOf (s.watch w).node)) := by
  unfold State.watchRequest
  dsimp only
  rw [hi]
  exact if_pos ht

/-- No section in TRIAL, no request. -/
theorem State.watchRequest_eq_none {s : State} {w : WatchId}
    (h : ∀ i, (s.drive (s.watch w).node).inSection = some i → (s.sec i).state ≠ .trial) : s.watchRequest w = none := by
  unfold State.watchRequest
  dsimp only
  cases hi : (s.drive (s.watch w).node).inSection with
  | none => rfl
  | some i => exact if_neg (h i hi)

/-- What a value that stops does, in the words of the statements. -/
theorem State.occurrence_stopping {s : State} {w : WatchId} {v : Int} (h : (s.watch w).Stopping v) (src : OccurrenceSource)
    (change : ChangeStop) :
    let p := s.watch w
    let a := s.occurrence w v src change
    let u := s.hitPosted w v
    a.1.watches = (s.hitMarked w v src).watches ∧ a.1.capture = u.capture ∧
    ((∀ i, (s.drive p.node).inSection = some i → (s.sec i).state ≠ .trial) → a.2 = [] ∧ a.1 = { u with watches := a.1.watches }) ∧
    ∀ i, (s.drive p.node).inSection = some i → (s.sec i).state = .trial →
      (p.action = .stopOnChange → change = .late →
        a.2 = [.freeze i .watch (some w.val) (some p.node) (s.positionOf p.node)] ∧ a.1 = { u with watches := a.1.watches }) ∧
      (p.action = .stopOnMatch ∨ change = .now → a.2 = [] ∧
        EntersFrozen { u with watches := a.1.watches } a.1 i .watch (some w.val) 1 (some p.node) (s.positionOf p.node)) := by
  intro p a u
  obtain ⟨hnone, hsome⟩ := State.occurrence_stops h src change
  have hmarked : s.hitMarked w v src = { u with watches := (s.hitMarked w v src).watches } := (State.hitMarked_stops h.stops).1
  have hcapture : (s.hitMarked w v src).capture = u.capture := (congrArg State.capture hmarked :)
  have hstate (i : SecId) : ((s.hitMarked w v src).sec i).state = (s.sec i).state := by
    have hsections : (s.hitMarked w v src).sections = u.sections := (congrArg State.sections hmarked :)
    rw [State.sec_of_eq hsections]
    simp only [u, State.hitPosted, State.sec_signal, State.sec_post]
  generalize s.hitMarked w v src = m at *
  by_cases htrial : ∃ i, (s.drive p.node).inSection = some i ∧ (s.sec i).state = .trial
  · obtain ⟨i, hi, ht⟩ := htrial
    have ha : a = _ := hsome _ (State.watchRequest_eq_some hi ht)
    have hfreeze := EntersFrozen.of_enterFrozen m i .watch (some w.val) (some p.node) (s.positionOf p.node)
    have htake : m.takeLate (.freeze i .watch (some w.val) (some p.node) (s.positionOf p.node)) =
        m.enterFrozen i .watch (some w.val) (some p.node) (s.positionOf p.node) := if_pos ((hstate i).trans ht)
    rw [htake] at ha
    have hframe := hfreeze.2.2.2.2.2
    have hkeeps : (m.enterFrozen i .watch (some w.val) (some p.node) (s.positionOf p.node)).watches = m.watches ∧
        (m.enterFrozen i .watch (some w.val) (some p.node) (s.positionOf p.node)).capture = m.capture :=
      ⟨(congrArg State.watches hframe :), (congrArg State.capture hframe :)⟩
    generalize m.enterFrozen i .watch (some w.val) (some p.node) (s.positionOf p.node) = z at *
    have hi' : ∀ j, (s.drive p.node).inSection = some j → j = i := fun j hj => Option.some.inj (hj.symm.trans hi)
    by_cases hlate : p.action = .stopOnChange ∧ change = .late
    · have ha' : a = (m, [.freeze i .watch (some w.val) (some p.node) (s.positionOf p.node)]) := ha.trans (if_pos hlate)
      rw [ha']
      refine ⟨rfl, hcapture, fun hnot => absurd ht (hnot i hi), fun j hj _ => ?_⟩
      obtain rfl := hi' j hj
      refine ⟨fun _ _ => ⟨rfl, hmarked⟩, ?_⟩
      rintro (hmatch | hnow)
      · rw [hlate.1] at hmatch; cases hmatch
      · rw [hlate.2] at hnow; cases hnow
    · have ha' : a = (z, []) := ha.trans (if_neg hlate)
      rw [ha']
      refine ⟨hkeeps.1, hkeeps.2.trans hcapture, fun hnot => absurd ht (hnot i hi), fun j hj _ => ?_⟩
      obtain rfl := hi' j hj
      refine ⟨fun h1 h2 => absurd ⟨h1, h2⟩ hlate, fun _ => ⟨rfl, ?_⟩⟩
      dsimp only
      rw [hkeeps.1, ← hmarked]
      exact hfreeze
  · have hnot (i : SecId) (hi : (s.drive p.node).inSection = some i) : (s.sec i).state ≠ .trial := fun ht => htrial ⟨i, hi, ht⟩
    have ha : a = (m, []) := hnone (State.watchRequest_eq_none hnot)
    rw [ha]
    exact ⟨rfl, hcapture, fun _ => ⟨rfl, hmarked⟩, fun i hi ht => absurd ht (hnot i hi)⟩

/-! ## The values presented (R130, R134, R135) -/

/-- Points that none skips. -/
theorem Watched.points_all (a : Watched) (n : NodeId) (src : OccurrenceSource) (values : List (WatchField × Int)) (change : ChangeStop) :
    a.points n src values change none = ([0, 1, 2, 3] : List WatchId).foldl (fun b w => b.point n src values change w) a := rfl

/-- The LINE values of an entry. -/
theorem Watched.lineEntry_node {e : Entry} {n : NodeId} (h : e.node.toNat = n.val + 1) (a : Watched) :
    a.lineEntry e = ([0, 1, 2, 3] : List WatchId).foldl
      (fun b w => b.point n .line [(.reference, clampTo (-8388607) 8388607 ((a.state.drive n).direction.sign * e.speed.toInt)),
        (.command, e.command.code)] .late w) a := by
  unfold Watched.lineEntry
  rw [(nodeOf_eq_some _ n).2 h, Direction.sign_mul]
  rfl

/-- The point that an entry's skip names. -/
theorem skips_find (skips : List (WatchId × Nat)) (k : Nat) (w : WatchId) :
    (skips.find? fun x => x.2 = k).map (·.1) = some w ↔ skips.find? (fun x => x.2 = k) = some (w, k) := by
  constructor
  · intro h
    obtain ⟨⟨w', k'⟩, hx, rfl⟩ := Option.map_eq_some_iff.1 h
    obtain rfl : k' = k := by simpa using List.find?_some hx
    exact hx
  · intro h
    rw [h]; rfl

/-- The ISSUED values of an entry. -/
theorem Watched.issuedEntry_node {e : Entry} {n : NodeId} (h : e.node.toNat = n.val + 1) (a : Watched) (skips : List (WatchId × Nat))
    (k : Nat) :
    a.issuedEntry skips (e, k) = ([0, 1, 2, 3] : List WatchId).foldl
      (fun b w => if skips.find? (fun x => x.2 = k) = some (w, k) then b
        else b.point n .issued [(.reference, a.state.issuedValue n e), (.command, e.command.code)] .late w) a := by
  unfold Watched.issuedEntry
  dsimp only
  rw [(nodeOf_eq_some _ n).2 h]
  refine List.foldl_ext _ _ _ fun b w _ => ?_
  exact if_congr (skips_find skips k w) rfl rfl

/-- The reference of an ISSUED occurrence: the recorded one of a member, the forwarded one of another node. -/
theorem State.issuedValue_eq (s : State) (n : NodeId) (e : Entry) :
    (s.recordOf n = none → s.issuedValue n e = (s.drive n).direction.sign * e.speed.toInt) ∧
      ∀ r, s.recordOf n = some r → s.issuedValue n e = (s.member r).issued := by
  unfold State.issuedValue
  refine ⟨fun h => ?_, fun r h => ?_⟩
  · rw [h, Direction.sign_mul]
  · rw [h]

/-- An entry that names no node shows nothing. -/
theorem Watched.entry_none {e : Entry} (h : ∀ n : NodeId, e.node.toNat ≠ n.val + 1) (a : Watched) (skips : List (WatchId × Nat)) (k : Nat) :
    a.lineEntry e = a ∧ a.issuedEntry skips (e, k) = a := by
  have hnode : nodeOf e.node.toNat = none := Option.eq_none_iff_forall_ne_some.2 fun n hn => h n ((nodeOf_eq_some _ n).1 hn)
  unfold Watched.lineEntry Watched.issuedEntry
  dsimp only
  rw [hnode]
  exact ⟨rfl, rfl⟩

/-- Settles O27: what a point sees, the four kinds of occurrence, and the values of the sources. -/
theorem watchOccurrenceHitsAndLatches : Obligations.WatchOccurrenceHitsAndLatches := by
  unfold Obligations.WatchOccurrenceHitsAndLatches
  refine ⟨Watched.point_eq, ?_, fun a e n h => Watched.lineEntry_node h a,
    fun a skips e k n h => ⟨a.state.issuedValue n e, (a.state.issuedValue_eq n e).1, (a.state.issuedValue_eq n e).2,
      Watched.issuedEntry_node h a skips k⟩,
    fun a skips e k h => Watched.entry_none h a skips k, fun _ _ _ => rfl⟩
  intro s w v src change hoff p a t stopping hit u
  have hhits : p.hits v = true ↔ hit := WatchPoint.hits_iff hoff v
  by_cases hstop : stopping
  · have hhit : hit := .inr hstop
    obtain ⟨hwatches, hspec⟩ := State.occurrence_stopping (s := s) (w := w) hstop src change
    have hwatch (x : WatchId) : t.watch x = _ :=
      (congrArg (fun y => y[x]) hwatches : t.watch x = (s.hitMarked w v src).watch x).trans (s.watch_hitMarked w v src x)
    exact ⟨fun _ => (hwatch w).trans ((if_pos rfl).trans (WatchPoint.latched_seen ..)), fun hn => absurd hhit hn,
      fun x hx => (hwatch x).trans (if_neg hx), fun hn => absurd hstop hn, fun _ => hspec⟩
  · by_cases hmonitor : p.action = .monitor
    · have ha : a = (s.hitMarked w v src, []) := State.occurrence_monitor hmonitor v src change
      have ht : t = s.hitMarked w v src := congrArg Prod.fst ha
      have hframe := (State.hitMarked_monitor (s := s) (w := w) (v := v) (src := src) (by rw [show (s.watch w).action = _ from hmonitor]; rfl)).1
      rw [ht]
      exact ⟨fun _ => (s.watch_hitMarked w v src w).trans ((if_pos rfl).trans (WatchPoint.latched_seen ..)),
        fun hn => absurd (.inl hmonitor) hn, fun x hx => (s.watch_hitMarked w v src x).trans (if_neg hx),
        fun _ => ⟨congrArg Prod.snd ha, hframe⟩, fun hs => absurd hs hstop⟩
    · have hmiss : ¬ hit := fun h => h.elim hmonitor hstop
      have ha : a = (s.modWatch w fun p => p.seen v, []) :=
        State.occurrence_miss (Bool.eq_false_iff.2 fun h => hmiss (hhits.1 h)) src change
      have ht : t = s.modWatch w fun p => p.seen v := congrArg Prod.fst ha
      rw [ht]
      exact ⟨fun h => absurd h hmiss, fun _ => (State.watch_modWatch ..).trans (if_pos rfl),
        fun x hx => (State.watch_modWatch ..).trans (if_neg hx), fun _ => ⟨congrArg Prod.snd ha, rfl⟩, fun hs => absurd hs hstop⟩

end Sys2Proof.Machine
end

section
/-! SUPPORT. What the work on one section's set leaves unchanged: the other sections, the records of other sections' members, every
feedback value, and, unless the section holds the engine, the Drive Map and the engine. -/

namespace Sys2Proof.Machine

/-- t is s after work within section i. -/
structure Within (i : SecId) (s t : State) : Prop where
  members : t.members i = s.members i
  sec : ∀ j, j ≠ i → t.sec j = s.sec j
  member : ∀ q, q ∉ s.members i → t.member q = s.member q
  feedback : ∀ n, (t.drive n).feedback = (s.drive n).feedback
  free : s.engine.holder ≠ some i → t.drives = s.drives ∧ t.engine = s.engine

namespace Within

theorem refl (i : SecId) (s : State) : Within i s s := ⟨rfl, fun _ _ => rfl, fun _ _ => rfl, fun _ => rfl, fun _ => ⟨rfl, rfl⟩⟩

theorem trans {i : SecId} {s t u : State} (h : Within i s t) (k : Within i t u) : Within i s u where
  members := k.members.trans h.members
  sec j hj := (k.sec j hj).trans (h.sec j hj)
  member q hq := (k.member q (h.members ▸ hq)).trans (h.member q hq)
  feedback n := (k.feedback n).trans (h.feedback n)
  free hi := by
    obtain ⟨hdrives, hengine⟩ := h.free hi
    obtain ⟨kdrives, kengine⟩ := k.free (hengine ▸ hi)
    exact ⟨kdrives.trans hdrives, kengine.trans hengine⟩

/-- Work that leaves the sections, the pool, the Drive Map and the engine. -/
theorem quiet {s t : State} (i : SecId) (h1 : t.sections = s.sections) (h2 : t.pool = s.pool) (h3 : t.drives = s.drives)
    (h4 : t.engine = s.engine) : Within i s t where
  members := by unfold State.members; rw [State.sec_of_eq h1]
  sec j _ := State.sec_of_eq h1 j
  member q _ := State.member_of_eq h2 q
  feedback n := by rw [State.drive_of_eq h3]
  free _ := ⟨h3, h4⟩

/-- A change of the section's own record without its members. -/
theorem modSec (s : State) (i : SecId) (f : Section → Section) (hm : ∀ x, (f x).members = x.members := by intro; rfl) :
    Within i s (s.modSec i f) where
  members := by unfold State.members; rw [State.sec_modSec_self]; exact hm _
  sec j hj := State.sec_modSec_ne _ hj _
  member _ _ := rfl
  feedback _ := rfl
  free _ := ⟨rfl, rfl⟩

/-- Work over a list that carries more than a state. -/
theorem foldlOn {i : SecId} {α β : Type} (state : β → State) (f : β → α → β) (hf : ∀ b a, Within i (state b) (state (f b a))) :
    ∀ (l : List α) (b : β), Within i (state b) (state (l.foldl f b))
  | [], _ => refl ..
  | a :: l, b => (hf b a).trans (foldlOn state f hf l _)

end Within

/-- Work within section i that leaves its evaluated flag and its last evaluated set. -/
structure SetWork (i : SecId) (s t : State) : Prop extends Within i s t where
  evaluated : (t.sec i).evaluated = (s.sec i).evaluated
  lastSet : (t.sec i).lastSet = (s.sec i).lastSet

namespace SetWork

theorem refl (i : SecId) (s : State) : SetWork i s s := ⟨Within.refl i s, rfl, rfl⟩

theorem trans {i : SecId} {s t u : State} (h : SetWork i s t) (k : SetWork i t u) : SetWork i s u :=
  ⟨h.toWithin.trans k.toWithin, k.evaluated.trans h.evaluated, k.lastSet.trans h.lastSet⟩

/-- A branch. -/
theorem ite {i : SecId} {c : Prop} [Decidable c] {s a b : State} (ha : c → SetWork i s a) (hb : ¬ c → SetWork i s b) :
    SetWork i s (if c then a else b) := by
  split
  · exact ha ‹_›
  · exact hb ‹_›

/-- Work done or not done. -/
theorem whenTrue {i : SecId} {c : Prop} [Decidable c] {s a : State} (ha : c → SetWork i s a) : SetWork i s (if c then a else s) :=
  ite ha fun _ => refl i s

/-- Work that leaves the sections, the pool, the Drive Map and the engine. -/
theorem quiet {s t : State} (i : SecId) (h1 : t.sections = s.sections) (h2 : t.pool = s.pool) (h3 : t.drives = s.drives)
    (h4 : t.engine = s.engine) : SetWork i s t :=
  ⟨.quiet i h1 h2 h3 h4, by rw [State.sec_of_eq h1], by rw [State.sec_of_eq h1]⟩

theorem post (i : SecId) (s : State) (k : EventKind) (a : Option SecId) (n : Option NodeId) (p : Option Pos) (c : Word16)
    (v : Option Int) (d : Nat) : SetWork i s (s.post k a n p c v d) :=
  quiet i (State.sections_post ..) (State.pool_post ..) (State.drives_post ..) (State.engine_post ..)

theorem signal (i : SecId) (s : State) (k : TriggerKind) (x : Nat) : SetWork i s (s.signal k x) := by
  rw [State.signal_frame]
  exact quiet i rfl rfl rfl rfl

/-- A change of the section's own record without its members and its set. -/
theorem modSec (s : State) (i : SecId) (f : Section → Section) (hm : ∀ x, (f x).members = x.members := by intro; rfl)
    (he : ∀ x, (f x).evaluated = x.evaluated := by intro; rfl) (hl : ∀ x, (f x).lastSet = x.lastSet := by intro; rfl) :
    SetWork i s (s.modSec i f) :=
  ⟨.modSec s i f hm, by rw [State.sec_modSec_self, he], by rw [State.sec_modSec_self, hl]⟩

theorem modMonitor (s : State) (i : SecId) (f : Monitor → Monitor) : SetWork i s (s.modMonitor i f) := modSec s i _

/-- A change of one member's record. -/
theorem modRec {s : State} {i : SecId} {r : RecId} (hr : r ∈ s.members i) (f : PoolRecord → PoolRecord) : SetWork i s (s.modRec r f) where
  members := rfl
  sec _ _ := rfl
  member q hq := by rw [State.member_modRec, if_neg fun h => hq (by rw [h]; exact hr)]
  feedback _ := rfl
  free _ := ⟨rfl, rfl⟩
  evaluated := rfl
  lastSet := rfl

/-- Changes of members' records. -/
theorem modEach {i : SecId} (g : RecId → PoolRecord → PoolRecord) : ∀ (rs : List RecId) (s : State), (∀ r ∈ rs, r ∈ s.members i) →
    SetWork i s (rs.foldl (fun t r => t.modRec r (g r)) s)
  | [], _, _ => refl ..
  | r :: rs, _, h => (modRec (h r List.mem_cons_self) (g r)).trans (modEach g rs _ fun q hq => h q (List.mem_cons_of_mem _ hq))

/-- A change of the engine that the section holds. -/
theorem modEngine {s : State} {i : SecId} (h : s.engine.holder = some i) (f : Engine → Engine) : SetWork i s (s.modEngine f) where
  members := rfl
  sec _ _ := rfl
  member _ _ := rfl
  feedback _ := rfl
  free hn := absurd h hn
  evaluated := rfl
  lastSet := rfl

/-! ## Entries to a state -/

/-- An entry to a state by the section. -/
theorem entry {s t : State} {i : SecId} (hframe : s.entryFrame t) (hmembers : t.members i = s.members i)
    (hevaluated : (t.sec i).evaluated = (s.sec i).evaluated) (hlast : (t.sec i).lastSet = (s.sec i).lastSet)
    (hother : ∀ j, j ≠ i → t.sec j = s.sec j) (hmember : ∀ q, q ∉ s.members i → t.member q = s.member q)
    (hengine : s.engine.holder ≠ some i → t.engine = s.engine) : SetWork i s t where
  members := hmembers
  sec := hother
  member := hmember
  feedback n := by rw [State.drive_of_eq hframe.tables.1]
  free hi := ⟨hframe.tables.1, hengine hi⟩
  evaluated := hevaluated
  lastSet := hlast

theorem enterPassing (s : State) (i : SecId) (st : SectionState) (cause : Cause) (node : Option NodeId) (pos : Option Pos) :
    SetWork i s (s.enterPassing i st cause node pos) := by
  obtain ⟨hframe, hself, hother, hmember, hengine⟩ := s.enterPassing_spec i st cause node pos
  exact entry hframe (congrArg Section.members hself :) (congrArg Section.evaluated hself :) (congrArg Section.lastSet hself :) hother
    (fun q hq => (hmember q).trans (if_neg hq)) fun hi => hengine.trans (if_neg hi)

theorem enterReleasing (s : State) (i : SecId) (target : ReleaseTarget) (cause : Cause) (result : CalResult) (node : Option NodeId)
    (pos : Option Pos) : SetWork i s (s.enterReleasing i target cause result node pos) := by
  obtain ⟨hframe, hself, hother, hmember, hengine⟩ := s.enterReleasing_spec i target cause result node pos
  exact entry hframe (congrArg Section.members hself :) (congrArg Section.evaluated hself :) (congrArg Section.lastSet hself :) hother
    (fun q hq => (hmember q).trans (if_neg hq)) fun hi => hengine.trans (if_neg hi)

theorem requestFreeze (s : State) (i : SecId) (cause : Cause) (src : Option Nat) (node : Option NodeId) (pos : Option Pos) :
    SetWork i s (s.requestFreeze i cause src node pos) := by
  refine whenTrue fun _ => ?_
  obtain ⟨hframe, hself, hother, hmember, hengine, _⟩ := s.enterFrozen_spec i cause src node pos
  exact entry hframe (congrArg Section.members hself :) (congrArg Section.evaluated hself :) (congrArg Section.lastSet hself :) hother
    (fun q hq => (hmember q).trans (if_neg hq)) fun _ => hengine

theorem requestAction (s : State) (i : SecId) (a : LimitAction) (cause : Cause) (src : Option Nat) (node : Option NodeId)
    (pos : Option Pos) : SetWork i s (s.requestAction i a cause src node pos) := by
  cases a with
  | event => exact refl i s
  | freeze => exact requestFreeze ..
  | release => exact whenTrue fun _ => enterReleasing ..
  | abort => exact whenTrue fun _ => enterPassing ..

theorem faultCondition (s : State) (i : SecId) (cause : Cause) (node : Option NodeId) (pos : Option Pos) :
    SetWork i s (s.faultCondition i cause node pos) := whenTrue fun _ => enterPassing ..

/-! ## The units' work on a set -/

theorem balance (s : State) (i : SecId) (complete : Bool) : SetWork i s (s.balance i complete) := by
  have hstore : SetWork i s (s.storeImbalances i) := modEach _ _ s fun _ h => h
  exact ite (fun _ => hstore.trans (modEach (fun _ => _) _ _ fun _ h => h)) fun _ => hstore

theorem evaluateLimit (s : State) (i : SecId) (c : Word16) (k : LimitKind) : SetWork i s (s.evaluateLimit i c k) := by
  unfold State.evaluateLimit State.postLimit
  split
  · exact refl i s
  · dsimp only
    split
    · exact modMonitor ..
    · exact (modMonitor ..).trans (post ..)
    · exact (modMonitor ..).trans ((post ..).trans ((signal ..).trans (requestAction ..)))

theorem zeroCrossStep (s : State) (i : SecId) (c : Word16) : SetWork i s (s.zeroCrossStep i c) := by
  refine whenTrue fun _ => ?_
  split
  · exact refl i s
  · exact ite (fun _ => (modMonitor ..).trans ((modMonitor ..).trans ((post ..).trans (requestAction ..)))) fun _ => modMonitor ..

theorem monitorSet (s : State) (i : SecId) (c : Word16) : SetWork i s (s.monitorSet i c) :=
  (evaluateLimit ..).trans ((evaluateLimit ..).trans ((evaluateLimit ..).trans (zeroCrossStep ..)))

/-- Calibration values are no feedback values. -/
theorem writeCal {s : State} {i : SecId} (h : s.engine.holder = some i) (vs : List CalValues) : SetWork i s (s.writeCal vs) where
  members := by rw [State.writeCal_frame]; rfl
  sec j _ := by rw [State.writeCal_frame]; rfl
  member q _ := by rw [State.writeCal_frame]; rfl
  feedback n := by
    unfold State.writeCal
    induction vs generalizing s with
    | nil => rfl
    | cons v vs ih =>
      rw [List.foldl_cons, ih (s := s.modDrive v.node fun d => { d with gain := v.gain, offset := v.offset }) h, State.drive_modDrive]
      split
      · next hn => rw [hn]
      · rfl
  free hn := absurd h hn
  evaluated := by rw [State.writeCal_frame]; rfl
  lastSet := by rw [State.writeCal_frame]; rfl

theorem engineTakes (s : State) (i : SecId) (complete : Bool) : SetWork i s (s.engineTakes i complete) := by
  refine whenTrue fun ⟨hi, _⟩ => ?_
  have hfinish (t : State) (ht : t.engine.holder = some i) : SetWork i t (t.finishCal i) := by
    unfold State.finishCal
    split
    · exact (writeCal ht _).trans (enterReleasing ..)
    · exact enterReleasing ..
  unfold State.sampleSet
  split
  · exact ite (fun _ => (modEngine hi _).trans (modEngine (by exact hi) _)) fun _ => modEngine hi _
  · exact ite (fun _ => (modEngine hi _).trans ((modEngine (by exact hi) _).trans (hfinish _ (by exact hi)))) fun _ => modEngine hi _
  all_goals exact refl i s

theorem engineSkip (s : State) (i : SecId) : SetWork i s (s.engineSkip i) := by
  refine whenTrue fun ⟨hi, _, _⟩ => ?_
  have hmod : SetWork i s (s.modEngine fun e => { e with skipCount := e.skipCount + 1 }) := modEngine hi _
  exact ite (fun _ => hmod.trans (enterReleasing ..)) fun _ => hmod

end SetWork

/-- A section's record with its set evaluated (R82). -/
def Section.setTaken (x : Section) (last : LastSet) : Section := { x with evaluated := true, lastSet := some last }

/-- The last evaluated set that the evaluation of section i's set records (R82). -/
def State.setRecord (s : State) (i : SecId) (c : Word16) (complete : Bool) : LastSet :=
  ⟨c, complete, if complete then none else s.firstStale i⟩

/-- The evaluation of a set records it; what follows is work on it. -/
theorem SetWork.evaluateSet (s : State) (i : SecId) (c : Word16) (complete : Bool) :
    SetWork i (s.modSec i fun x => x.setTaken (s.setRecord i c complete)) (s.evaluateSet i c complete) :=
  whenTrue fun _ => (balance ..).trans ((monitorSet ..).trans (engineTakes ..))

/-- The evaluation of a set is work within the section. -/
theorem Within.evaluateSet (s : State) (i : SecId) (c : Word16) (complete : Bool) : Within i s (s.evaluateSet i c complete) :=
  (modSec s i _).trans (SetWork.evaluateSet s i c complete).toWithin

/-- What the evaluation leaves in the section's record. -/
theorem State.sec_evaluateSet (s : State) (i : SecId) (c : Word16) (complete : Bool) :
    ((s.evaluateSet i c complete).sec i).evaluated = true ∧
      ((s.evaluateSet i c complete).sec i).lastSet = some (s.setRecord i c complete) := by
  have h := SetWork.evaluateSet s i c complete
  refine ⟨h.evaluated.trans ?_, h.lastSet.trans ?_⟩ <;> rw [State.sec_modSec_self] <;> rfl

end Sys2Proof.Machine
end

section
/-! PROOFS. The close of the sets at a dispatch (R83): evaluation, missing counts, miss-limit fault and engine skip of one section, and what
the close of all of them leaves. -/

namespace Sys2Proof.Machine

/-! ## The steps of one close -/

/-- Step 1: a set that was not evaluated is evaluated now. -/
def State.setClosed (c : Word16) (s : State) (i : SecId) : State :=
  if (s.sec i).evaluated = true then s else s.evaluateSet i c (s.allFresh i)

/-- Step 3: the first lost member faults the section. -/
def State.lostFaulted (s : State) (i : SecId) : State :=
  match s.lostMember i with
  | some r => s.faultCondition i .feedbackLost (s.member r).node (s.member r).position
  | none => s

/-- A section without members closes nothing. -/
theorem State.closeSet_empty (c : Word16) {s : State} {i : SecId} (h : s.members i = []) : s.closeSet c i = s := by
  unfold State.closeSet; rw [h]; rfl

/-- The steps in their order. -/
theorem State.closeSet_eq (c : Word16) {s : State} {i : SecId} (h : s.members i ≠ []) : s.closeSet c i =
    if (s.sec i).evaluated = false ∧ s.allFresh i = false then (((s.setClosed c i).countMissing i).lostFaulted i).engineSkip i
    else ((s.setClosed c i).countMissing i).lostFaulted i := by
  have hset : (if (!(s.sec i).evaluated) = true then s.evaluateSet i c (s.allFresh i) else s) = s.setClosed c i := by
    unfold State.setClosed; cases (s.sec i).evaluated <;> rfl
  unfold State.closeSet
  rw [if_neg (by rw [List.isEmpty_iff]; exact h)]
  dsimp only
  rw [hset]
  exact if_congr (by simp only [Bool.and_eq_true, Bool.not_eq_true']) rfl rfl

theorem Stable.setClosed (c : Word16) (s : State) (i : SecId) : Stable s (s.setClosed c i) := by
  unfold State.setClosed
  split
  · exact refl s
  · exact evaluateSet ..

theorem Within.setClosed (c : Word16) (s : State) (i : SecId) : Within i s (s.setClosed c i) := by
  unfold State.setClosed
  split
  · exact refl i s
  · exact evaluateSet ..

/-- The steps after the missing counts are work on the set. -/
theorem SetWork.closeSet (c : Word16) {s : State} {i : SecId} (h : s.members i ≠ []) :
    SetWork i ((s.setClosed c i).countMissing i) (s.closeSet c i) := by
  have hlost (t : State) : SetWork i t (t.lostFaulted i) := by
    unfold State.lostFaulted
    split
    · exact faultCondition ..
    · exact refl i t
  rw [State.closeSet_eq c h]
  exact ite (fun _ => (hlost _).trans (engineSkip ..)) fun _ => hlost _

/-- Step 2 changes the Drive Map entries of the members' nodes alone, each once. -/
theorem State.countMissing_spec {s u : State} (hm : MembersConsistent s) (h : Stable s u) (i : SecId) :
    let v := u.countMissing i
    v = { u with drives := v.drives } ∧
    (∀ r ∈ s.members i, v.drive (s.memberNode r) =
      { u.drive (s.memberNode r) with feedback := (u.drive (s.memberNode r)).feedback.closed }) ∧
    ∀ n, (∀ r ∈ s.members i, s.memberNode r ≠ n) → v.drive n = u.drive n := by
  have hmembers : u.members i = s.members i := (h.sec i).1
  have hnodes : u.memberNode = s.memberNode := funext h.memberNode
  have hspec := State.modNodes_spec (fun d => { d with feedback := d.feedback.closed }) (u.members i) u
    (by rw [hmembers, hnodes]; exact hm.nodup_nodes i)
  rw [hmembers, hnodes] at hspec
  have hcount : u.countMissing i = (s.members i).foldl (fun t r => t.modDrive (t.memberNode r) fun d => { d with
      feedback := d.feedback.closed }) u := by
    unfold State.countMissing; rw [hmembers]
  rw [hcount]
  exact hspec

/-! ## The lost member (R42) -/

/-- The test of a lost member, on the values before the counts. -/
theorem Feedback.lost_iff (fb : Feedback) (limit : Nat) : (!fb.closed.fresh && decide (limit ≤ fb.closed.missing)) = true ↔
    fb.fresh = false ∧ limit ≤ raiseCount fb.missing := by
  unfold Feedback.closed
  cases fb.fresh <;> simp

/-- The first lost member. -/
theorem State.lostMember_spec {s v : State} {i : SecId} {fb : RecId → Feedback} (hmembers : v.members i = s.members i)
    (hcfg : (v.sec i).cfg = (s.sec i).cfg) (hfb : ∀ r ∈ s.members i, v.memberFeedback r = (fb r).closed) :
    let lost (r : RecId) : Prop := (fb r).fresh = false ∧ (s.sec i).cfg.missLimit ≤ raiseCount (fb r).missing
    (∀ (k : Nat) (r : RecId), (s.members i)[k]? = some r → lost r →
      (∀ (j : Nat) (q : RecId), j < k → (s.members i)[j]? = some q → ¬ lost q) → v.lostMember i = some r) ∧
      ((∀ r ∈ s.members i, ¬ lost r) → v.lostMember i = none) := by
  intro lost
  have htest (r : RecId) (hr : r ∈ s.members i) :
      (!(v.memberFeedback r).fresh && decide ((v.sec i).cfg.missLimit ≤ (v.memberFeedback r).missing)) = true ↔ lost r := by
    rw [hfb r hr, hcfg]; exact (fb r).lost_iff _
  unfold State.lostMember
  rw [hmembers]
  refine ⟨fun k r hk hr hbefore => ?_, fun hnone => ?_⟩
  · exact find?_eq_first hk ((htest r (List.mem_of_getElem? hk)).2 hr) fun j q hj hq =>
      Bool.eq_false_iff.2 fun h => hbefore j q hj hq ((htest q (List.mem_of_getElem? hq)).1 h)
  · exact List.find?_eq_none.2 fun r hr h => hnone r hr ((htest r hr).1 h)

/-! ## The close of all sections -/

/-- t is reached from s by the close of some sections: membership and fresh flags are those of s. -/
structure Closing (s t : State) : Prop where
  stable : Stable s t
  fresh : ∀ n, (t.drive n).feedback.fresh = (s.drive n).feedback.fresh

/-- A node of section i is the node of one of its members, and of no other section's (R9). -/
theorem MembersConsistent.node_iff {s : State} (hm : MembersConsistent s) (n : NodeId) (i : SecId) :
    (s.drive n).inSection = some i ↔ ∃ r ∈ s.members i, s.memberNode r = n := by
  constructor
  · intro h
    obtain ⟨r, hr, hn⟩ := hm.2.2.1 n i h
    exact ⟨r, hr, by unfold State.memberNode; rw [hn]; rfl⟩
  · rintro ⟨r, hr, rfl⟩
    exact (hm.facts hr).2.1

/-- The close of a section counts the missing values of its nodes alone. -/
theorem Closing.feedback_closeSet {s t : State} (hm : MembersConsistent s) (h : Closing s t) (c : Word16) (i : SecId) (n : NodeId) :
    ((t.closeSet c i).drive n).feedback =
      if (s.drive n).inSection = some i then (t.drive n).feedback.closed else (t.drive n).feedback := by
  have hmembers : t.members i = s.members i := (h.stable.sec i).1
  by_cases hempty : t.members i = []
  · rw [State.closeSet_empty c hempty, if_neg]
    rw [hm.node_iff]
    rintro ⟨r, hr, _⟩
    rw [← hmembers, hempty] at hr
    cases hr
  · obtain ⟨_, hcounted, hkept⟩ := State.countMissing_spec hm (h.stable.trans (Stable.setClosed c t i)) i
    have hset := (Within.setClosed c t i).feedback
    rw [(SetWork.closeSet c hempty).feedback]
    split
    · next hn =>
      obtain ⟨r, hr, rfl⟩ := (hm.node_iff n i).1 hn
      rw [hcounted r hr, hset]
    · next hn =>
      rw [hkept n fun r hr he => hn ((hm.node_iff n i).2 ⟨r, hr, he⟩), hset]

/-- The close of sections goes on. -/
theorem Closing.closeSet {s t : State} (hm : MembersConsistent s) (h : Closing s t) (c : Word16) (i : SecId) :
    Closing s (t.closeSet c i) := by
  refine ⟨h.stable.trans (Stable.closeSet c t i), fun n => ?_⟩
  rw [h.feedback_closeSet hm c i n]
  split
  · exact h.fresh n
  · exact h.fresh n

/-- The close of a section leaves the records of the others. -/
theorem State.sec_closeSet_ne (c : Word16) (s : State) {i j : SecId} (h : j ≠ i) : (s.closeSet c i).sec j = s.sec j := by
  by_cases hempty : s.members i = []
  · rw [State.closeSet_empty c hempty]
  · have hcount (t : State) : (t.countMissing i).sec j = t.sec j := by
      unfold State.countMissing
      exact List.foldlRecOn (motive := fun u : State => u.sec j = t.sec j) _ _ rfl fun _ hu _ _ => hu
    rw [(SetWork.closeSet c hempty).sec j h, hcount, (Within.setClosed c s i).sec j h]

/-- The last set that the close of a section with members and a set not yet evaluated records. -/
def State.lastClosed (s : State) (c : Word16) (i : SecId) : LastSet :=
  ⟨c, (s.members i).all fun r => (s.memberFeedback r).fresh,
    ((s.members i).find? fun r => !(s.memberFeedback r).fresh).map s.memberNode⟩

/-- The first missing node of a complete set is none. -/
theorem State.setRecord_allFresh (s : State) (c : Word16) (i : SecId) : s.setRecord i c (s.allFresh i) = s.lastClosed c i := by
  unfold State.setRecord State.lastClosed State.allFresh State.firstStale
  split
  · next hall =>
    rw [List.find?_eq_none.2 fun r hr => by rw [List.all_eq_true.1 hall r hr]; decide]
    rfl
  · rfl

/-- The last set recorded depends on membership and fresh flags alone. -/
theorem Closing.lastClosed {s t : State} (h : Closing s t) (c : Word16) (i : SecId) : t.lastClosed c i = s.lastClosed c i := by
  have hfresh : (fun r => (t.memberFeedback r).fresh) = fun r => (s.memberFeedback r).fresh := by
    funext r
    unfold State.memberFeedback
    rw [h.stable.memberNode, h.fresh]
  have hmembers : t.members i = s.members i := (h.stable.sec i).1
  have hnodes : t.memberNode = s.memberNode := funext h.stable.memberNode
  have hstale : (fun r => !(t.memberFeedback r).fresh) = fun r => !(s.memberFeedback r).fresh :=
    funext fun r => congrArg not (congrFun hfresh r)
  unfold State.lastClosed
  rw [hfresh, hstale, hmembers, hnodes]

/-- The last set of a section after its close. -/
theorem State.lastSet_closeSet (c : Word16) (s : State) (i : SecId) :
    (s.members i ≠ [] → (s.sec i).evaluated = false → ((s.closeSet c i).sec i).lastSet = some (s.lastClosed c i)) ∧
    (s.members i = [] ∨ (s.sec i).evaluated = true → ((s.closeSet c i).sec i).lastSet = (s.sec i).lastSet) := by
  have hcount (t : State) : (t.countMissing i).sec i = t.sec i := by
    unfold State.countMissing
    exact List.foldlRecOn (motive := fun u : State => u.sec i = t.sec i) _ _ rfl fun _ hu _ _ => hu
  refine ⟨fun h he => ?_, fun h => ?_⟩
  · have hset : s.setClosed c i = s.evaluateSet i c (s.allFresh i) := if_neg (by rw [he]; decide)
    rw [(SetWork.closeSet c h).lastSet, hcount, hset, (s.sec_evaluateSet i c _).2, State.setRecord_allFresh]
  · by_cases hempty : s.members i = []
    · rw [State.closeSet_empty c hempty]
    · have hset : s.setClosed c i = s := if_pos (h.resolve_left hempty)
      rw [(SetWork.closeSet c hempty).lastSet, hcount, hset]

/-- The close of other sections leaves a section's record. -/
theorem State.sec_closeSets_ne (c : Word16) {i : SecId} : ∀ (is : List SecId) (s : State), i ∉ is →
    (is.foldl (State.closeSet c) s).sec i = s.sec i
  | [], _, _ => rfl
  | j :: is, s, h => by
    obtain ⟨hj, his⟩ := not_or.1 (mt List.mem_cons.2 h)
    exact (State.sec_closeSets_ne c is _ his).trans (s.sec_closeSet_ne c hj)

/-- The last set of a section after the close of several sections with its own among them. -/
theorem Closing.lastSet_closeSets {s : State} (hm : MembersConsistent s) (c : Word16) {i : SecId} :
    ∀ (is : List SecId) (t : State), Closing s t → is.Nodup → i ∈ is → t.sec i = s.sec i →
      (s.members i ≠ [] → (s.sec i).evaluated = false → ((is.foldl (State.closeSet c) t).sec i).lastSet = some (s.lastClosed c i)) ∧
      (s.members i = [] ∨ (s.sec i).evaluated = true → ((is.foldl (State.closeSet c) t).sec i).lastSet = (s.sec i).lastSet)
  | [], _, _, _, hi, _ => nomatch hi
  | j :: is, t, h, hn, hi, hsec => by
    obtain ⟨hj, hn⟩ := List.nodup_cons.1 hn
    rw [List.foldl_cons]
    by_cases hij : i = j
    · subst hij
      have hlast := t.lastSet_closeSet c i
      rw [h.lastClosed, hsec, (h.stable.sec i).1] at hlast
      rw [State.sec_closeSets_ne c is _ hj]
      exact hlast
    · exact Closing.lastSet_closeSets hm c is _ (h.closeSet hm c j) hn (List.mem_of_ne_of_mem hij hi)
        ((t.sec_closeSet_ne c hij).trans hsec)

/-- The close of sections that a node is not in leaves its feedback. -/
theorem Closing.feedback_closeSets_ne {s : State} (hm : MembersConsistent s) (c : Word16) {n : NodeId} :
    ∀ (is : List SecId) (t : State), Closing s t → (∀ i ∈ is, (s.drive n).inSection ≠ some i) →
      ((is.foldl (State.closeSet c) t).drive n).feedback = (t.drive n).feedback
  | [], _, _, _ => rfl
  | j :: is, t, h, hn => by
    rw [List.foldl_cons, Closing.feedback_closeSets_ne hm c is _ (h.closeSet hm c j) fun i hi => hn i (List.mem_cons_of_mem _ hi),
      h.feedback_closeSet hm, if_neg (hn j List.mem_cons_self)]

/-- The close of sections with a node's own among them counts its missing values once. -/
theorem Closing.feedback_closeSets {s : State} (hm : MembersConsistent s) (c : Word16) {n : NodeId} {i : SecId}
    (hi : (s.drive n).inSection = some i) : ∀ (is : List SecId) (t : State), Closing s t → is.Nodup → i ∈ is →
      ((is.foldl (State.closeSet c) t).drive n).feedback = (t.drive n).feedback.closed
  | [], _, _, _, h => nomatch h
  | j :: is, t, h, hn, hmem => by
    obtain ⟨hj, hn⟩ := List.nodup_cons.1 hn
    have hstep := h.feedback_closeSet hm c j n
    rw [List.foldl_cons]
    by_cases hij : i = j
    · subst hij
      rw [Closing.feedback_closeSets_ne hm c is _ (h.closeSet hm c i) fun k hk hs => hj (Option.some.inj (hi.symm.trans hs) ▸ hk),
        hstep, if_pos hi]
    · rw [Closing.feedback_closeSets hm c hi is _ (h.closeSet hm c j) hn (List.mem_of_ne_of_mem hij hmem), hstep,
        if_neg fun hs => hij (Option.some.inj (hi.symm.trans hs))]

/-- The close of one section in the words of the statements: u after the evaluation, v after the counts, w after the fault. -/
theorem State.closeSet_spec {s : State} (hm : MembersConsistent s) (c : Word16) {i : SecId} (hne : s.members i ≠ []) :
    let u := s.setClosed c i
    let v := u.countMissing i
    let w := v.lostFaulted i
    let complete := (s.members i).all fun r => (s.memberFeedback r).fresh
    let raised (r : RecId) : Nat := raiseCount (u.memberFeedback r).missing
    let lost (r : RecId) : Prop := (u.memberFeedback r).fresh = false ∧ (s.sec i).cfg.missLimit ≤ raised r
    let faults : Prop := (u.sec i).state ≠ .bypass ∧ (u.sec i).state ≠ .faulted
    ((s.sec i).evaluated = true → u = s) ∧ ((s.sec i).evaluated = false → SetEvaluated s u i c complete) ∧
    v = { u with drives := v.drives } ∧
    (∀ r ∈ s.members i, v.drive (s.memberNode r) = { u.drive (s.memberNode r) with
      feedback := { u.memberFeedback r with missing := if (u.memberFeedback r).fresh then 0 else raised r } }) ∧
    (∀ n : NodeId, (∀ r ∈ s.members i, s.memberNode r ≠ n) → v.drive n = u.drive n) ∧
    (∀ (k : Nat) (r : RecId), (s.members i)[k]? = some r → lost r →
      (∀ (j : Nat) (q : RecId), j < k → (s.members i)[j]? = some q → ¬ lost q) → faults →
      EntersPassing v w i .faulted (some .feedbackLost) 6 13 2 (s.member r).node (s.member r).position) ∧
    (¬ faults ∨ (∀ r ∈ s.members i, ¬ lost r) → w = v) ∧
    s.closeSet c i = if (s.sec i).evaluated = false ∧ complete = false then w.engineSkip i else w := by
  intro u v w complete raised lost faults
  have hstable : Stable s u := Stable.setClosed c s i
  obtain ⟨hframe, hcounted, hkept⟩ := State.countMissing_spec hm hstable i
  have hsec : v.sec i = u.sec i := State.sec_of_eq (congrArg State.sections hframe :) i
  have hmember (r : RecId) : v.member r = u.member r := State.member_of_eq (congrArg State.pool hframe :) r
  have hu (r : RecId) : u.memberFeedback r = (u.drive (s.memberNode r)).feedback := by
    unfold State.memberFeedback; rw [hstable.memberNode]
  have hnode (r : RecId) : v.memberNode r = s.memberNode r := by
    rw [← hstable.memberNode r]; unfold State.memberNode; rw [hmember]
  have hfb (r : RecId) (hr : r ∈ s.members i) : v.memberFeedback r = (u.memberFeedback r).closed := by
    unfold State.memberFeedback; rw [hnode, hcounted r hr, hstable.memberNode]
  obtain ⟨hlost, hnone⟩ := State.lostMember_spec (s := s) (v := v) ((congrArg Section.members hsec :).trans (hstable.sec i).1)
    ((congrArg Section.cfg hsec :).trans (hstable.sec i).2.1) hfb
  refine ⟨fun he => if_pos he, fun he => ?_, hframe, fun r hr => ?_, hkept, fun k r hk hr hbefore hfaults => ?_, fun h => ?_,
    State.closeSet_eq c hne⟩
  · have hset : u = s.evaluateSet i c (s.allFresh i) := if_neg (by rw [he]; decide)
    rw [hset]
    exact SetEvaluated.of_evaluateSet s i c (s.allFresh i)
  · have hr' := hcounted r hr
    rw [← hu] at hr'
    exact hr'
  · have hw : w = v.enterPassing i .faulted .feedbackLost (v.member r).node (v.member r).position := by
      simp only [w]
      unfold State.lostFaulted State.faultCondition
      rw [hlost k r hk hr hbefore]
      exact if_pos (hsec ▸ (SectionState.monitored_iff _).2 hfaults)
    rw [hw, hmember, (hstable.rec' r).2.2.1, (hstable.rec' r).2.2.2.1]
    exact EntersPassing.of_enterPassing ..
  · simp only [w]
    unfold State.lostFaulted State.faultCondition
    rcases h with h | h
    · split
      · exact if_neg fun hmon => h ((SectionState.monitored_iff _).1 (by rw [hsec] at hmon; exact hmon))
      · rfl
    · rw [hnone h]

/-- The feedback values after the sets were closed and opened. -/
theorem State.feedback_closeSets {s : State} (hm : MembersConsistent s) (c : Word16) (n : NodeId) :
    (∀ i, (s.drive n).inSection = some i →
      (((sectionIds.foldl (State.closeSet c) s).openSets.drive n).feedback = { (s.drive n).feedback.closed with fresh := false })) ∧
    ((s.drive n).inSection = none →
      ((sectionIds.foldl (State.closeSet c) s).openSets.drive n).feedback = { (s.drive n).feedback with fresh := false }) := by
  have hstart : Closing s s := ⟨Stable.refl s, fun _ => rfl⟩
  rw [State.drive_openSets]
  refine ⟨fun i hi => ?_, fun hn => ?_⟩
  · rw [Closing.feedback_closeSets hm c hi sectionIds s hstart SectionWork.nodup_sectionIds (SectionWork.mem_sectionIds i)]
  · rw [Closing.feedback_closeSets_ne hm c sectionIds s hstart fun i _ => by rw [hn]; exact nofun]

/-- A section's set after the sets were closed and opened. -/
theorem State.set_closeSets {s : State} (hm : MembersConsistent s) (c : Word16) (i : SecId) :
    ((sectionIds.foldl (State.closeSet c) s).openSets.sec i).evaluated = false ∧
    (s.members i ≠ [] → (s.sec i).evaluated = false →
      ((sectionIds.foldl (State.closeSet c) s).openSets.sec i).lastSet = some (s.lastClosed c i)) ∧
    (s.members i = [] ∨ (s.sec i).evaluated = true →
      ((sectionIds.foldl (State.closeSet c) s).openSets.sec i).lastSet = (s.sec i).lastSet) := by
  have hstart : Closing s s := ⟨Stable.refl s, fun _ => rfl⟩
  have hlast := Closing.lastSet_closeSets hm c sectionIds s hstart SectionWork.nodup_sectionIds (SectionWork.mem_sectionIds i) rfl
  generalize sectionIds.foldl (State.closeSet c) s = x at hlast ⊢
  rw [State.sec_openSets]
  exact ⟨rfl, hlast⟩

/-- Settles O18: each section's close by its steps, then the close of all sections by what each leaves to the others. -/
theorem closeCountsMissingAndOpensSets : Obligations.CloseCountsMissingAndOpensSets := by
  unfold Obligations.CloseCountsMissingAndOpensSets
  refine ⟨?_, fun _ => rfl, fun s c i h => State.closeSet_empty c h, ?_⟩
  · intro s c hm
    have ht : s.closeSets (some c) = (sectionIds.foldl (State.closeSet c) s).openSets := rfl
    have hfeedback := State.feedback_closeSets hm c
    have hset := State.set_closeSets hm c
    rw [← ht] at hfeedback hset
    simp only [← raiseCount_eq]
    exact ⟨fun n i hn => (hfeedback n).1 i hn, fun n hn => (hfeedback n).2 hn, fun i => (hset i).1,
      fun i h he => (hset i).2.1 h he, fun i h => (hset i).2.2 h, ht⟩
  · intro s c i hm hne
    have hspec := State.closeSet_spec hm c hne
    simp only [raiseCount_eq] at hspec
    exact ⟨_, _, _, hspec⟩

end Sys2Proof.Machine
end

section
/-! PROOFS. INJECT FEEDBACK (R85, R86): its checks in their order, the value it writes and the work that follows it. -/

namespace Sys2Proof.Machine

/-! ## The work that follows a feedback value stays within the section -/

/-- One point's look. -/
theorem Stable.point (a : Watched) (n : NodeId) (src : OccurrenceSource) (values : List (WatchField × Int)) (change : ChangeStop)
    (w : WatchId) : Stable a.state (a.point n src values change w).state := by
  unfold Watched.point
  dsimp only
  split
  · split
    · exact refl _
    · exact occurrence ..
  · exact refl _

/-- The drive fault and the completion of the set, which come before the watch points (R81). -/
theorem Stable.setCompleted (s : State) (i : SecId) (n : NodeId) :
    Stable s ((if statusFault (s.drive n).feedback.status = true then
      s.faultCondition i .driveFault (some n) (s.positionOf n) else s).completeSet i) := by
  refine .trans ?_ (completeSet _ i)
  split
  · exact faultCondition ..
  · exact refl s

/-- The work that follows a feedback value. -/
theorem Stable.afterFeedback (s : State) (n : NodeId) (src : OccurrenceSource) : Stable s (s.afterFeedback n src) := by
  unfold State.afterFeedback
  refine .trans ?_ (points ⟨_, []⟩ n src _ .now none)
  dsimp only
  split
  · exact refl s
  · exact setCompleted s _ n

namespace Within

/-- A branch. -/
theorem ite {i : SecId} {c : Prop} [Decidable c] {s a b : State} (ha : c → Within i s a) (hb : ¬ c → Within i s b) :
    Within i s (if c then a else b) := by
  split
  · exact ha ‹_›
  · exact hb ‹_›

/-- Work done or not done. -/
theorem whenTrue {i : SecId} {c : Prop} [Decidable c] {s a : State} (ha : c → Within i s a) : Within i s (if c then a else s) :=
  ite ha fun _ => refl i s

theorem completeSet (s : State) (i : SecId) : Within i s (s.completeSet i) :=
  ite (fun _ => refl i s) fun _ => whenTrue fun _ => evaluateSet ..

theorem modWatch (i : SecId) (s : State) (w : WatchId) (f : WatchPoint → WatchPoint) : Within i s (s.modWatch w f) :=
  quiet i rfl rfl rfl rfl

theorem hitMarked (i : SecId) (s : State) (w : WatchId) (v : Int) (src : OccurrenceSource) : Within i s (s.hitMarked w v src) := by
  have hhit : Within i s (s.watchHit w v src) :=
    ite (fun _ => (modWatch i s ..).trans ((SetWork.post i ..).trans (SetWork.signal i ..)).toWithin) fun _ => modWatch i s ..
  exact hhit.trans (modWatch i ..)

/-- The request of a hit concerns the section of the point's node alone. -/
theorem watchRequest {s t : State} {w : WatchId} {i : SecId} (h : (s.drive (s.watch w).node).inSection = some i) {r : LateRequest}
    (hr : s.watchRequest w = some r) : Within i t (t.takeLate r) := by
  unfold State.watchRequest at hr
  dsimp only at hr
  rw [h] at hr
  dsimp only at hr
  split at hr
  · obtain rfl := Option.some.inj hr
    exact (SetWork.requestFreeze ..).toWithin
  · cases hr

/-- An occurrence at a point whose node is in the section. -/
theorem occurrence {s : State} {w : WatchId} {i : SecId} (h : (s.drive (s.watch w).node).inSection = some i) (v : Int)
    (src : OccurrenceSource) (change : ChangeStop) : Within i s (s.occurrence w v src change).1 := by
  unfold State.occurrence
  dsimp only
  split
  · generalize hq : (if (s.watch w).action.stops = true then s.watchRequest w else none) = q
    cases q with
    | none => exact hitMarked ..
    | some r =>
      have hr : s.watchRequest w = some r := by
        split at hq
        · exact hq
        · cases hq
      dsimp only
      split
      · exact hitMarked ..
      · exact (hitMarked ..).trans (watchRequest h hr)
  · exact modWatch i s w fun p => p.seen v

/-- The look of one point at values of a node of the section. -/
theorem point {a : Watched} {n : NodeId} {i : SecId} (h : (a.state.drive n).inSection = some i) (src : OccurrenceSource)
    (values : List (WatchField × Int)) (change : ChangeStop) (w : WatchId) : Within i a.state (a.point n src values change w).state := by
  unfold Watched.point
  dsimp only
  split
  · next hsees =>
    split
    · exact refl ..
    · exact occurrence (by rw [hsees.2.1]; exact h) ..
  · exact refl ..

/-- The look of all points at a feedback value of a node of the section. -/
theorem feedbackSeen {s : State} {n : NodeId} {i : SecId} (h : (s.drive n).inSection = some i) (src : OccurrenceSource) :
    Within i s (s.feedbackSeen n src) := by
  have hpoints (values : List (WatchField × Int)) : ∀ (ws : List WatchId) (a : Watched), (a.state.drive n).inSection = some i →
      Within i a.state (ws.foldl (fun a w => a.point n src values .now w) a).state := by
    intro ws
    induction ws with
    | nil => exact fun a _ => refl i a.state
    | cons w ws ih =>
      intro a ha
      exact (point ha src values .now w).trans (ih _ (((Stable.point a n src values .now w).map n).2.trans ha))
  exact hpoints _ watchIds ⟨s, []⟩ h

/-- The work that follows a feedback value of a node of the section. -/
theorem afterFeedback {s : State} {n : NodeId} {i : SecId} (h : (s.drive n).inSection = some i) (src : OccurrenceSource) :
    Within i s (s.afterFeedback n src) := by
  have hset : Within i s ((if statusFault (s.drive n).feedback.status = true then
      s.faultCondition i .driveFault (some n) (s.positionOf n) else s).completeSet i) :=
    (whenTrue fun _ => (SetWork.faultCondition ..).toWithin).trans (completeSet _ i)
  unfold State.afterFeedback
  rw [h]
  exact hset.trans (feedbackSeen (((Stable.setCompleted s i n).map n).2.trans h) src)

end Within

/-! ## The checks -/

/-- INJECT FEEDBACK refuses a number that names no node. -/
theorem injectBody_badNode (s : State) (l : Level) {node : Int} (raw load status : Int) (h : node < 1 ∨ 62 < node) :
    injectBody s l [node, raw, load, status] = s.refuse .badValue [1] := by
  simp only [injectBody, nodeOf_toNat_none h]

/-- INJECT FEEDBACK refuses a node in no section. -/
theorem injectBody_unassigned {s : State} (l : Level) {n : NodeId} (raw load status : Int) (h : (s.drive n).inSection = none) :
    injectBody s l [(n.val : Int) + 1, raw, load, status] = s.refuse .badValue [2] := by
  simp only [injectBody, nodeOf_toNat rfl, h]

/-- INJECT FEEDBACK of a node of a section: the checks after it, in their order. -/
theorem injectBody_node {s : State} (l : Level) {n : NodeId} {i : SecId} (raw load status : Int) (h : (s.drive n).inSection = some i) :
    injectBody s l [(n.val : Int) + 1, raw, load, status] =
      if (s.sec i).state ≠ .selected then s.refuse .wrongState [((s.sec i).state.code : Int)]
      else if s.cycleOpen = false then s.refuse .wrongState [1, -1]
      else if raw < -8388608 ∨ 8388607 < raw then s.refuse .badValue [3]
      else if load < -32768 ∨ 32767 < load then s.refuse .badValue [4]
      else if status < 0 ∨ 31 < status then s.refuse .badValue [5]
      else (s.takeFeedback n raw load (BitVec.ofNat 5 status.toNat) .injected).answerOk
        [flagCode (!(s.sec i).evaluated && ((s.takeFeedback n raw load (BitVec.ofNat 5 status.toNat) .injected).sec i).evaluated)] := by
  simp only [injectBody, nodeOf_toNat rfl, h]

/-- A COMMISSION request with four operands does its work on the state without the request. -/
theorem TakesCommission.inject {s : State} {r : RequestFrame} (h : TakesCommission s r 35) {node raw load status : Int}
    (hops : operandValues r = [node, raw, load, status]) {a : Answer}
    (hbody : injectBody s.dropRequest .commission [node, raw, load, status] = a) : exec .injectFeedback s = .next (a.post r.tag) := by
  have hserve := TakesCommission.serve (row := rowInject) h (by rw [hops]; exact ⟨le_refl 4, le_refl 4⟩) injectBody
  rw [hops, hbody] at hserve
  exact hserve

/-! ## The value written (R80, R86) -/

/-- A change of a Drive Map entry is known by what it makes of the entry. -/
theorem State.modDrive_congr {s : State} {n : NodeId} {f g : DriveEntry → DriveEntry} (h : f (s.drive n) = g (s.drive n)) :
    s.modDrive n f = s.modDrive n g := by
  unfold State.modDrive
  rw [show f s.drives[n] = g s.drives[n] from h]

/-- The feedback value that INJECT FEEDBACK writes. -/
def DriveEntry.injected (d : DriveEntry) (raw load status : Int) (cycle : Word16) : Feedback where
  rawSpeed := raw
  rawLoad := load
  status := BitVec.ofInt 5 status
  calibratedSpeed := clampTo (-8388607) 8388607 (roundDiv ((d.direction.sign * raw - d.offset) * d.gain) 16384)
  signedLoad := clampTo (-32768) 32767 (d.direction.sign * load)
  cycle := cycle
  source := some .injected
  fresh := true
  missing := d.feedback.missing
  ever := true

/-- The entry with the value written. -/
theorem DriveEntry.take_injected (d : DriveEntry) (raw load : Int) {status : Int} (h : 0 ≤ status) (cycle : Word16) :
    d.take raw load (BitVec.ofNat 5 status.toNat) cycle .injected = { d with feedback := d.injected raw load status cycle } := by
  have hstatus : BitVec.ofNat 5 status.toNat = BitVec.ofInt 5 status := by
    rw [← BitVec.ofInt_natCast, Int.toNat_of_nonneg h]
  unfold DriveEntry.take DriveEntry.injected DriveEntry.calibrate DriveEntry.signLoad
  rw [hstatus, Direction.sign_mul, Direction.sign_mul]
  rfl

/-- The injection is the value written and the work that follows it. -/
theorem State.takeFeedback_injected (s : State) (n : NodeId) (raw load : Int) {status : Int} (h : 0 ≤ status) :
    s.takeFeedback n raw load (BitVec.ofNat 5 status.toNat) .injected =
      (s.modDrive n fun d => { d with feedback := (s.drive n).injected raw load status s.cycle }).afterFeedback n .injected := by
  unfold State.takeFeedback
  rw [State.modDrive_congr (g := fun d => { d with feedback := (s.drive n).injected raw load status s.cycle })
    ((s.drive n).take_injected raw load h s.cycle)]

/-- The answer after work that keeps membership and the engine, in the terms of the state that the request was taken from. -/
theorem Stable.answered {s v : State} {r : RequestFrame} {n : NodeId} {f : DriveEntry → DriveEntry}
    (h : Stable (s.dropRequest.modDrive n f) v) (hengine : v.engine = s.engine) (data : List Int) :
    v.postReply r.tag .ok false data = { s.answered r .ok false data with
      drives := v.drives, sections := v.sections, pool := v.pool, watches := v.watches, capture := v.capture
      events := v.events, nextSequence := v.nextSequence } := by
  conv_lhs => rw [h.frame, hengine]
  rfl

/-- The injection in the words of the statements. -/
theorem State.inject_spec {s : State} {r : RequestFrame} {n : NodeId} {i : SecId} (hi : (s.drive n).inSection = some i)
    (hfree : s.engine.holder ≠ some i) (fb : Feedback) :
    ∃ v : State, v = (s.dropRequest.modDrive n fun d => { d with feedback := fb }).afterFeedback n .injected ∧
      (v.drive n).feedback = fb ∧
      FeedbackFollowed (s.dropRequest.modDrive n fun d => { d with feedback := fb }) v n .injected ∧
      (∀ m, m ≠ n → v.drive m = s.drive m) ∧ (∀ j, j ≠ i → v.sec j = s.sec j) ∧ (∀ q, q ∉ s.members i → v.member q = s.member q) ∧
      ∀ data, v.postReply r.tag .ok false data = { s.answered r .ok false data with
        drives := v.drives, sections := v.sections, pool := v.pool, watches := v.watches, capture := v.capture
        events := v.events, nextSequence := v.nextSequence } := by
  have hdrive (m : NodeId) : (s.dropRequest.modDrive n fun d => { d with feedback := fb }).drive m =
      if m = n then { s.drive n with feedback := fb } else s.drive m := State.drive_modDrive ..
  have hsec : ((s.dropRequest.modDrive n fun d => { d with feedback := fb }).drive n).inSection = some i := by
    rw [hdrive, if_pos rfl]; exact hi
  have hwithin := Within.afterFeedback hsec .injected
  have hfollowed := FeedbackFollowed.of_afterFeedback (s.dropRequest.modDrive n fun d => { d with feedback := fb }) n .injected
  have hstable : Stable (s.dropRequest.modDrive n fun d => { d with feedback := fb })
      ((s.dropRequest.modDrive n fun d => { d with feedback := fb }).afterFeedback n .injected) := Stable.afterFeedback ..
  refine ⟨_, rfl, ?_⟩
  generalize (s.dropRequest.modDrive n fun d => { d with feedback := fb }).afterFeedback n .injected = v at *
  obtain ⟨hdrives, hengine⟩ := hwithin.free hfree
  refine ⟨(hwithin.feedback n).trans ?_, hfollowed, fun m hm => ?_, hwithin.sec, hwithin.member, hstable.answered hengine⟩
  · rw [hdrive, if_pos rfl]
  · rw [State.drive_of_eq hdrives, hdrive, if_neg hm]

/-- Settles O49: the checks in their order, then the value and the work that follows it. -/
theorem injectionWritesFeedback : Obligations.InjectionWritesFeedback := by
  unfold Obligations.InjectionWritesFeedback
  intro s r node raw load status htakes hops refused
  have hrefused {code : ResultCode} {data : List Int}
      (hbody : injectBody s.dropRequest .commission [node, raw, load, status] = s.dropRequest.refuse code data) : refused code data :=
    htakes.inject hops hbody
  refine ⟨fun h => hrefused (injectBody_badNode _ _ raw load status h), ?_⟩
  rintro n rfl
  refine ⟨fun h => hrefused (injectBody_unassigned (s := s.dropRequest) _ raw load status h), fun i hi => ?_⟩
  have hbody := injectBody_node (s := s.dropRequest) .commission raw load status hi
  refine ⟨fun hst => hrefused (hbody.trans (if_pos hst)), fun hst => ?_⟩
  rw [if_neg (show ¬ (s.dropRequest.sec i).state ≠ .selected from not_not_intro hst)] at hbody
  refine ⟨fun ho => hrefused (hbody.trans (if_pos ho)), ?_⟩
  by_cases ho : s.cycleOpen = false
  · have hclosed {p : Prop} (h : s.cycleOpen = true) : p := by rw [ho] at h; cases h
    exact ⟨fun h => hclosed h, fun h => hclosed h, fun h => hclosed h, fun h => hclosed h⟩
  rw [if_neg (show ¬ s.dropRequest.cycleOpen = false from ho)] at hbody
  refine ⟨fun _ hraw => hrefused (hbody.trans (if_pos hraw)), fun _ h1 h2 hload => ?_, fun _ h1 h2 h3 h4 hstatus => ?_,
    fun _ h1 h2 h3 h4 h5 h6 hfree => ?_⟩ <;> rw [if_neg (by omega)] at hbody
  · exact hrefused (hbody.trans (if_pos hload))
  · rw [if_neg (by omega)] at hbody
    exact hrefused (hbody.trans (if_pos hstatus))
  · rw [if_neg (by omega), if_neg (by omega), State.takeFeedback_injected _ n raw load h5] at hbody
    obtain ⟨v, hv, hwritten, hfollowed, hdrive, hsec, hmember, hframe⟩ := State.inject_spec (r := r) hi hfree
      ((s.drive n).injected raw load status s.cycle)
    have hflag (a b : Bool) : flagCode (!a && b) = if a = false ∧ b = true then 1 else 0 := by cases a <;> cases b <;> rfl
    rw [show (s.dropRequest.modDrive n fun d => { d with
      feedback := (s.dropRequest.drive n).injected raw load status s.dropRequest.cycle }).afterFeedback n .injected = v from hv.symm,
      hflag] at hbody
    exact ⟨_, v, htakes.inject hops hbody, hwritten, hfollowed, rfl, hdrive, hsec, hmember, hframe _⟩

end Sys2Proof.Machine
end

section
/-! SUPPORT. Tame work: what leaves the link queues as they stand and keeps the counts in range, the cursors on fields that exist and the
Capture Buffer within its bounds (R142, R154, R156, R166). Everything that the block does is tame but for the frames and requests that it
queues, takes and sends. -/

namespace Sys2Proof.Machine

/-! ## Tame work -/

/-- The link queues: requests, downstream, forwarded upstream, replies (R154, R156). -/
def State.queues (s : State) : List RequestFrame × List Frame × List ReadyFrame × List ReadyFrame :=
  (s.requests, s.downstreamQueue, s.throughQueue, s.replyQueue)

/-- The tables that hold counts: sections, Drive Map and watch points. -/
def State.tallies (s : State) : Vector Section 16 × Vector DriveEntry 62 × Vector WatchPoint 4 := (s.sections, s.drives, s.watches)

/-- How far the Capture Buffer is filled: its record count, write index and wrapped flag (R141). -/
def CaptureControl.extent (c : CaptureControl) : Nat × Nat × Bool := (c.recordCount, c.writeIndex, c.wrapped)

/-- The cursors (R166), and the Capture Buffer with how far it is filled (R142). -/
def State.places (s : State) : Cursor × Cursor × List (Nat × CaptureRecord) × Nat × Nat × Bool :=
  (s.observeCursor, s.commissionCursor, s.buffer, s.capture.extent)

/-- The counts of a section that saturate are within their ranges (R51, R103, R124). -/
def Section.Tallied (x : Section) : Prop := x.lineMiss ≤ 15 ∧ x.profile.gateClosed ≤ 65535 ∧ x.monitor.zeroCross ≤ 255

/-- t is s after tame work. -/
structure Tame (s t : State) : Prop where
  queues : t.queues = s.queues
  counts : CountsInRange s → CountsInRange t
  cursors : CursorsExist s → CursorsExist t
  buffer : BufferWithinBounds s → BufferWithinBounds t

/-- The counts are those that the tables hold. -/
theorem CountsInRange.of_eq {s t : State} (h : t.tallies = s.tallies) (hs : CountsInRange s) : CountsInRange t := by
  simp only [State.tallies, Prod.mk.injEq] at h
  obtain ⟨hsections, hdrives, hwatches⟩ := h
  unfold CountsInRange State.sec State.drive State.watch at *
  rw [hsections, hdrives, hwatches]
  exact hs

/-- Whether the cursors exist is told by the cursors. -/
theorem CursorsExist.of_eq {s t : State} (h : t.places = s.places) (hs : CursorsExist s) : CursorsExist t := by
  simp only [State.places, Prod.mk.injEq] at h
  obtain ⟨hobserve, hcommission, _⟩ := h
  unfold CursorsExist
  rw [hobserve, hcommission]
  exact hs

/-- The buffer's bounds speak of the buffer and of how far it is filled alone. -/
theorem BufferWithinBounds.of_eq {s t : State} (h : t.places = s.places) (hs : BufferWithinBounds s) : BufferWithinBounds t := by
  simp only [State.places, CaptureControl.extent, Prod.mk.injEq] at h
  obtain ⟨_, _, hbuffer, hcount, hindex, hwrapped⟩ := h
  unfold BufferWithinBounds
  rw [hbuffer, hcount, hindex, hwrapped]
  exact hs

namespace Tame

theorem refl (s : State) : Tame s s := ⟨rfl, id, id, id⟩

theorem trans {s t u : State} (h : Tame s t) (k : Tame t u) : Tame s u where
  queues := k.queues.trans h.queues
  counts hs := k.counts (h.counts hs)
  cursors hs := k.cursors (h.cursors hs)
  buffer hs := k.buffer (h.buffer hs)

/-! ## Tame work over lists and branches -/

/-- A branch. -/
theorem ite {c : Prop} [Decidable c] {s a b : State} (ha : c → Tame s a) (hb : ¬ c → Tame s b) : Tame s (if c then a else b) := by
  split
  · exact ha ‹_›
  · exact hb ‹_›

/-- Work done or not done. -/
theorem whenTrue {c : Prop} [Decidable c] {s a : State} (ha : c → Tame s a) : Tame s (if c then a else s) :=
  ite ha fun _ => refl s

/-- Work over a list that carries more than a state. -/
theorem foldlOn {α β : Type} (state : β → State) (f : β → α → β) (hf : ∀ b a, Tame (state b) (state (f b a))) :
    ∀ (l : List α) (b : β), Tame (state b) (state (l.foldl f b))
  | [], _ => refl _
  | a :: l, b => (hf b a).trans (foldlOn state f hf l _)

/-- Work over a list. -/
theorem foldl {α : Type} (f : State → α → State) (hf : ∀ s a, Tame s (f s a)) (l : List α) (s : State) : Tame s (l.foldl f s) :=
  foldlOn id f hf l s

/-- Work over the sections. -/
theorem forSections (f : State → SecId → State) (hf : ∀ s i, Tame s (f s i)) (s : State) : Tame s (s.forSections f) :=
  foldl f hf _ _

/-! ## One change of the state -/

/-- A change that leaves queues, cursors and buffer, from what it does to the counts. -/
theorem of_counts {s t : State} (h : CountsInRange s → CountsInRange t) (hq : t.queues = s.queues) (hp : t.places = s.places) :
    Tame s t := ⟨hq, h, .of_eq hp, .of_eq hp⟩

/-- A change that leaves the tables with counts too. -/
theorem quiet {s t : State} (ht : t.tallies = s.tallies) (hq : t.queues = s.queues) (hp : t.places = s.places) : Tame s t :=
  of_counts (.of_eq ht) hq hp

/-- A change of a section's record that keeps its counts in range. -/
theorem modSec (s : State) (i : SecId) (f : Section → Section)
    (hf : ∀ x : Section, x.Tallied → (f x).Tallied) : Tame s (s.modSec i f) := by
  refine of_counts (fun ⟨hsections, hrest⟩ => ⟨fun j => ?_, hrest⟩) rfl rfl
  rw [State.sec_modSec]
  split
  · exact hf _ (hsections _)
  · exact hsections j

/-- A change of a Drive Map entry that keeps its missing count in range. -/
theorem modDrive (s : State) (n : NodeId) (f : DriveEntry → DriveEntry)
    (hf : ∀ d : DriveEntry, d.feedback.missing ≤ 15 → (f d).feedback.missing ≤ 15) :
    Tame s (s.modDrive n f) := by
  refine of_counts (fun ⟨hsections, hdrives, hwatches⟩ => ⟨hsections, fun m => ?_, hwatches⟩) rfl rfl
  rw [State.drive_modDrive]
  split
  · exact hf _ (hdrives _)
  · exact hdrives m

/-- A change of a watch point that keeps its hit count in range. -/
theorem modWatch (s : State) (w : WatchId) (f : WatchPoint → WatchPoint)
    (hf : ∀ p : WatchPoint, p.hitCount ≤ 65535 → (f p).hitCount ≤ 65535) : Tame s (s.modWatch w f) := by
  refine of_counts (fun ⟨hsections, hdrives, hwatches⟩ => ⟨hsections, hdrives, fun v => ?_⟩) rfl rfl
  rw [State.watch_modWatch]
  split
  · exact hf _ (hwatches _)
  · exact hwatches v

/-- A change of the capture control that leaves how far the buffer is filled. -/
theorem modCapture (s : State) (f : CaptureControl → CaptureControl) (hf : (f s.capture).extent = s.capture.extent) :
    Tame s (s.modCapture f) :=
  quiet rfl rfl (by unfold State.places; rw [State.modCapture, hf])

theorem modRec (s : State) (r : RecId) (f : PoolRecord → PoolRecord) : Tame s (s.modRec r f) := quiet rfl rfl rfl

theorem modMembers (s : State) (i : SecId) (f : PoolRecord → PoolRecord) : Tame s (s.modMembers i f) :=
  foldl _ (fun t r => modRec t r f) _ _

theorem modEngine (s : State) (f : Engine → Engine) : Tame s (s.modEngine f) := quiet rfl rfl rfl

theorem modMonitor (s : State) (i : SecId) (f : Monitor → Monitor)
    (hf : ∀ m : Monitor, m.zeroCross ≤ 255 → (f m).zeroCross ≤ 255) : Tame s (s.modMonitor i f) :=
  modSec s i _ fun _ ⟨hline, hgate, hcross⟩ => ⟨hline, hgate, hf _ hcross⟩

theorem modProfile (s : State) (i : SecId) (f : ProfilePosition → ProfilePosition)
    (hf : ∀ p : ProfilePosition, p.gateClosed ≤ 65535 → (f p).gateClosed ≤ 65535) :
    Tame s (s.modProfile i f) :=
  modSec s i _ fun _ ⟨hline, hgate, hcross⟩ => ⟨hline, hf _ hgate, hcross⟩

theorem modCfg (s : State) (i : SecId) (f : SectionConfig → SectionConfig) : Tame s (s.modCfg i f) :=
  modSec s i _ fun _ => id

theorem post (s : State) (k : EventKind) (a : Option SecId) (n : Option NodeId) (p : Option Pos) (c : Word16) (v : Option Int)
    (d : Nat) : Tame s (s.post k a n p c v d) := by
  rw [State.post_frame]; exact quiet rfl rfl rfl

theorem captureDone (s : State) (detail : Nat) : Tame s (s.captureDone detail) := (modCapture _ _ (by rfl)).trans (post ..)

theorem takeTrigger (s : State) (k : TriggerKind) (x : Nat) : Tame s (s.takeTrigger k x).1 := by
  unfold State.takeTrigger
  split
  · split
    · dsimp only
      exact modCapture _ _ rfl
    · split
      · exact captureDone ..
      · dsimp only
        exact modCapture _ _ rfl
    · exact refl s
  · exact refl s

theorem signal (s : State) (k : TriggerKind) (x : Nat) : Tame s (s.signal k x) := takeTrigger ..

/-! ## Entries to a state, requests and conditions -/

theorem freeEngine (s : State) (i : SecId) (r : CalResult) : Tame s (s.freeEngine i r) := by
  rw [State.freeEngine_frame]; exact quiet rfl rfl rfl

theorem enterPassing (s : State) (i : SecId) (st : SectionState) (cause : Cause) (node : Option NodeId) (pos : Option Pos) :
    Tame s (s.enterPassing i st cause node pos) :=
  (modMembers ..).trans ((freeEngine ..).trans ((modSec _ _ _ fun _ => by exact id).trans (post ..)))

theorem enterFrozen (s : State) (i : SecId) (cause : Cause) (src : Option Nat) (node : Option NodeId) (pos : Option Pos) :
    Tame s (s.enterFrozen i cause src node pos) :=
  (modMembers ..).trans ((modSec _ _ _ fun _ => by exact id).trans (post ..))

theorem enterReleasing (s : State) (i : SecId) (target : ReleaseTarget) (cause : Cause) (result : CalResult) (node : Option NodeId)
    (pos : Option Pos) : Tame s (s.enterReleasing i target cause result node pos) :=
  (modMembers ..).trans ((freeEngine ..).trans ((modSec _ _ _ fun _ => by exact id).trans (post ..)))

theorem resumeTrial (s : State) (i : SecId) (stepPending : Bool) : Tame s (s.resumeTrial i stepPending) :=
  (modMembers ..).trans ((modSec _ _ _ fun _ => by exact id).trans (post ..))

theorem enterCalibrating (s : State) (i : SecId) : Tame s (s.enterCalibrating i) := by
  unfold State.enterCalibrating State.postStateChange
  exact (modEngine s fun _ => { Engine.free with holder := some i, phase := some .settleLow }).trans
    ((modSec _ _ _ fun _ => by exact id).trans (post ..))

/-- START sets the gate-closed and zero-cross counts to 0 (R101, R124). -/
theorem startTrial (s : State) (i : SecId) : Tame s (s.startTrial i) := by
  unfold State.startTrial State.postStateChange
  refine (modMembers ..).trans (.trans (modSec _ _ _ fun _ ⟨hline, _, _⟩ => ?_) ((post ..).trans (signal ..)))
  exact ⟨hline, Nat.zero_le _, Nat.zero_le _⟩

theorem requestFreeze (s : State) (i : SecId) (cause : Cause) (src : Option Nat) (node : Option NodeId) (pos : Option Pos) :
    Tame s (s.requestFreeze i cause src node pos) := whenTrue fun _ => enterFrozen ..

theorem requestRelease (s : State) (i : SecId) (cause : Cause) (node : Option NodeId) (pos : Option Pos) :
    Tame s (s.requestRelease i cause node pos) := whenTrue fun _ => enterReleasing ..

theorem requestAbort (s : State) (i : SecId) : Tame s (s.requestAbort i) := whenTrue fun _ => enterPassing ..

theorem faultCondition (s : State) (i : SecId) (cause : Cause) (node : Option NodeId) (pos : Option Pos) :
    Tame s (s.faultCondition i cause node pos) := whenTrue fun _ => enterPassing ..

theorem takeLate (s : State) : ∀ r : LateRequest, Tame s (s.takeLate r)
  | .freeze .. => requestFreeze ..
  | .release .. => requestRelease ..

theorem requestAction (s : State) (i : SecId) (a : LimitAction) (cause : Cause) (src : Option Nat) (node : Option NodeId)
    (pos : Option Pos) : Tame s (s.requestAction i a cause src node pos) := by
  cases a
  case event => exact refl s
  case freeze => exact requestFreeze ..
  case release => exact requestRelease ..
  case abort => exact requestAbort ..

/-! ## The units' work on a set -/

theorem balance (s : State) (i : SecId) (complete : Bool) : Tame s (s.balance i complete) := by
  have hstore : Tame s (s.storeImbalances i) := foldl _ (fun t r => modRec t r _) _ _
  exact ite (fun _ => hstore.trans (modMembers ..)) fun _ => hstore

/-- Replacing a limit leaves the zero-cross count. -/
theorem setLimit (s : State) (i : SecId) (k : LimitKind) (g : Monitor → Limit) :
    Tame s (s.modMonitor i fun m => m.setLimit k (g m)) :=
  modMonitor s i _ fun _ h => by cases k <;> exact h

theorem evaluateLimit (s : State) (i : SecId) (c : Word16) (k : LimitKind) : Tame s (s.evaluateLimit i c k) := by
  unfold State.evaluateLimit State.postLimit
  split
  · exact refl s
  · dsimp only
    split
    · exact setLimit ..
    · exact (setLimit ..).trans (post ..)
    · exact (setLimit ..).trans ((post ..).trans ((signal ..).trans (requestAction ..)))

end Tame

/-- A crossing keeps the zero-cross count in range (R124). -/
theorem Monitor.crossing_zeroCross {m : Monitor} (h : m.zeroCross ≤ 255) (error : Int) : (m.crossing error).1.zeroCross ≤ 255 := by
  unfold Monitor.crossing
  split
  · split
    · exact Nat.min_le_left ..
    · exact h
    · exact h
  · split
    · split
      · exact Nat.min_le_left ..
      · exact h
      · exact h
    · exact h

/-- A raised count is at most 15 (R51, R83). -/
theorem raiseCount_le (n : Nat) : raiseCount n ≤ 15 := by
  unfold raiseCount; split <;> omega

namespace Tame

/-- The monitor that a zero-cross step stores is formed from the one the section has. -/
theorem storeCrossing (s : State) (i : SecId) (error : Int) :
    Tame s (s.modMonitor i fun _ => ((s.sec i).monitor.crossing error).1) := by
  refine of_counts (fun ⟨hsections, hrest⟩ => ⟨fun j => ?_, hrest⟩) rfl rfl
  obtain ⟨hline, hgate, hcross⟩ := hsections i
  unfold State.modMonitor
  rw [State.sec_modSec]
  split
  · exact ⟨hline, hgate, Monitor.crossing_zeroCross hcross error⟩
  · exact hsections j

theorem zeroCrossStep (s : State) (i : SecId) (c : Word16) : Tame s (s.zeroCrossStep i c) := by
  refine whenTrue fun _ => ?_
  split
  · exact refl s
  · exact ite (fun _ => (storeCrossing ..).trans ((modMonitor _ _ _ fun _ => by exact id).trans ((post ..).trans (requestAction ..)))) fun _ =>
      storeCrossing ..

theorem monitorSet (s : State) (i : SecId) (c : Word16) : Tame s (s.monitorSet i c) :=
  (evaluateLimit ..).trans ((evaluateLimit ..).trans ((evaluateLimit ..).trans (zeroCrossStep ..)))

theorem finishCal (s : State) (i : SecId) : Tame s (s.finishCal i) := by
  unfold State.finishCal
  split
  · exact (foldl _ (fun t v => modDrive _ _ _ fun _ => by exact id) _ _).trans (enterReleasing ..)
  · exact enterReleasing ..

theorem engineTakes (s : State) (i : SecId) (complete : Bool) : Tame s (s.engineTakes i complete) := by
  refine whenTrue fun _ => ?_
  unfold State.sampleSet
  split
  · exact ite (fun _ => (modEngine ..).trans (modEngine ..)) fun _ => modEngine ..
  · exact ite (fun _ => (modEngine ..).trans ((modEngine ..).trans (finishCal ..))) fun _ => modEngine ..
  all_goals exact refl s

theorem engineSkip (s : State) (i : SecId) : Tame s (s.engineSkip i) :=
  whenTrue fun _ => ite (fun _ => (modEngine ..).trans (enterReleasing ..)) fun _ => modEngine ..

theorem engineDispatch (s : State) : Tame s s.engineDispatch := by
  unfold State.engineDispatch
  split
  · exact refl s
  · exact whenTrue fun _ => ite (fun _ => enterReleasing ..) fun _ => modEngine ..

theorem evaluateSet (s : State) (i : SecId) (c : Word16) (complete : Bool) : Tame s (s.evaluateSet i c complete) :=
  (modSec _ _ _ fun _ => by exact id).trans (whenTrue fun _ => (balance ..).trans ((monitorSet ..).trans (engineTakes ..)))

theorem completeSet (s : State) (i : SecId) : Tame s (s.completeSet i) :=
  ite (fun _ => refl s) fun _ => whenTrue fun _ => evaluateSet ..

/-! ## Watch points and feedback -/

/-- A hit raises the hit count to 65,535 at most (R131). -/
theorem watchHit (s : State) (w : WatchId) (v : Int) (src : OccurrenceSource) : Tame s (s.watchHit w v src) := by
  have hlatch : Tame s (s.modWatch w fun p => p.latched v s.cycle src) := modWatch s w _ fun _ _ => Nat.min_le_left ..
  exact ite (fun _ => hlatch.trans ((post ..).trans (signal ..))) fun _ => hlatch

theorem occurrence (s : State) (w : WatchId) (v : Int) (src : OccurrenceSource) (change : ChangeStop) :
    Tame s (s.occurrence w v src change).1 := by
  have hseen (t : State) : Tame t (t.modWatch w fun p => p.seen v) := modWatch _ _ _ fun _ => by exact id
  have hhit := (watchHit s w v src).trans (hseen _)
  unfold State.occurrence
  dsimp only
  split
  · generalize (if (s.watch w).action.stops = true then s.watchRequest w else none) = q
    cases q with
    | none => exact hhit
    | some r =>
      dsimp only
      split
      · exact hhit
      · exact hhit.trans (takeLate ..)
  · exact hseen s

theorem points (a : Watched) (n : NodeId) (src : OccurrenceSource) (values : List (WatchField × Int)) (change : ChangeStop)
    (skip : Option WatchId) : Tame a.state (a.points n src values change skip).state := by
  refine foldlOn Watched.state _ (fun b w => ?_) _ _
  split
  · exact refl _
  · unfold Watched.point
    dsimp only
    split
    · split
      · exact refl _
      · exact occurrence ..
    · exact refl _

theorem lineEntry (a : Watched) (e : Entry) : Tame a.state (a.lineEntry e).state := by
  unfold Watched.lineEntry
  split
  · exact refl _
  · exact points ..

theorem issuedEntry (skips : List (WatchId × Nat)) (a : Watched) (p : Entry × Nat) : Tame a.state (a.issuedEntry skips p).state := by
  unfold Watched.issuedEntry
  split
  · exact refl _
  · exact points ..

/-- A feedback value leaves the missing count (R80). -/
theorem takeFeedback (s : State) (n : NodeId) (raw load : Int) (status : BitVec 5) (src : FeedbackSource) :
    Tame s (s.takeFeedback n raw load status src) := by
  unfold State.takeFeedback State.afterFeedback State.feedbackSeen
  refine (modDrive s n (fun d => d.take raw load status s.cycle src) fun _ => id).trans (.trans ?_ (points _ _ _ _ _ _))
  dsimp only
  split
  · exact refl _
  · exact (whenTrue fun _ => faultCondition ..).trans (completeSet ..)

/-! ## The steps of a dispatch -/

theorem overrideStep (entries : List Entry) (s : State) (i : SecId) : Tame s (s.overrideStep entries i) := by
  refine whenTrue fun _ => ?_
  split
  · exact enterPassing ..
  · exact refl s

/-- A missing count becomes 0 or is raised to 15 at most (R83). -/
theorem countMissing (s : State) (i : SecId) : Tame s (s.countMissing i) := by
  refine foldl _ (fun t r => modDrive _ _ _ fun d _ => ?_) _ _
  show (if d.feedback.fresh then 0 else raiseCount d.feedback.missing) ≤ 15
  split
  · exact Nat.zero_le _
  · exact raiseCount_le _

theorem closeSet (c : Word16) (s : State) (i : SecId) : Tame s (s.closeSet c i) := by
  have hlost (t : State) : Tame t (match t.lostMember i with
      | some r => t.faultCondition i .feedbackLost (t.member r).node (t.member r).position
      | none => t) := by
    split
    · exact faultCondition ..
    · exact refl t
  refine ite (fun _ => refl s) fun _ => ?_
  have hwork := (whenTrue (c := (!(s.sec i).evaluated) = true) fun _ => evaluateSet s i c (s.allFresh i)).trans
    ((countMissing _ i).trans (hlost _))
  exact ite (fun _ => hwork.trans (engineSkip ..)) fun _ => hwork

theorem openSets (s : State) : Tame s s.openSets := by
  refine of_counts (fun ⟨hsections, hdrives, hwatches⟩ => ⟨fun i => ?_, fun n => ?_, hwatches⟩) rfl rfl
  · rw [State.sec_openSets]; exact hsections i
  · rw [State.drive_openSets]; exact hdrives n

theorem closeSets (s : State) : ∀ previous : Option Word16, Tame s (s.closeSets previous)
  | none => quiet rfl rfl rfl
  | some c => (forSections _ (closeSet c) s).trans (openSets _)

/-- The line miss count becomes 0 or is raised to 15 at most (R51). -/
theorem lineStep (entries : List Entry) (s : State) (i : SecId) : Tame s (s.lineStep entries i) := by
  unfold State.lineStep
  split
  · exact refl s
  · split
    · exact modSec _ _ _ fun _ ⟨_, hgate, hcross⟩ => ⟨Nat.zero_le _, hgate, hcross⟩
    · have hmiss := modSec s i (fun x => { x with lineMiss := raiseCount x.lineMiss }) fun _ ⟨_, hgate, hcross⟩ =>
        ⟨raiseCount_le _, hgate, hcross⟩
      exact ite (fun _ => hmiss.trans (faultCondition ..)) fun _ => hmiss

theorem nextSegment (s : State) (i : SecId) (idx pass : Nat) (p : Int) : Tame s (s.nextSegment i idx pass p).state := by
  unfold State.nextSegment
  dsimp only
  exact modProfile _ _ _ fun _ => by exact id

theorem endProfile (s : State) (i : SecId) (p : Int) : Tame s (s.endProfile i p).state := by
  unfold State.endProfile
  dsimp only
  split
  · exact (modProfile _ _ _ fun _ => by exact id).trans (post ..)
  · exact (post ..).trans (nextSegment ..)
  · exact (modProfile _ _ _ fun _ => by exact id).trans (post ..)

/-- The segment boundary sets the zero-cross count to 0 (R124). -/
theorem signalBoundary (s : State) (i : SecId) : Tame s (s.signalBoundary i) :=
  (modMonitor s i _ fun _ _ => Nat.zero_le _).trans (signal ..)

theorem endSegment (s : State) (i : SecId) : Tame s (s.endSegment i).state := by
  unfold State.endSegment
  dsimp only
  split
  · exact (signalBoundary ..).trans (nextSegment ..)
  · split
    · exact (signalBoundary ..).trans (nextSegment ..)
    · exact (signalBoundary ..).trans (endProfile ..)

/-- The gate-closed count becomes 0 or is raised to 65,535 at most (R103). -/
theorem advanceProfile (s : State) (i : SecId) : Tame s (s.advanceProfile i).state := by
  have hopen : Tame s (s.modProfile i fun q => { q with gateClosed := 0 }) := modProfile _ _ _ fun _ _ => Nat.zero_le _
  unfold State.advanceProfile State.gatedAdvance State.gateClosed
  dsimp only
  split
  · exact refl s
  · split
    · split
      · dsimp only
        exact hopen.trans (modProfile _ _ _ fun _ => by exact id)
      · exact hopen.trans (endSegment ..)
    · dsimp only
      exact modProfile _ _ _ fun _ _ => Nat.min_le_left ..

/-! ## References -/

theorem issueAll (s : State) (i : SecId) (cs : List Candidate) : Tame s (s.issueAll i cs) := by
  rw [State.issueAll_frame]; exact quiet rfl rfl rfl

theorem formTrial (entries : List Entry) (s : State) (i : SecId) : Tame s (s.formTrial entries i).1 := by
  unfold State.formTrial
  dsimp only
  split
  · dsimp only
    exact (issueAll ..).trans (modSec _ _ _ fun _ => by exact id)
  · exact (watchHit ..).trans ((modWatch _ _ _ fun _ => by exact id).trans ((requestFreeze ..).trans (issueAll ..)))

theorem takeSection (entries : List Entry) (a : Formed) (i : SecId) : Tame a.state (Formed.takeSection entries a i).state := by
  have hbase (t : State) : Tame t (t.setIssueBase i) := modSec _ _ _ fun _ => by exact id
  have hline (t : State) : Tame t (t.recordLine entries i) := by
    refine foldl _ (fun u r => ?_) _ _
    split
    · exact modRec ..
    · exact refl u
  unfold Formed.takeSection
  dsimp only
  split
  · exact (formTrial ..).trans (hbase _)
  · exact (issueAll ..).trans (hbase _)
  · exact (modMembers ..).trans ((issueAll ..).trans ((hbase _).trans (whenTrue fun _ => enterPassing ..)))
  · exact (issueAll ..).trans (hbase _)
  all_goals exact (hline _).trans (hbase _)

theorem takeLates (s : State) (profile watch : List LateRequest) : Tame s (s.takeLates profile watch) := by
  refine .trans ?_ (foldl _ takeLate _ _)
  unfold State.orderLate
  split
  · exact refl s
  · split
    · exact refl s
    · exact quiet rfl rfl rfl

/-! ## Sweeps (R142, R144) -/

end Tame

/-- A record written keeps the buffer within its bounds: behind the records that stand in it while it is not full, in place of the oldest in
a full ring (R142). -/
theorem BufferWithinBounds.writeRecord {s : State} (h : BufferWithinBounds s) (r : CaptureRecord) :
    BufferWithinBounds (s.writeRecord r) := by
  obtain ⟨hwf, hplace, hcount, hindex, hring, hfilling, hfull⟩ := h
  have hwritten : ∀ p ∈ Memory.write s.buffer s.capture.writeIndex r, p.1 < 1024 := fun p hp => by
    rcases Memory.mem_write hp with hp | rfl
    · exact hplace p hp
    · exact hindex
  unfold State.writeRecord
  dsimp only
  split
  · rename_i hroom
    change s.capture.recordCount < 1024 at hroom
    have hnext := hfilling hroom
    have hflat : s.capture.wrapped ≠ true := fun hw => absurd (hring hw) (by omega)
    refine ⟨Memory.wf_write _ _ hwf, hwritten, ?_, Nat.mod_lt _ (by decide), fun hw => absurd hw hflat, ?_, fun _ => .inr ?_⟩ <;>
      dsimp only [Config.captureBufferSize] at * <;> omega
  · rename_i hroom
    change ¬ s.capture.recordCount < 1024 at hroom
    split
    · exact ⟨Memory.wf_write _ _ hwf, hwritten, hcount, Nat.mod_lt _ (by decide), fun _ => by dsimp only; omega,
        fun h => absurd h hroom, fun _ => .inl rfl⟩
    · exact ⟨hwf, hplace, hcount, hindex, hring, hfilling, hfull⟩

namespace Tame

theorem writeRecord (s : State) (r : CaptureRecord) : Tame s (s.writeRecord r) := by
  refine ⟨?_, ?_, ?_, fun h => h.writeRecord r⟩ <;> rw [State.writeRecord_frame]
  · rfl
  · exact id
  · exact id

theorem advanceItem (s : State) : Tame s s.advanceItem := by
  unfold State.advanceItem
  split
  · exact refl s
  · exact modCapture _ _ rfl

theorem endSweep (s : State) : Tame s s.endSweep := by
  have hswept : Tame s (s.modCapture fun c => { c with remaining := c.remaining - 1 }) := modCapture _ _ rfl
  unfold State.endSweep
  split
  · exact whenTrue fun _ => captureDone ..
  · exact ite (fun _ => hswept.trans (captureDone ..)) fun _ => ite (fun _ => hswept.trans (modCapture _ _ (by rfl))) fun _ => hswept
  · exact whenTrue fun _ => ite (fun _ => hswept.trans (captureDone ..)) fun _ => hswept

theorem takeSweep (s : State) (v : FrameView) : Tame s (s.takeSweep v) :=
  whenTrue fun _ => (foldl _ writeRecord _ _).trans ((advanceItem _).trans (endSweep _))

/-! ## The dispatch up to its forwarding -/

theorem lineArrival (s : State) (entries : List Entry) : Tame s (s.lineArrival entries).state := by
  refine .trans (forSections (State.overrideStep entries) (overrideStep entries) s) ?_
  unfold State.lineArrival
  generalize s.forSections (State.overrideStep entries) = t
  exact foldlOn Watched.state Watched.lineEntry lineEntry entries ⟨t, []⟩

theorem cycleWork (s : State) (previous : Option Word16) (entries : List Entry) : Tame s (s.cycleWork previous entries) :=
  (closeSets ..).trans ((forSections _ (lineStep entries) _).trans (engineDispatch _))

theorem advanceProfiles (s : State) : Tame s s.advanceProfiles.state := by
  unfold State.advanceProfiles
  generalize sectionIds = is
  refine foldlOn Advanced.state _ (fun a i => ?_) is ⟨s, []⟩
  exact advanceProfile a.state i

theorem formReferences (s : State) (entries : List Entry) : Tame s (s.formReferences entries).state := by
  unfold State.formReferences
  generalize sectionIds = is
  exact foldlOn Formed.state (Formed.takeSection entries) (takeSection entries) is ⟨s, [], []⟩

theorem issuedEntries (s : State) (skips : List (WatchId × Nat)) (l : List (Entry × Nat)) :
    Tame s (l.foldl (Watched.issuedEntry skips) ⟨s, []⟩).state :=
  foldlOn Watched.state _ (issuedEntry skips) l ⟨s, []⟩

theorem requested (s : State) (f : DispatchFrame) : Tame s (s.requested f) := by
  have hstart : Tame s (s.startCycle f.cycle) := quiet rfl rfl rfl
  exact hstart.trans <| (lineArrival ..).trans <| (cycleWork ..).trans <| (advanceProfiles _).trans <|
    (formReferences ..).trans <| (issuedEntries ..).trans (takeLates ..)

end Tame

end Sys2Proof.Machine
end

section
/-! SUPPORT. The writes and the commands' own work are tame (R161, R165, R166, R170). -/

namespace Sys2Proof.Machine

/-- A field address that passes the checks of R164 is that of a field that exists. -/
theorem Cursor.exists_of_valid {table entry field : Int} (h : validAddress table entry field = true) :
    (Cursor.mk table.toNat entry.toNat field.toNat).exists' := by
  simp only [validAddress, Bool.and_eq_true, decide_eq_true_eq] at h
  unfold Cursor.exists'
  dsimp only
  omega

/-- A cursor that advances within its table stays on a field that exists (R166). -/
theorem Cursor.exists_cursorAt {c : Cursor} (h : c.exists') (k : Nat) : (cursorAt c.table k).exists' := by
  obtain ⟨htable, hentry, hfield⟩ := h
  have hfields : 0 < tableFields c.table := Nat.zero_lt_of_lt hfield
  have hsize : k % tableSize c.table < tableSize c.table :=
    Nat.mod_lt _ (Nat.mul_pos (Nat.zero_lt_of_lt hentry) hfields)
  exact ⟨htable, (Nat.div_lt_iff_lt_mul hfields).2 hsize, Nat.mod_lt _ hfields⟩

/-- The power-on cursor points at a field that exists (R166). -/
theorem Cursor.exists_powerOn : Cursor.powerOn.exists' := by
  unfold Cursor.exists'; decide

/-- Each level has a cursor on a field that exists. -/
theorem CursorsExist.cursor {s : State} (h : CursorsExist s) (l : Level) : (s.cursor l).exists' := by
  cases l
  · exact h.1
  · exact h.2

namespace Tame

/-- A cursor moved after tame work, to a field that exists where the cursors did before it. -/
theorem setCursor {s t : State} (h : Tame s t) (l : Level) {c : Cursor} (hc : CursorsExist s → c.exists') :
    Tame s (t.setCursor l c) := by
  cases l
  · exact ⟨h.queues, h.counts, fun hs => ⟨hc hs, (h.cursors hs).2⟩, h.buffer⟩
  · exact ⟨h.queues, h.counts, fun hs => ⟨(h.cursors hs).1, hc hs⟩, h.buffer⟩

/-! ## Writes (R165) -/

theorem writeSection (s : State) (i : SecId) (f : Nat) (v : Int) : (s.writeSection i f v).Leaves (Tame s) := by
  have hprofile (lo hi : Int) (change : Nat → SectionConfig → SectionConfig) :
      (s.profileWrite i lo hi v change).Leaves (Tame s) := by
    refine State.structural_leaves (WriteResult.leaves_unless fun _ => ?_)
    dsimp only
    exact WriteResult.leaves_unless fun _ => modCfg ..
  have hclamp (lo hi : Int) (g : Int → SectionConfig → SectionConfig) (hle : lo ≤ hi) :
      (clampWrite lo hi v fun x => s.modCfg i (g x)).Leaves (Tame s) := clampWrite_leaves v (fun _ _ _ => modCfg ..) hle
  have hrange (lo hi : Int) (g : Int → SectionConfig → SectionConfig) :
      (s.structural i (rangeWrite lo hi v fun x => s.modCfg i (g x))).Leaves (Tame s) :=
    State.structural_leaves (rangeWrite_leaves v fun _ _ _ => modCfg ..)
  have hlimit (x : Int) : Tame s (s.writeTrimLimit i x) :=
    ite (fun _ => (modCfg ..).trans (modMembers ..)) fun _ => modCfg ..
  unfold State.writeSection
  split
  case h_5 => exact clampWrite_leaves v fun x _ _ => hlimit x
  case h_6 => exact hprofile ..
  case h_7 => exact hprofile ..
  case h_9 => exact State.structural_leaves (codeWrite_leaves _ fun _ => modCfg ..)
  case h_1 => exact hclamp _ _ _ (by decide)
  case h_2 => exact hclamp _ _ _ (by decide)
  case h_4 => exact hclamp _ _ _ (by decide)
  case h_11 => exact hclamp _ _ _ (by decide)
  case h_12 => exact hclamp _ _ _ (by decide)
  case h_18 => trivial
  all_goals exact hrange ..

theorem writePool (s : State) (r : RecId) (f : Nat) (v : Int) : (s.writePool r f v).Leaves (Tame s) := by
  unfold State.writePool
  split
  · split
    · exact clampWrite_leaves v fun _ _ _ => modRec ..
    · trivial
  · trivial

theorem writeDrive (s : State) (n : NodeId) (f : Nat) (v : Int) : (s.writeDrive n f v).Leaves (Tame s) := by
  refine WriteResult.leaves_unless fun _ => WriteResult.leaves_unless fun _ => WriteResult.leaves_unless fun _ => ?_
  split
  · exact codeWrite_leaves _ fun _ => modDrive _ _ _ fun _ => by exact id
  · exact rangeWrite_leaves v fun _ _ _ => modDrive _ _ _ fun _ => by exact id
  · exact rangeWrite_leaves v fun _ _ _ => modDrive _ _ _ fun _ => by exact id

theorem writeSegment (s : State) (k : Fin 128) (f : Nat) (v : Int) : (s.writeSegment k f v).Leaves (Tame s) := by
  have hsegment (g : Segment → Segment) : Tame s (s.modSegment k g) := quiet rfl rfl rfl
  refine WriteResult.leaves_unless fun _ => ?_
  split
  · exact WriteResult.leaves_unless fun _ => hsegment _
  · exact clampWrite_leaves v fun _ _ _ => hsegment _
  · split
    · exact WriteResult.leaves_unless fun _ => hsegment _
    · trivial
  · trivial

/-- No write of a limit set touches the zero-cross count (R116). -/
theorem writeMonitor (s : State) (i : SecId) (f : Nat) (v : Int) : (s.writeMonitor i f v).Leaves (Tame s) := by
  have hclamp (lo hi : Int) (k : LimitKind) (g : Int → Monitor → Limit) (hle : lo ≤ hi) :
      (clampWrite lo hi v fun x => s.modMonitor i fun m => m.setLimit k (g x m)).Leaves (Tame s) :=
    clampWrite_leaves v (fun _ _ _ => setLimit ..) hle
  have hcode (k : LimitKind) (g : LimitAction → Monitor → Limit) :
      (codeWrite (LimitAction.ofCode v) fun a => s.modMonitor i fun m => m.setLimit k (g a m)).Leaves (Tame s) :=
    codeWrite_leaves _ fun _ => setLimit ..
  unfold State.writeMonitor
  dsimp only
  split
  case h_3 => exact hcode ..
  case h_6 => exact hcode ..
  case h_9 => exact hcode ..
  case h_10 => exact clampWrite_leaves v fun _ _ _ => modMonitor _ _ _ fun _ => by exact id
  case h_11 => exact clampWrite_leaves v fun _ _ _ => modMonitor _ _ _ fun _ => by exact id
  case h_12 => exact codeWrite_leaves _ fun _ => modMonitor _ _ _ fun _ => by exact id
  case h_13 => trivial
  all_goals exact hclamp _ _ _ _ (by decide)

/-- An accepted write of a watch point sets its hit count to 0 (R129). -/
theorem writeWatch (s : State) (w : WatchId) (f : Nat) (v : Int) : (s.writeWatch w f v).Leaves (Tame s) := by
  have hstore (g : WatchPoint → WatchPoint) : Tame s (s.modWatch w fun p => (g p).rewritten) :=
    modWatch s w _ fun _ _ => Nat.zero_le _
  unfold State.writeWatch
  dsimp only
  split
  case h_6 => exact hstore _
  case h_7 => trivial
  all_goals exact codeWrite_leaves _ fun _ => hstore _

theorem writeItem (s : State) (k : Fin 8) (f : Nat) (v : Int) : (s.writeItem k f v).Leaves (Tame s) := by
  have hitem (g : CaptureItem → CaptureItem) : Tame s (s.modItem k g) := quiet rfl rfl rfl
  unfold State.writeItem
  split
  · split
    case h_5 => trivial
    all_goals exact codeWrite_leaves _ fun _ => hitem _
  · trivial

/-- The fields of the Capture Control that can be written do not say how far the buffer is filled (R141). -/
theorem writeCapture (s : State) (f : Nat) (v : Int) : (s.writeCapture f v).Leaves (Tame s) := by
  refine WriteResult.leaves_unless fun _ => ?_
  split
  · split
    case h_1 => exact codeWrite_leaves _ fun _ => modCapture _ _ rfl
    case h_2 => exact codeWrite_leaves _ fun _ => modCapture _ _ rfl
    case h_3 => exact codeWrite_leaves _ fun _ => modCapture _ _ rfl
    all_goals exact clampWrite_leaves v fun _ _ _ => modCapture _ _ rfl
  · trivial

theorem writeStation (s : State) (f : Nat) (v : Int) : (s.writeStation f v).Leaves (Tame s) := by
  unfold State.writeStation
  split
  · exact clampWrite_leaves v fun _ _ _ => quiet rfl rfl rfl
  · trivial

theorem writeField (s : State) (table e f : Nat) (v : Int) : (s.writeField table e f v).Leaves (Tame s) := by
  unfold State.writeField
  split
  · exact writeSection ..
  · exact writePool ..
  · exact writeDrive ..
  · exact writeSegment ..
  · exact writeMonitor ..
  · exact writeWatch ..
  · exact writeItem ..
  · exact writeCapture ..
  · exact writeStation ..
  · trivial

theorem writeRun (table : Nat) : ∀ (vs : List Int) (s : State) (k n : Nat) (c : Option Nat),
    Tame s (State.writeRun table s k vs n c).state
  | [], s, _, _, _ => refl s
  | v :: vs, s, k, n, c => by
    have hfield : (s.writeAt table k v).Leaves (Tame s) := writeField ..
    unfold State.writeRun
    split
    · rename_i t ht; rw [ht] at hfield; exact .trans hfield (writeRun table vs ..)
    · rename_i t ht; rw [ht] at hfield; exact .trans hfield (writeRun table vs ..)
    · exact refl s

/-! ## Answers (R27) -/

/-- An answer behind a check that refuses. -/
theorem unlessRefused {s : State} {c : Prop} [Decidable c] {code : ResultCode} {data : List Int} {a : Answer}
    (h : ¬ c → Tame s a.state) : Tame s (if c then s.refuse code data else a).state := by
  split
  · exact refl s
  · exact h ‹_›

/-- An answer behind a check that passes. -/
theorem ifPasses {s : State} {c : Prop} [Decidable c] {code : ResultCode} {data : List Int} {a : Answer}
    (h : c → Tame s a.state) : Tame s (if c then a else s.refuse code data).state := by
  split
  · exact h ‹_›
  · exact refl s

/-- A command of section 2.4. -/
theorem onSection (s : State) (ops : List Int) (takenIn : SectionState → Bool) (body : SecId → Answer)
    (h : ∀ i, Tame s (body i).state) : Tame s (s.onSection ops takenIn body).state := by
  unfold State.onSection
  split
  · split
    · exact refl s
    · exact ifPasses fun _ => h _
  · exact refl s

/-- A command of a member. -/
theorem onMember (s : State) (ops : List Int) (body : SecId → NodeId → RecId → Answer)
    (h : ∀ i n r, Tame s (body i n r).state) : Tame s (s.onMember ops body).state := by
  unfold State.onMember
  split
  · split
    · exact refl s
    · refine unlessRefused fun _ => ?_
      split
      · exact refl s
      · split
        · exact refl s
        · exact h ..
  · exact refl s

/-! ## Reads, writes and cursors -/

theorem readReply (s : State) (table k : Nat) (count : Int) : Tame s (s.readReply table k count).state :=
  unlessRefused fun _ => refl s

theorem readBody (s : State) (l : Level) (ops : List Int) : Tame s (readBody' s l ops).state := by
  unfold readBody'
  split
  · exact ifPasses fun _ => readReply ..
  · exact refl s

theorem readIndexedBody (s : State) (l : Level) (ops : List Int) : Tame s (Machine.readIndexedBody s l ops).state := by
  unfold Machine.readIndexedBody
  split
  · exact ifPasses fun _ => readReply ..
  · exact refl s

/-- SET CURSOR takes addresses of fields that exist alone. -/
theorem setCursorBody (s : State) (l : Level) (ops : List Int) : Tame s (Machine.setCursorBody s l ops).state := by
  unfold Machine.setCursorBody
  split
  · exact ifPasses fun hvalid => (refl s).setCursor l fun _ => Cursor.exists_of_valid hvalid
  · exact refl s

/-- READ NEXT leaves the cursor in its table. -/
theorem readNextBody (s : State) (l : Level) (ops : List Int) : Tame s (Machine.readNextBody s l ops).state := by
  unfold Machine.readNextBody
  split
  · exact unlessRefused fun _ => (refl s).setCursor l fun hs => Cursor.exists_cursorAt (hs.cursor l) _
  · exact refl s

theorem writeBody (s : State) (l : Level) (ops : List Int) : Tame s (Machine.writeBody s l ops).state := by
  unfold Machine.writeBody
  split
  · exact ifPasses fun _ => writeRun ..
  · exact refl s

/-- WRITE NEXT leaves the cursor in the table that it stood in before the run. -/
theorem writeNextBody (s : State) (l : Level) (ops : List Int) : Tame s (Machine.writeNextBody s l ops).state :=
  (writeRun (s.cursor l).table ops s _ 0 none).setCursor l fun hs => Cursor.exists_cursorAt (hs.cursor l) _

theorem readEventsBody (s : State) (l : Level) (ops : List Int) : Tame s (Machine.readEventsBody s l ops).state := by
  unfold Machine.readEventsBody
  split
  · exact unlessRefused fun _ => quiet rfl rfl rfl
  · exact refl s

theorem peekEventsBody (s : State) (l : Level) (ops : List Int) : Tame s (Machine.peekEventsBody s l ops).state := by
  unfold Machine.peekEventsBody
  split
  · exact unlessRefused fun _ => refl s
  · exact refl s

/-! ## Snapshots and captures -/

theorem setLatch (s : State) (i : SecId) (v : Option Snapshot) : Tame s (s.setLatch i v) := modSec _ _ _ fun _ => by exact id

theorem latchBody (s : State) (l : Level) (ops : List Int) : Tame s (Machine.latchBody s l ops).state := by
  unfold Machine.latchBody
  split
  · split
    · exact refl s
    · split
      · exact refl s
      · exact setLatch ..
  · exact refl s

theorem readSnapshotBody (s : State) (l : Level) (ops : List Int) : Tame s (Machine.readSnapshotBody s l ops).state := by
  unfold Machine.readSnapshotBody
  split
  · split
    · exact refl s
    · refine unlessRefused fun _ => ?_
      split
      · exact whenTrue fun _ => setLatch ..
      · exact refl s
  · exact refl s

/-- An empty buffer is within its bounds (R145). -/
theorem beginCapture (s : State) : Tame s s.beginCapture :=
  ⟨rfl, id, id, fun _ => ⟨rfl, nofun, Nat.zero_le _, Nat.zero_lt_succ _, nofun, fun _ => rfl, nofun⟩⟩

theorem captureStartBody (s : State) (l : Level) (ops : List Int) : Tame s (Machine.captureStartBody s l ops).state := by
  unfold Machine.captureStartBody
  split
  · refine ifPasses fun _ => unlessRefused fun _ => ?_
    split
    · exact refl s
    · exact unlessRefused fun _ => beginCapture s
  · exact refl s

theorem captureStopBody (s : State) (l : Level) (ops : List Int) : Tame s (Machine.captureStopBody s l ops).state := by
  unfold Machine.captureStopBody
  split
  · split
    case h_4 => exact refl s
    case h_5 => exact refl s
    all_goals
      dsimp only [State.state_answerOk]
      exact modCapture _ _ rfl
  · exact refl s

theorem triggerCaptureBody (s : State) (l : Level) (ops : List Int) : Tame s (Machine.triggerCaptureBody s l ops).state := by
  unfold Machine.triggerCaptureBody
  split
  · exact ifPasses fun _ => takeTrigger s .command 0
  · exact refl s

/-! ## The commissioning and membership commands (chapter 2) -/

theorem selectBody (s : State) (l : Level) (ops : List Int) : Tame s (Machine.selectBody s l ops).state := by
  refine onSection _ _ _ _ fun i => unlessRefused fun _ => ?_
  split
  · exact refl s
  · dsimp only [State.state_answerOk]
    exact (modMonitor _ _ _ fun _ => by exact id).trans (enterPassing ..)

theorem deselectBody (s : State) (l : Level) (ops : List Int) : Tame s (Machine.deselectBody s l ops).state :=
  onSection _ _ _ _ fun _ => enterPassing ..

theorem startBody (s : State) (l : Level) (ops : List Int) : Tame s (Machine.startBody s l ops).state := by
  refine onSection _ _ _ _ fun i => ?_
  split
  · exact refl s
  · split
    · exact refl s
    · split
      · exact refl s
      · split
        · exact startTrial ..
        · exact refl s

theorem freezeBody (s : State) (l : Level) (ops : List Int) : Tame s (Machine.freezeBody s l ops).state :=
  onSection _ _ _ _ fun _ => enterFrozen ..

theorem continueBody (s : State) (l : Level) (ops : List Int) : Tame s (Machine.continueBody s l ops).state :=
  onSection _ _ _ _ fun _ => resumeTrial ..

theorem stepBody (s : State) (l : Level) (ops : List Int) : Tame s (Machine.stepBody s l ops).state := by
  refine onSection _ _ _ _ fun i => ?_
  split
  · exact refl s
  · exact resumeTrial ..

theorem stopBody (s : State) (l : Level) (ops : List Int) : Tame s (Machine.stopBody s l ops).state :=
  onSection _ _ _ _ fun _ => enterReleasing ..

theorem abortBody (s : State) (l : Level) (ops : List Int) : Tame s (Machine.abortBody s l ops).state :=
  onSection _ _ _ _ fun _ => enterPassing ..

theorem calibrateBody (s : State) (l : Level) (ops : List Int) : Tame s (Machine.calibrateBody s l ops).state := by
  refine onSection _ _ _ _ fun i => unlessRefused fun _ => unlessRefused fun _ => unlessRefused fun _ => unlessRefused fun _ =>
    unlessRefused fun _ => ?_
  split
  · exact refl s
  · exact enterCalibrating ..

theorem triggerBody (s : State) (l : Level) (ops : List Int) : Tame s (Machine.triggerBody s l ops).state :=
  onSection _ _ _ _ fun i => ifPasses fun _ => modProfile s i (fun q => { q with cycleCount := 0 }) fun _ => id

theorem clearFaultBody (s : State) (l : Level) (ops : List Int) : Tame s (Machine.clearFaultBody s l ops).state := by
  refine onSection _ _ _ _ fun i => ?_
  split
  · exact refl s
  · exact enterPassing ..

theorem renumber (s : State) (ms : List RecId) : Tame s (s.renumber ms) := foldl _ (fun _ _ => modRec ..) _ _

theorem setMembers (s : State) (i : SecId) (ms : List RecId) : Tame s (s.setMembers i ms) := modSec _ _ _ fun _ => by exact id

theorem addMember (s : State) (i : SecId) (n : NodeId) (weight : Nat) (r : RecId) : Tame s (s.addMember i n weight r) := by
  unfold State.addMember
  exact (modRec ..).trans ((setMembers ..).trans (modDrive _ _ _ fun _ => by exact id))

theorem removeMember (s : State) (i : SecId) (n : NodeId) (r : RecId) : Tame s (s.removeMember i n r) := by
  unfold State.removeMember
  exact (setMembers ..).trans ((renumber ..).trans ((modRec ..).trans (modDrive _ _ _ fun _ => by exact id)))

theorem makeLead (s : State) (i : SecId) (r : RecId) : Tame s (s.makeLead i r) := (setMembers ..).trans (renumber ..)

theorem addMemberBody (s : State) (l : Level) (ops : List Int) : Tame s (Machine.addMemberBody s l ops).state := by
  unfold Machine.addMemberBody
  split
  · split
    · exact refl s
    · split
      · exact refl s
      · refine unlessRefused fun _ => unlessRefused fun _ => unlessRefused fun _ => unlessRefused fun _ => ?_
        split
        · exact refl s
        · exact addMember ..
  · exact refl s

theorem removeMemberBody (s : State) (l : Level) (ops : List Int) : Tame s (Machine.removeMemberBody s l ops).state :=
  onMember _ _ _ fun _ _ _ => removeMember ..

theorem makeLeadBody (s : State) (l : Level) (ops : List Int) : Tame s (Machine.makeLeadBody s l ops).state := by
  refine onMember _ _ _ fun i n r => ?_
  split
  · exact refl s
  · exact makeLead ..

theorem injectBody (s : State) (l : Level) (ops : List Int) : Tame s (Machine.injectBody s l ops).state := by
  unfold Machine.injectBody
  split
  · split
    · exact refl s
    · split
      · exact refl s
      · refine unlessRefused fun _ => unlessRefused fun _ => unlessRefused fun _ => unlessRefused fun _ => unlessRefused fun _ => ?_
        dsimp only [State.state_answerOk]
        exact takeFeedback ..
  · exact refl s

/-! ## RESTART and the permit line (R39, R170) -/

theorem restartWork (s : State) : Tame s s.restartWork := by
  have hsection (t : State) (i : SecId) : Tame t (t.restartSection i) := ite (fun _ => refl t) fun _ => enterPassing ..
  have hrecords (t : State) (i : SecId) : Tame t (t.restartRecords i) := by
    unfold State.restartRecords State.clearLimits
    exact (setLatch t i none).trans (modMonitor _ _ _ fun _ => by exact id)
  have hcursors (t : State) : Tame t { t with observeCursor := Cursor.powerOn, commissionCursor := Cursor.powerOn } :=
    ⟨rfl, id, fun _ => ⟨Cursor.exists_powerOn, Cursor.exists_powerOn⟩, id⟩
  have hcapture (t : State) : Tame t t.restartCapture := by
    unfold State.restartCapture
    exact modCapture _ _ rfl
  have hempty (t : State) : Tame t { t with events := [] } := quiet rfl rfl rfl
  have hevents (t : State) : Tame t t.restartEvents := (hempty t).trans (post ..)
  have hwatch (t : State) (w : WatchId) : Tame t (t.modWatch w WatchPoint.rewritten) := modWatch t w _ fun _ _ => Nat.zero_le _
  unfold State.restartWork
  dsimp only
  exact (forSections _ hsection s).trans <| (hcapture _).trans <| (hevents _).trans <| (hcursors _).trans <|
    (forSections _ hrecords _).trans <| foldl _ hwatch _ _

theorem placeStationFrame (s : State) : Tame s s.placeStationFrame := quiet rfl rfl rfl

theorem permitChange (s : State) (active : Bool) : Tame s (s.permitChange active) := by
  have hlost (t : State) (i : SecId) : Tame t (t.permitLost i) := by
    unfold State.permitLost
    split
    case h_4 => exact modSec _ _ _ fun _ => by exact id
    case h_5 => exact refl t
    case h_6 => exact refl t
    case h_7 => exact refl t
    all_goals exact enterReleasing ..
  have hpermit : Tame s { s with permit := active } := quiet rfl rfl rfl
  exact hpermit.trans ((ite (fun _ => refl _) fun _ => forSections _ hlost _).trans (post ..))

theorem intake (s : State) (f : ReturnFrame) : Tame s (s.intake f) := by
  unfold State.intake
  split
  · exact takeFeedback ..
  · exact refl s

end Tame

end Sys2Proof.Machine
end

section
/-! PROOFS. Queues, counts, cursors and the Capture Buffer stay within their bounds (R142, R154, R156, R166): tame work keeps them, and a frame
or request enters a queue only while there is room. -/

namespace Sys2Proof.Machine

/-- Queues, counts, cursors and the Capture Buffer are within their bounds. -/
structure WithinBounds (s : State) : Prop where
  queues : QueuesBounded s
  counts : CountsInRange s
  cursors : CursorsExist s
  buffer : BufferWithinBounds s

/-- The bounds of the queues speak of the queues alone. -/
theorem QueuesBounded.of_eq {s t : State} (h : t.queues = s.queues) (hs : QueuesBounded s) : QueuesBounded t := by
  simp only [State.queues, Prod.mk.injEq] at h
  obtain ⟨hrequests, hdown, hthrough, hreply⟩ := h
  unfold QueuesBounded
  rw [hrequests, hdown, hthrough, hreply]
  exact hs

namespace WithinBounds

/-- Tame work keeps the bounds. -/
theorem tame {s t : State} (hs : WithinBounds s) (h : Tame s t) : WithinBounds t :=
  ⟨hs.queues.of_eq h.queues, h.counts hs.counts, h.cursors hs.cursors, h.buffer hs.buffer⟩

/-- A change of the queues alone. -/
theorem of_queues {s t : State} (hs : WithinBounds s) (hq : QueuesBounded t) (ht : t.tallies = s.tallies)
    (hp : t.places = s.places) : WithinBounds t :=
  ⟨hq, .of_eq ht hs.counts, .of_eq hp hs.cursors, .of_eq hp hs.buffer⟩

/-- A branch. -/
theorem ite {c : Prop} [Decidable c] {a b : State} (ha : c → WithinBounds a) (hb : ¬ c → WithinBounds b) :
    WithinBounds (if c then a else b) := by
  split
  · exact ha ‹_›
  · exact hb ‹_›

/-- Every power-up ends within the bounds (R160). -/
theorem powerUp (s : State) (straps : BitVec 6) (permit : Bool) : WithinBounds (s.powerUp straps permit) where
  queues := ⟨Nat.zero_le _, Nat.zero_le _, Nat.zero_le _, Nat.zero_le _⟩
  counts := countsInRange_reset
  cursors := ⟨Cursor.exists_powerOn, Cursor.exists_powerOn⟩
  buffer := ⟨rfl, nofun, Nat.zero_le _, Nat.zero_lt_succ _, nofun, fun _ => rfl, nofun⟩

/-! ## Frames and requests enter a queue while there is room (R154, R156) -/

theorem forwardDown {s : State} (hs : WithinBounds s) (f : Frame) : WithinBounds (s.forwardDown f) := by
  obtain ⟨hrequests, hdown, hthrough, hreply⟩ := hs.queues
  refine ite (fun hroom => hs.of_queues ⟨hrequests, ?_, hthrough, hreply⟩ rfl rfl) fun _ => hs
  rw [List.length_append]
  exact hroom

theorem forwardUp {s : State} (hs : WithinBounds s) (f : Frame) : WithinBounds (s.forwardUp f) := by
  obtain ⟨hrequests, hdown, hthrough, hreply⟩ := hs.queues
  refine ite (fun hroom => hs.of_queues ⟨hrequests, hdown, ?_, hreply⟩ rfl rfl) fun _ => hs
  rw [List.length_append]
  exact hroom

theorem queueRequest {s : State} (hs : WithinBounds s) (f : RequestFrame) : WithinBounds (s.queueRequest f) := by
  obtain ⟨hrequests, hdown, hthrough, hreply⟩ := hs.queues
  refine ite (fun hroom => hs.of_queues ⟨?_, hdown, hthrough, hreply⟩ rfl rfl) fun _ => hs
  rw [List.length_append]
  exact hroom

theorem postReply {s : State} (hs : WithinBounds s) (hroom : s.replyQueue.length < 4) (tag : Byte) (c : ResultCode) (w : Bool)
    (d : List Int) : WithinBounds (s.postReply tag c w d) := by
  obtain ⟨hrequests, hdown, hthrough, hreply⟩ := hs.queues
  refine hs.of_queues ⟨hrequests, hdown, hthrough, ?_⟩ rfl rfl
  dsimp only [State.postReply]
  rw [List.length_append]
  exact hroom

/-! ## Frames and requests leave a queue from its head -/

theorem dropRequest {s : State} (hs : WithinBounds s) : WithinBounds s.dropRequest := by
  obtain ⟨hrequests, hrest⟩ := hs.queues
  exact hs.of_queues ⟨(List.tail_sublist _).length_le.trans hrequests, hrest⟩ rfl rfl

theorem sendUp {s : State} (hs : WithinBounds s) (x : UpPlace × ReadyFrame) : WithinBounds (s.sendUp x) := by
  obtain ⟨hrequests, hdown, hthrough, hreply⟩ := hs.queues
  obtain ⟨place, f⟩ := x
  cases place
  · exact hs.of_queues ⟨hrequests, hdown, (List.tail_sublist _).length_le.trans hthrough, hreply⟩ rfl rfl
  · exact hs.of_queues ⟨hrequests, hdown, hthrough, (List.tail_sublist _).length_le.trans hreply⟩ rfl rfl
  · exact hs.of_queues ⟨hrequests, hdown, hthrough, hreply⟩ rfl rfl

theorem arbitrate {s : State} (hs : WithinBounds s) : WithinBounds s.arbitrate := by
  have hdraw : WithinBounds { s with freeDraws := s.freeDraws + 1 } := hs.tame (.quiet rfl rfl rfl)
  unfold State.arbitrate
  split
  · exact hs
  · exact hs.sendUp _
  · exact hdraw.sendUp _

theorem sendDown {s : State} (hs : WithinBounds s) : WithinBounds s.sendDown := by
  obtain ⟨hrequests, hdown, hrest⟩ := hs.queues
  unfold State.sendDown
  split
  · exact hs
  · rename_i f fs hqueue
    rw [hqueue] at hdown
    exact hs.of_queues ⟨hrequests, Nat.le_of_succ_le hdown, hrest⟩ rfl rfl

/-! ## Requests (R161) -/

/-- After tame work on the state without its head request there is room for the reply. -/
theorem answer {s t : State} (hs : WithinBounds s) (hroom : s.replyQueue.length < 4) (h : Tame s.dropRequest t) (tag : Byte)
    (c : ResultCode) (w : Bool) (d : List Int) : WithinBounds (t.postReply tag c w d) := by
  refine (hs.dropRequest.tame h).postReply ?_ tag c w d
  have hreply : t.replyQueue = s.replyQueue := congrArg (fun q => q.2.2.2) h.queues
  rw [hreply]
  exact hroom

end WithinBounds

/-- A request is taken only while fewer than 4 replies wait (R161). -/
theorem State.room_of_headRequest {s : State} {r : RequestFrame} (h : s.headRequest = some r) : s.replyQueue.length < 4 := by
  unfold State.headRequest at h
  split at h
  · assumption
  · cases h

/-- A row's request is the head request (R161). -/
theorem State.room_of_requestFor {s : State} {code : Nat} {x : RequestFrame × Level} (h : s.requestFor code = some x) :
    s.replyQueue.length < 4 := by
  unfold State.requestFor at h
  split at h
  · cases h
  · exact State.room_of_headRequest ‹_›

namespace WithinBounds

theorem serve {s : State} (hs : WithinBounds s) (row : CommandRow) (body : State → Level → List Int → Answer)
    (hbody : ∀ (t : State) (l : Level) (ops : List Int), Tame t (body t l ops).state) : WithinBounds (s.serve row body) := by
  unfold State.serve
  split
  · exact hs
  · rename_i hrequest
    have hroom := State.room_of_requestFor hrequest
    dsimp only
    split
    · exact hs.answer hroom (.refl _) ..
    · exact hs.answer hroom (hbody ..) ..

/-! ## Every step -/

theorem dispatchWork {s : State} (hs : WithinBounds s) (f : DispatchFrame) : WithinBounds (s.dispatchWork f) := by
  rw [State.dispatchWork_eq]
  exact (((hs.tame (.requested s f)).forwardDown _).tame (.takeSweep ..)).tame (.placeStationFrame _)

/-- A command of a powered bridge. -/
theorem of_whenPowered {s t : State} {f : State → State} (hs : WithinBounds s) (h : s.whenPowered f = .next t)
    (hf : WithinBounds (f s)) : WithinBounds t := by
  cases h
  exact ite (fun _ => hf) fun _ => hs

/-- A row's command. -/
theorem of_serve {s t : State} {row : CommandRow} {body : State → Level → List Int → Answer} (hs : WithinBounds s)
    (h : s.whenPowered (fun s => s.serve row body) = .next t)
    (hbody : ∀ (u : State) (l : Level) (ops : List Int), Tame u (body u l ops).state) : WithinBounds t :=
  hs.of_whenPowered h (hs.serve row body hbody)

/-- Every command keeps the bounds. -/
theorem of_exec {c : Instr} {s t : State} (hs : WithinBounds s) (h : exec c s = .next t) : WithinBounds t := by
  cases c
  case powerOn straps permit => cases h; exact powerUp ..
  case resetLine straps permit =>
    simp only [exec, execResetLine] at h
    exact hs.of_whenPowered h (powerUp ..)
  case permitLineChange active =>
    simp only [exec, execPermitLineChange] at h
    exact hs.of_whenPowered h (ite (fun _ => hs) fun _ => hs.tame (.permitChange ..))
  case lineTimerExpiry =>
    simp only [exec, execLineTimerExpiry] at h
    have hexpired : Tame s { s with timer := .expired } := (.quiet rfl rfl rfl)
    refine hs.of_whenPowered h (ite (fun _ => hs.tame (hexpired.trans ?_)) fun _ => hs)
    exact .forSections _ (fun t i => .faultCondition t i .lineLost none none) _
  case dispatch f =>
    simp only [exec, execDispatch] at h
    exact hs.of_whenPowered h (ite (fun _ => hs.dispatchWork f) fun _ => hs)
  case returnFrame f =>
    simp only [exec, execReturnFrame] at h
    exact hs.of_whenPowered h ((hs.forwardUp _).tame (.intake ..))
  case serviceRequest f =>
    simp only [exec, execServiceRequest] at h
    exact hs.of_whenPowered h (ite (fun _ => ite (fun _ => hs.queueRequest f) fun _ => hs.forwardDown _) fun _ => hs)
  case otherStationFrame f =>
    simp only [exec, execOtherStationFrame] at h
    exact hs.of_whenPowered h (ite (fun _ => hs.forwardUp _) fun _ => hs)
  case badFrame => cases h; exact hs
  case upstreamSend =>
    simp only [exec, execUpstreamSend] at h
    exact hs.of_whenPowered h hs.arbitrate
  case downstreamSend =>
    simp only [exec, execDownstreamSend] at h
    exact hs.of_whenPowered h hs.sendDown
  case powerLoss =>
    simp only [exec, execPowerLoss] at h
    exact hs.of_whenPowered h (hs.tame (.quiet rfl rfl rfl))
  case restart =>
    simp only [exec, execRestart] at h
    refine hs.of_whenPowered h ?_
    split
    · exact hs
    · rename_i hrequest
      have hroom := State.room_of_requestFor hrequest
      split
      · exact hs.answer hroom (.refl _) ..
      · exact (hs.answer hroom (.refl _) ..).tame (.restartWork _)
  case unknownCommandCode =>
    simp only [exec, execUnknownCommandCode] at h
    refine hs.of_whenPowered h ?_
    split
    · exact hs
    · rename_i hrequest
      exact ite (fun _ => hs) fun _ => hs.answer (State.room_of_headRequest hrequest) (.refl _) ..
  case read => exact hs.of_serve h .readBody
  case write => exact hs.of_serve h .writeBody
  case readIndexed => exact hs.of_serve h .readIndexedBody
  case setCursor => exact hs.of_serve h .setCursorBody
  case readNext => exact hs.of_serve h .readNextBody
  case writeNext => exact hs.of_serve h .writeNextBody
  case readEvents => exact hs.of_serve h .readEventsBody
  case peekEvents => exact hs.of_serve h .peekEventsBody
  case select => exact hs.of_serve h .selectBody
  case deselect => exact hs.of_serve h .deselectBody
  case start => exact hs.of_serve h .startBody
  case freeze => exact hs.of_serve h .freezeBody
  case continueTrial => exact hs.of_serve h .continueBody
  case stepRun => exact hs.of_serve h .stepBody
  case stopTrial => exact hs.of_serve h .stopBody
  case abort => exact hs.of_serve h .abortBody
  case calibrate => exact hs.of_serve h .calibrateBody
  case trigger => exact hs.of_serve h .triggerBody
  case clearFault => exact hs.of_serve h .clearFaultBody
  case addMember => exact hs.of_serve h .addMemberBody
  case removeMember => exact hs.of_serve h .removeMemberBody
  case makeLead => exact hs.of_serve h .makeLeadBody
  case injectFeedback => exact hs.of_serve h .injectBody
  case latchSnapshot => exact hs.of_serve h .latchBody
  case readSnapshot => exact hs.of_serve h .readSnapshotBody
  case captureStart => exact hs.of_serve h .captureStartBody
  case captureStop => exact hs.of_serve h .captureStopBody
  case triggerCapture => exact hs.of_serve h .triggerCaptureBody

end WithinBounds

/-- Settles O60: every command but the queueing, taking and sending of frames and requests is tame, and those keep the queues within their
sizes. -/
theorem queuesCountsCursorsAndBufferStayBounded : Obligations.QueuesCountsCursorsAndBufferStayBounded := by
  unfold Obligations.QueuesCountsCursorsAndBufferStayBounded KeptByStep
  rintro s t ⟨hqueues, hcounts, hcursors, hbuffer⟩ ht
  have hs : WithinBounds s := ⟨hqueues, hcounts, hcursors, hbuffer⟩
  suffices hkept : WithinBounds t from ⟨hkept.queues, hkept.counts, hkept.cursors, hkept.buffer⟩
  unfold step at ht
  split at ht
  · cases ht; exact hs
  · rename_i c rest _
    have hrest : WithinBounds { s with pending := rest } := hs.tame (.quiet rfl rfl rfl)
    exact hrest.of_exec ht

end Sys2Proof.Machine
end

section
/-! SUPPORT. What the issue of one candidate to every member of a section leaves behind, with the issue base that follows it: the records, the
section, the rewrites and the CLAMP events (R52, R54, R55, R56). -/

namespace Sys2Proof.Machine

/-! ## One candidate for every member -/

/-- Candidates formed beforehand, one for every record of a list: each record of the list holds its own, named twice or once (R54). -/
theorem State.member_issueEach {c : RecId → Candidate} (hc : ∀ r, (c r).record = r) (i : SecId) (q : RecId) :
    ∀ (rs : List RecId) (s : State), (s.issueAll i (rs.map c)).member q =
      if q ∈ rs then { s.member q with issued := (c q).issued.value, clamp := (c q).issued.mark } else s.member q
  | [], s => (if_neg List.not_mem_nil).symm
  | r :: rs, s => by
    have hstep : s.issueAll i ((r :: rs).map c) = (s.issue i (c r)).issueAll i (rs.map c) := rfl
    rw [hstep, State.member_issueEach hc i q rs, State.member_issue, hc]
    by_cases hq : q = r
    · subst hq
      simp
    · simp [hq]

/-- The references of section i by one formula, and the issue base of this dispatch (R52 steps 5 and 6). -/
def State.issuing (s : State) (i : SecId) (c : RecId → Candidate) : State :=
  (s.issueAll i ((s.members i).map c)).setIssueBase i

/-- The records after the references by a formula. -/
theorem State.member_issuing {c : RecId → Candidate} (hc : ∀ r, (c r).record = r) (s : State) (i : SecId) (q : RecId) :
    (s.issuing i c).member q = if q ∈ s.members i then
      { s.member q with issued := (c q).issued.value, clamp := (c q).issued.mark } else s.member q := by
  unfold State.issuing State.setIssueBase
  rw [State.member_modSec, State.member_issueEach hc]

/-- The section after its references holds the line reference as its base, and the others are as before. -/
theorem State.sec_issuing (s : State) (i : SecId) (c : RecId → Candidate) :
    (s.issuing i c).sec i = { s.sec i with issueBase := (s.sec i).lineReference } ∧
      ∀ j, j ≠ i → (s.issuing i c).sec j = s.sec j := by
  have hsec (j : SecId) : (s.issueAll i ((s.members i).map c)).sec j = s.sec j :=
    State.sec_of_eq (congrArg State.sections (State.issueAll_frame ..) :) j
  unfold State.issuing State.setIssueBase
  exact ⟨by rw [State.sec_modSec_self, hsec], fun j hj => (State.sec_modSec_ne _ hj _).trans (hsec j)⟩

/-- References change sections, records and events alone. -/
theorem State.issuing_frame (s : State) (i : SecId) (c : RecId → Candidate) : s.issuing i c = { s with
    sections := (s.issuing i c).sections, pool := (s.issuing i c).pool, events := (s.issuing i c).events
    nextSequence := (s.issuing i c).nextSequence } := by
  unfold State.issuing State.setIssueBase State.modSec
  rw [State.issueAll_frame]

/-- The rewrites of the members after their references (R56). -/
theorem State.rewritesOf_issuing {c : RecId → Candidate} (hc : ∀ r, (c r).record = r) (s : State) (i : SecId) :
    (s.issuing i c).rewritesOf i = (s.members i).map fun r =>
      ⟨s.memberNode r, BitVec.ofInt 24 ((s.memberDirection r).sign * ((s.issuing i c).member r).issued)⟩ := by
  refine State.rewritesOf_eq (congrArg Section.members (s.sec_issuing i c).1 :) (fun r hr => ?_)
    (congrArg State.drives (s.issuing_frame i c) :)
  rw [State.member_issuing hc, if_pos hr]

/-- The CLAMP events of an issue that starts in a state y, whose members carry the clamp flags, nodes and positions that they have in s, with
the events of u (R55). -/
theorem ClampsPosted.of_issueEach {s u y t : State} {i : SecId} {c : RecId → Candidate} (hc : ∀ r, (c r).record = r)
    (hmembers : y.members i = s.members i) (hn : (s.members i).Nodup)
    (hkept : ∀ r ∈ s.members i, (y.member r).clamp = (s.member r).clamp ∧ (y.member r).node = (s.member r).node ∧
      (y.member r).position = (s.member r).position)
    (hcycle : y.cycle = s.cycle) (hevents : y.events = u.events) (hnext : y.nextSequence = u.nextSequence)
    (ht : t.events = (y.issueAll i ((y.members i).map c)).events ∧
      t.nextSequence = (y.issueAll i ((y.members i).map c)).nextSequence)
    (hmark : ∀ r ∈ s.members i, (t.member r).clamp = (c r).issued.mark) {value : RecId → Int}
    (hvalue : ∀ r ∈ s.members i, (c r).unclamped = value r) : ClampsPosted s u t i value := by
  have hrecords : ((s.members i).map c).map Candidate.record = s.members i := by
    rw [List.map_map]
    exact (List.map_congr_left fun r _ => hc r).trans (List.map_id _)
  have hcandidate {P : Candidate → Prop} (h : ∀ r ∈ s.members i, P (c r)) : ∀ d ∈ (s.members i).map c, P d := fun d hd => by
    obtain ⟨r, hr, rfl⟩ := List.mem_map.1 hd
    exact h r hr
  rw [hmembers] at ht
  refine ClampsPosted.of_issueAll s u y t i _ hrecords hn (hcandidate fun r hr => ?_) hcycle hevents hnext ht
    (hcandidate fun r hr => ?_) value (hcandidate fun r hr => ?_)
  · rw [hc]; exact hkept r hr
  · rw [hc]; exact hmark r hr
  · rw [hc]; exact hvalue r hr

/-- The CLAMP events of a section's references (R55). -/
theorem State.issuing_clamps {s : State} (hm : MembersConsistent s) (i : SecId) {c : RecId → Candidate} (hc : ∀ r, (c r).record = r) :
    ClampsPosted s s (s.issuing i c) i fun r => (c r).unclamped :=
  .of_issueEach (t := s.issuing i c) hc rfl (hm.nodup i) (fun _ _ => ⟨rfl, rfl, rfl⟩) rfl rfl rfl ⟨rfl, rfl⟩
    (fun r hr => by rw [State.member_issuing hc, if_pos hr]) fun _ _ => rfl

end Sys2Proof.Machine
end

section
/-! PROOFS. The references of FROZEN, CALIBRATING and the passing states (R54 to R61). -/

namespace Sys2Proof.Machine

/-! ## FROZEN and CALIBRATING (R58, R60) -/

/-- A section in FROZEN issues B + O. -/
theorem Formed.takeSection_frozen (entries : List Entry) {s : State} {i : SecId} (h : (s.sec i).state = .frozen) (ws : List Rewrite)
    (ks : List (WatchId × Nat)) : Formed.takeSection entries ⟨s, ws, ks⟩ i =
      ⟨s.issuing i (s.offsetCandidate i), ws ++ (s.issuing i (s.offsetCandidate i)).rewritesOf i, ks⟩ := by
  unfold Formed.takeSection
  dsimp only
  rw [h]
  rfl

/-- A section in CALIBRATING issues the set point. -/
theorem Formed.takeSection_calibrating (entries : List Entry) {s : State} {i : SecId} (h : (s.sec i).state = .calibrating)
    (ws : List Rewrite) (ks : List (WatchId × Nat)) : Formed.takeSection entries ⟨s, ws, ks⟩ i =
      ⟨s.issuing i (s.setPointCandidate i), ws ++ (s.issuing i (s.setPointCandidate i)).rewritesOf i, ks⟩ := by
  unfold Formed.takeSection
  dsimp only
  rw [h]
  rfl

/-- The set point is the high speed from the second settling on, and the low one before it (R60). -/
theorem State.setPoint_eq (s : State) (i : SecId) : s.setPoint i =
    if s.engine.phase = some .settleHigh ∨ s.engine.phase = some .sampleHigh ∨ s.engine.phase = some .compute
      then (s.sec i).cfg.calHigh else (s.sec i).cfg.calLow := by
  unfold State.setPoint
  split <;> simp_all

/-! ## The passing states (R61) -/

/-- The line's value for the node of record r, divided by its direction, where the frame has an entry for it (R61). -/
def State.lineValue (s : State) (entries : List Entry) (r : RecId) : Option Int :=
  (firstEntry entries (s.memberNode r)).map fun e => relativeSpeed (s.memberDirection r) e.speed

/-- The line's value, in the words of the statement. -/
theorem State.lineValue_eq (s : State) (entries : List Entry) (r : RecId) : s.lineValue entries r =
    (firstEntry entries (s.memberNode r)).map fun e => clampTo (-8388608) 8388607 ((s.memberDirection r).sign * e.speed.toInt) := by
  unfold State.lineValue relativeSpeed
  simp only [Direction.sign_mul]

/-- One member of a passing section records its line value. -/
def State.recordMember (s : State) (entries : List Entry) (t : State) (r : RecId) : State :=
  match s.lineValue entries r with
  | some v => t.modRec r fun x => { x with issued := v }
  | none => t

/-- The members of a passing section record their line values one after the other. -/
theorem State.recordLine_eq (entries : List Entry) (s : State) (i : SecId) :
    s.recordLine entries i = (s.members i).foldl (s.recordMember entries) s := by
  unfold State.recordLine
  congr 1
  funext t r
  unfold State.recordMember State.lineValue
  cases firstEntry entries (s.memberNode r) <;> rfl

/-- The records after the line values of a list of members. -/
theorem State.member_recordEach (entries : List Entry) (s : State) (q : RecId) : ∀ (rs : List RecId) (t : State),
    (rs.foldl (s.recordMember entries) t).member q =
      if q ∈ rs then { t.member q with issued := (s.lineValue entries q).getD (t.member q).issued } else t.member q
  | [], t => (if_neg List.not_mem_nil).symm
  | r :: rs, t => by
    rw [List.foldl_cons, State.member_recordEach entries s q rs]
    unfold State.recordMember
    by_cases hq : q = r
    · subst hq
      cases s.lineValue entries q <;> simp [State.member_modRec]
    · cases s.lineValue entries r <;> simp [State.member_modRec, hq]

/-- Recording the line changes records alone. -/
theorem State.recordEach_frame (entries : List Entry) (s : State) : ∀ (rs : List RecId) (t : State),
    rs.foldl (s.recordMember entries) t = { t with pool := (rs.foldl (s.recordMember entries) t).pool }
  | [], _ => rfl
  | r :: rs, t => by
    rw [List.foldl_cons, State.recordEach_frame entries s rs]
    unfold State.recordMember
    cases s.lineValue entries r <;> rfl

/-- A section in BYPASS, SELECTED or FAULTED records the line and writes nothing. -/
theorem Formed.takeSection_passing (entries : List Entry) {s : State} {i : SecId} (h : (s.sec i).state.rewriting = false)
    (ws : List Rewrite) (ks : List (WatchId × Nat)) :
    Formed.takeSection entries ⟨s, ws, ks⟩ i = ⟨(s.recordLine entries i).setIssueBase i, ws, ks⟩ := by
  unfold Formed.takeSection
  dsimp only
  generalize (s.sec i).state = st at h
  cases st
  case bypass => rfl
  case selected => rfl
  case faulted => rfl
  all_goals cases h

/-- The section after its line was recorded holds the line reference as its base. -/
theorem State.sec_recorded (entries : List Entry) (s : State) (i : SecId) :
    ((s.recordLine entries i).setIssueBase i).sec i = { s.sec i with issueBase := (s.sec i).lineReference } := by
  have hsec : (s.recordLine entries i).sec i = s.sec i := by
    rw [State.recordLine_eq]
    exact State.sec_of_eq (congrArg State.sections (State.recordEach_frame ..) :) i
  unfold State.setIssueBase
  rw [State.sec_modSec_self, hsec]

/-- The states that are neither TRIAL nor RELEASING. -/
theorem SectionState.issues_or_passes {st : SectionState} (htrial : st ≠ .trial) (hreleasing : st ≠ .releasing) :
    st = .frozen ∨ st = .calibrating ∨ st.rewriting = false := by
  cases st
  case trial => exact absurd rfl htrial
  case releasing => exact absurd rfl hreleasing
  case frozen => exact .inl rfl
  case calibrating => exact .inr (.inl rfl)
  all_goals exact .inr (.inr rfl)

/-! ## The statement -/

/-- Settles O15: by the state that the section is found in. -/
theorem otherStatesIssueTheirReferences : Obligations.OtherStatesIssueTheirReferences := by
  unfold Obligations.OtherStatesIssueTheirReferences
  intro s i entries ws ks x a t issues
  have hissues {c : RecId → Candidate} {value : RecId → Int} (hc : ∀ r, (c r).record = r) (hunclamped : ∀ r, (c r).unclamped = value r)
      (hissued : ∀ r, (c r).issued = absoluteClamp x.cfg.absoluteLimit ⟨value r, .none⟩)
      (ha : a = ⟨s.issuing i c, ws ++ (s.issuing i c).rewritesOf i, ks⟩) : issues value := by
    have ht : t = s.issuing i c := congrArg Formed.state ha
    refine ⟨fun r hr => ?_, fun r hr => ?_, ?_, fun hm => ?_⟩
    · rw [ht, State.member_issuing hc, if_pos hr, hissued, absoluteClamp_unmarked]
    · rw [ht, State.member_issuing hc, if_neg hr]
    · rw [ht, ha, State.rewritesOf_issuing hc]
    · rw [ht, ← (funext hunclamped : (fun r => (c r).unclamped) = value)]
      exact State.issuing_clamps hm i hc
  refine ⟨fun hx => ?_, fun hx => ?_, fun hx => ?_, fun hreleasing htrial => ?_⟩
  · exact hissues (fun _ => rfl) (fun _ => rfl) (fun _ => rfl) (Formed.takeSection_frozen entries hx ws ks)
  · refine hissues (c := s.setPointCandidate i) (fun _ => rfl) (fun _ => State.setPoint_eq s i) (fun _ => ?_)
      (Formed.takeSection_calibrating entries hx ws ks)
    unfold State.setPointCandidate
    rw [State.setPoint_eq]
  · have ha : a = _ := Formed.takeSection_passing entries hx ws ks
    refine ⟨congrArg Formed.rewrites ha, fun r hr => ?_⟩
    have ht : t = _ := congrArg Formed.state ha
    rw [ht, State.setIssueBase, State.member_modSec, State.recordLine_eq, State.member_recordEach, if_pos hr, State.lineValue_eq]
    cases firstEntry entries (s.memberNode r) <;> rfl
  · have hissued {c : RecId → Candidate} (ha : a = ⟨s.issuing i c, ws ++ (s.issuing i c).rewritesOf i, ks⟩) :
        t.sec i = { x with issueBase := x.lineReference } ∧ a.skips = ks :=
      ⟨(congrArg (fun b => b.state.sec i) ha).trans (s.sec_issuing i c).1, congrArg Formed.skips ha⟩
    have hpassed (hx : x.state.rewriting = false) : t.sec i = { x with issueBase := x.lineReference } ∧ a.skips = ks := by
      have ha : a = _ := Formed.takeSection_passing entries hx ws ks
      exact ⟨(congrArg (fun b => b.state.sec i) ha).trans (State.sec_recorded entries s i), congrArg Formed.skips ha⟩
    rcases SectionState.issues_or_passes htrial hreleasing with hx | hx | hx
    · exact hissued (Formed.takeSection_frozen entries hx ws ks)
    · exact hissued (Formed.takeSection_calibrating entries hx ws ks)
    · exact hpassed hx

end Sys2Proof.Machine
end

section
/-! PROOFS. The references of a TRIAL section: the stop test over ISSUED values, the TRIAL issue, and the hit and freeze of a stop (R30, R53,
R54, R57, R58, R62, R133, R135). -/

namespace Sys2Proof.Machine

/-! ## What a point stops on (R133, R135) -/

/-- Point w on field f stops on value v at entry number k of record r, whose candidate has this value. -/
def State.StopsAt (s : State) (entries : List Entry) (value : RecId → Int) (f : WatchField) (r : RecId) (k : Nat) (w : WatchId)
    (v : Int) : Prop :=
  let p := s.watch w
  p.action = .stopOnMatch ∧ (s.member r).node = some p.node ∧ p.field = f ∧ (p.source = .any ∨ p.source = .only .issued) ∧
    (∃ e, entries[k]? = some e ∧ e.node.toNat = p.node.val + 1 ∧
      (f = .reference ∧ v = value r ∨ f = .command ∧ v = e.command.code)) ∧
    ((p.mode = .equal ∧ v = p.value) ∨ (p.mode = .above ∧ p.value < v) ∨ (p.mode = .below ∧ v < p.value))

/-- An entry of a member presents its candidate to REFERENCE points and its command to COMMAND points (R130). -/
theorem presented_issued (x y : Int) (f : WatchField) (v : Int) :
    presented [(.reference, x), (.command, y)] f = some v ↔ f = .reference ∧ v = x ∨ f = .command ∧ v = y := by
  cases f <;> simp [presented, eq_comm]

/-- A point matches at an entry of a member where its action, node, field and source are those of the test and its comparison holds. -/
theorem State.issuedMatch_iff (s : State) (f : WatchField) (c : Candidate) (e : Entry) (w : WatchId) (v : Int) :
    s.issuedMatch f c e w = some v ↔
      ((s.watch w).action = .stopOnMatch ∧ (s.watch w).node = s.memberNode c.record ∧ (s.watch w).field = f ∧
        ((s.watch w).source = .any ∨ (s.watch w).source = .only .issued)) ∧
      (f = .reference ∧ v = c.issued.value ∨ f = .command ∧ v = e.command.code) ∧ (s.watch w).mode.holds v (s.watch w).value = true := by
  have hstops : (s.watch w).stopsIssued (s.memberNode c.record) f = true ↔
      (s.watch w).action = .stopOnMatch ∧ (s.watch w).node = s.memberNode c.record ∧ (s.watch w).field = f ∧
        ((s.watch w).source = .any ∨ (s.watch w).source = .only .issued) := by
    unfold WatchPoint.stopsIssued
    simp only [Bool.and_eq_true, decide_eq_true_eq, WatchSource.accepts_iff, and_assoc]
  unfold State.issuedMatch
  dsimp only
  rw [← hstops]
  split
  · next h => rw [Option.filter_eq_some_iff, presented_issued]; exact (and_iff_right h).symm
  · next h => exact ⟨nofun, fun hm => absurd hm.1 h⟩

/-- The matches of the test at a member's entries are the stops. -/
theorem State.matchesAt_iff {s : State} (hm : MembersConsistent s) {i : SecId} {r : RecId} (hr : r ∈ s.members i) {c : Candidate}
    (hc : c.record = r) {value : RecId → Int} (hvalue : c.issued.value = value r) (f : WatchField) (entries : List Entry) (k : Nat)
    (w : WatchId) (v : Int) : s.MatchesAt f entries c k w v ↔ s.StopsAt entries value f r k w v := by
  obtain ⟨hnode, _, _⟩ := hm.facts hr
  unfold State.MatchesAt State.StopsAt
  simp only [State.issuedMatch_iff, CompareMode.holds_iff, hc, hvalue, hnode, Option.some.injEq]
  constructor
  · rintro ⟨e, hk, he, ⟨haction, hpoint, hfield, hsource⟩, hshown, hholds⟩
    exact ⟨haction, hpoint.symm, hfield, hsource, ⟨e, hk, hpoint ▸ he, hshown⟩, hholds⟩
  · rintro ⟨haction, hpoint, hfield, hsource, ⟨e, hk, he, hshown⟩, hholds⟩
    exact ⟨e, hk, hpoint ▸ he, ⟨haction, hpoint.symm, hfield, hsource⟩, hshown, hholds⟩

/-- The point of a stop has a stop action. -/
theorem State.StopsAt.stops {s : State} {entries : List Entry} {value : RecId → Int} {f : WatchField} {r : RecId} {k : Nat} {w : WatchId}
    {v : Int} (h : s.StopsAt entries value f r k w v) : (s.watch w).action.stops = true := by
  obtain ⟨haction, _⟩ := h
  rw [haction]
  rfl

/-- The point of a stop is on the member's node. -/
theorem State.StopsAt.node {s : State} {entries : List Entry} {value : RecId → Int} {f : WatchField} {r : RecId} {k : Nat} {w : WatchId}
    {v : Int} (h : s.StopsAt entries value f r k w v) : (s.member r).node = some (s.watch w).node := h.2.1

/-- A stop is on a REFERENCE or a COMMAND point. -/
theorem State.StopsAt.field {s : State} {entries : List Entry} {value : RecId → Int} {f : WatchField} {r : RecId} {k : Nat} {w : WatchId}
    {v : Int} (h : s.StopsAt entries value f r k w v) : f = .reference ∨ f = .command := by
  obtain ⟨_, _, _, _, ⟨e, _, _, hshown⟩, _⟩ := h
  exact hshown.imp And.left And.left

/-! ## The stop test of a TRIAL section (R135) -/

/-- The TRIAL reference of a member before its clamps (R53). -/
def State.trialValue (s : State) (i : SecId) (r : RecId) : Int := (s.sec i).trialSum (s.member r).trim

/-- The TRIAL reference of a member after both clamps, with the mark of the last that acted (R53, R54). -/
theorem State.trialCandidate_issued (s : State) (i : SecId) (r : RecId) :
    let x := s.sec i
    let lo := x.lineReference - x.cfg.trimWindow
    let hi := x.lineReference + x.cfg.trimWindow
    let sum := s.trialValue i r
    let A := x.cfg.absoluteLimit
    (s.trialCandidate i r).issued = ⟨clampTo (-A) A (clampTo lo hi sum),
      if clampTo lo hi sum < -A then .low else if A < clampTo lo hi sum then .high
      else if sum < lo then .low else if hi < sum then .high else .none⟩ :=
  absoluteClamp_clamp ..

/-- The candidates of a TRIAL section. -/
def State.trialCandidates (s : State) (i : SecId) : List Candidate := (s.members i).map (s.trialCandidate i)

section StopTest

variable {s : State} {i : SecId} {entries : List Entry}

/-- The stop that one pass of the test meets at a member. -/
theorem State.trialMatches_iff (hm : MembersConsistent s) {r : RecId} (hr : r ∈ s.members i) (f : WatchField) (k : Nat) (w : WatchId)
    (v : Int) : s.MatchesAt f entries (s.trialCandidate i r) k w v ↔
      s.StopsAt entries (fun q => (s.trialCandidate i q).issued.value) f r k w v :=
  State.matchesAt_iff hm hr rfl rfl f entries k w v

/-- A pass without a stop finds nothing. -/
theorem State.trialPass_none (hm : MembersConsistent s) {f : WatchField}
    (h : ∀ r ∈ s.members i, ∀ k w v, ¬ s.StopsAt entries (fun q => (s.trialCandidate i q).issued.value) f r k w v) :
    s.stopPass f entries (s.trialCandidates i) = none := by
  refine (s.stopPass_none f entries _).2 fun c hc k w v hmatch => ?_
  obtain ⟨r, hr, rfl⟩ := List.mem_map.1 hc
  exact h r hr k w v ((State.trialMatches_iff hm hr f k w v).1 hmatch)

/-- Without a stop the test finds nothing. -/
theorem State.trialTest_none (hm : MembersConsistent s)
    (h : ∀ f, ∀ r ∈ s.members i, ∀ k w v, ¬ s.StopsAt entries (fun q => (s.trialCandidate i q).issued.value) f r k w v) :
    s.stopTest entries (s.trialCandidates i) = none := by
  rw [State.stopTest_command _ _ _ (State.trialPass_none hm (h .reference)), State.trialPass_none hm (h .command)]

/-- A pass finds the first stop in the order of members, entries and points. -/
theorem State.trialPass_first (hm : MembersConsistent s) {f : WatchField} {m : Nat} {r : RecId} {k : Nat} {w : WatchId} {v : Int}
    (hr : (s.members i)[m]? = some r) (h : s.StopsAt entries (fun q => (s.trialCandidate i q).issued.value) f r k w v)
    (hw : ∀ w' v', w' < w → ¬ s.StopsAt entries (fun q => (s.trialCandidate i q).issued.value) f r k w' v')
    (hk : ∀ k' w' v', k' < k → ¬ s.StopsAt entries (fun q => (s.trialCandidate i q).issued.value) f r k' w' v')
    (hbefore : ∀ (j : Nat) (q : RecId), j < m → (s.members i)[j]? = some q →
      ∀ k' w' v', ¬ s.StopsAt entries (fun q => (s.trialCandidate i q).issued.value) f q k' w' v') :
    s.stopPass f entries (s.trialCandidates i) = some ⟨w, k, r, v⟩ := by
  have hmem := List.mem_of_getElem? hr
  refine s.stopPass_first f entries (s.trialCandidates i) m (s.trialCandidate i r) k w v
    (by unfold State.trialCandidates; rw [List.getElem?_map, hr]; rfl) ((State.trialMatches_iff hm hmem ..).2 h)
    (fun w' v' hlt => mt (State.trialMatches_iff hm hmem ..).1 (hw w' v' hlt))
    (fun k' w' v' hlt => mt (State.trialMatches_iff hm hmem ..).1 (hk k' w' v' hlt)) fun j d hj hd k' w' v' => ?_
  unfold State.trialCandidates at hd
  rw [List.getElem?_map] at hd
  obtain ⟨q, hq, rfl⟩ := Option.map_eq_some_iff.1 hd
  exact mt (State.trialMatches_iff hm (List.mem_of_getElem? hq) ..).1 (hbefore j q hj hq k' w' v')

/-- The test finds the first REFERENCE stop, and where there is none the first COMMAND stop. -/
theorem State.trialTest_first (hm : MembersConsistent s) {f : WatchField} {m : Nat} {r : RecId} {k : Nat} {w : WatchId} {v : Int}
    (hr : (s.members i)[m]? = some r) (h : s.StopsAt entries (fun q => (s.trialCandidate i q).issued.value) f r k w v)
    (hw : ∀ w' v', w' < w → ¬ s.StopsAt entries (fun q => (s.trialCandidate i q).issued.value) f r k w' v')
    (hk : ∀ k' w' v', k' < k → ¬ s.StopsAt entries (fun q => (s.trialCandidate i q).issued.value) f r k' w' v')
    (hbefore : ∀ (j : Nat) (q : RecId), j < m → (s.members i)[j]? = some q →
      ∀ k' w' v', ¬ s.StopsAt entries (fun q => (s.trialCandidate i q).issued.value) f q k' w' v')
    (hreference : f = .command → ∀ q ∈ s.members i, ∀ k' w' v',
      ¬ s.StopsAt entries (fun q => (s.trialCandidate i q).issued.value) .reference q k' w' v') :
    s.stopTest entries (s.trialCandidates i) = some ⟨w, k, r, v⟩ := by
  have hpass := State.trialPass_first hm hr h hw hk hbefore
  rcases h.field with rfl | rfl
  · exact s.stopTest_reference entries _ _ hpass
  · rw [State.stopTest_command _ _ _ (State.trialPass_none hm (hreference rfl)), hpass]

/-- What the test finds is a stop at a member. -/
theorem State.trialTest_some (hm : MembersConsistent s) {stop : IssuedStop}
    (h : s.stopTest entries (s.trialCandidates i) = some stop) : ∃ f, ∃ r ∈ s.members i, ∃ k w v,
      s.StopsAt entries (fun q => (s.trialCandidate i q).issued.value) f r k w v ∧ stop = ⟨w, k, r, v⟩ := by
  have hpass {f : WatchField} (hf : s.stopPass f entries (s.trialCandidates i) = some stop) : ∃ r ∈ s.members i, ∃ k w v,
      s.StopsAt entries (fun q => (s.trialCandidate i q).issued.value) f r k w v ∧ stop = ⟨w, k, r, v⟩ := by
    obtain ⟨m, c, k, w, v, hc, hmatch, _, _, _, hstop⟩ := s.stopPass_some f entries _ stop hf
    obtain ⟨r, hr, rfl⟩ := List.mem_map.1 (List.mem_of_getElem? hc)
    exact ⟨r, hr, k, w, v, (State.trialMatches_iff hm hr f k w v).1 hmatch, hstop⟩
  unfold State.stopTest at h
  rcases Option.or_eq_some_iff.1 h with hreference | ⟨_, hcommand⟩
  · exact ⟨_, hpass hreference⟩
  · exact ⟨_, hpass hcommand⟩

end StopTest

/-! ## The TRIAL issue (R30, R53) -/

/-- A TRIAL section after its references, its start-pending mark cleared. -/
def State.trialIssued (s : State) (i : SecId) : State :=
  (s.issuing i (s.trialCandidate i)).modSec i fun x => { x with startPending := false }

/-- Without a stop a TRIAL section issues its candidates. -/
theorem Formed.takeSection_trial (entries : List Entry) {s : State} {i : SecId} (h : (s.sec i).state = .trial)
    (hnone : s.stopTest entries (s.trialCandidates i) = none) (ws : List Rewrite) (ks : List (WatchId × Nat)) :
    Formed.takeSection entries ⟨s, ws, ks⟩ i = ⟨s.trialIssued i, ws ++ (s.trialIssued i).rewritesOf i, ks⟩ := by
  have hform : s.formTrial entries i =
      ((s.issueAll i (s.trialCandidates i)).modSec i fun x => { x with startPending := false }, []) := by
    unfold State.formTrial
    dsimp only
    rw [show s.stopTest entries ((s.members i).map (s.trialCandidate i)) = none from hnone]
    rfl
  have hissued : (s.formTrial entries i).1.setIssueBase i = s.trialIssued i := by
    rw [hform]
    unfold State.trialIssued State.issuing State.setIssueBase
    rw [State.modSec_modSec, State.modSec_modSec]
    rfl
  unfold Formed.takeSection
  dsimp only
  rw [h]
  dsimp only
  rw [hissued, hform, List.append_nil]

/-- The records after the TRIAL issue. -/
theorem State.member_trialIssued (s : State) (i : SecId) (q : RecId) : (s.trialIssued i).member q =
    if q ∈ s.members i then { s.member q with
      issued := (s.trialCandidate i q).issued.value, clamp := (s.trialCandidate i q).issued.mark } else s.member q := by
  unfold State.trialIssued
  rw [State.member_modSec, State.member_issuing fun _ => rfl]

/-- The section after the TRIAL issue. -/
theorem State.sec_trialIssued (s : State) (i : SecId) :
    (s.trialIssued i).sec i = { s.sec i with startPending := false, issueBase := (s.sec i).lineReference } := by
  unfold State.trialIssued
  rw [State.sec_modSec_self, (s.sec_issuing i _).1]

/-- The TRIAL issue changes sections, records and events alone. -/
theorem State.trialIssued_frame (s : State) (i : SecId) : s.trialIssued i = { s with
    sections := (s.trialIssued i).sections, pool := (s.trialIssued i).pool, events := (s.trialIssued i).events
    nextSequence := (s.trialIssued i).nextSequence } := by
  unfold State.trialIssued State.modSec
  rw [State.issuing_frame]

/-- The CLAMP events of the TRIAL issue (R55). -/
theorem State.trialIssued_clamps {s : State} (hm : MembersConsistent s) (i : SecId) :
    ClampsPosted s s (s.trialIssued i) i (s.trialValue i) :=
  .of_issueEach (c := s.trialCandidate i) (t := s.trialIssued i) (fun _ => rfl) rfl (hm.nodup i) (fun _ _ => ⟨rfl, rfl, rfl⟩) rfl rfl rfl
    ⟨rfl, rfl⟩ (fun r hr => by rw [State.member_trialIssued, if_pos hr]) fun _ _ => rfl

/-! ## The stop (R57, R58, R62, R135) -/

/-- The state after a stop of section i at point w: the hit, its event and trigger, and the freeze. -/
def State.stopped (s : State) (i : SecId) (w : WatchId) (v : Int) (pos : Option Pos) : State :=
  (s.hitMarked w v .issued).enterFrozen i .watch (some w.val) (some (s.watch w).node) pos

/-- The marks of a hit at a point that stops leave everything but the watch points, the capture control and the events. -/
theorem State.hitMarked_frame {s : State} {w : WatchId} {v : Int} {src : OccurrenceSource} (h : (s.watch w).action.stops = true) :
    s.hitMarked w v src = { s with
      watches := (s.hitMarked w v src).watches, capture := (s.hitPosted w v).capture, events := (s.hitPosted w v).events
      nextSequence := (s.hitPosted w v).nextSequence } := by
  have hposted : s.hitPosted w v = { s with
      capture := (s.hitPosted w v).capture, events := (s.hitPosted w v).events, nextSequence := (s.hitPosted w v).nextSequence } := by
    unfold State.hitPosted
    rw [State.signal_frame, State.post_frame]
  refine (s.hitMarked_stops h).1.trans ?_
  generalize (s.hitMarked w v src).watches = watches
  rw [hposted]

/-- The node of a stop's point is its member's, which has the member's position. -/
theorem State.positionOf_stop {s : State} (hm : MembersConsistent s) {i : SecId} {r : RecId} (hr : r ∈ s.members i) {w : WatchId}
    (hw : (s.member r).node = some (s.watch w).node) : s.memberNode r = (s.watch w).node ∧
      (s.drive (s.watch w).node).inSection = some i ∧ s.positionOf (s.watch w).node = (s.member r).position := by
  obtain ⟨hnode, hsection, hrecord⟩ := hm.facts hr
  have hpoint : s.memberNode r = (s.watch w).node := Option.some.inj (hnode.symm.trans hw)
  rw [← hpoint]
  refine ⟨rfl, hsection, ?_⟩
  unfold State.positionOf
  rw [hrecord]
  rfl

/-- The event and the trigger of a stop at a member of section i. -/
theorem State.hitPosted_member {s : State} (hm : MembersConsistent s) {i : SecId} {r : RecId} (hr : r ∈ s.members i) {w : WatchId}
    (hw : (s.member r).node = some (s.watch w).node) (v : Int) : s.hitPosted w v =
      (s.post .watchHit (some i) (some (s.watch w).node) (s.member r).position s.cycle (some v) w.val).signal .watch w.val := by
  obtain ⟨_, hsection, hposition⟩ := State.positionOf_stop hm hr hw
  unfold State.hitPosted
  rw [hsection, hposition]

/-- The section, the records and everything else after a stop. -/
theorem State.stopped_spec {s : State} {i : SecId} {w : WatchId} (h : (s.watch w).action.stops = true) (v : Int) (pos : Option Pos) :
    let x := s.sec i
    let z := s.stopped i w v pos
    z.sec i = { x with
      state := .frozen, startPending := false, profile := { x.profile with stepPending := false }
      freeze := ⟨some .watch, some w.val, s.cycle, x.profile.segmentIndex, x.profile.cycleCount, x.profile.pass, x.profile.offset⟩ } ∧
    (∀ q ∈ s.members i, z.member q = { s.member q with held := (s.member q).issued - x.issueBase }) ∧
    (∀ q, q ∉ s.members i → z.member q = s.member q) ∧
    Posted (s.hitPosted w v) z .stateChange (some i) (some (s.watch w).node) pos (some 3) 1 ∧
    z = { s with
      sections := z.sections, pool := z.pool, watches := (s.hitMarked w v .issued).watches, capture := (s.hitPosted w v).capture
      events := z.events, nextSequence := z.nextSequence } := by
  have hframe := State.hitMarked_frame (v := v) (src := .issued) h
  have hsec : (s.hitMarked w v .issued).sec i = s.sec i := State.sec_of_eq (congrArg State.sections hframe :) i
  have hmember (q : RecId) : (s.hitMarked w v .issued).member q = s.member q := State.member_of_eq (congrArg State.pool hframe :) q
  have hcycle : (s.hitMarked w v .issued).cycle = (s.hitPosted w v).cycle :=
    (congrArg State.cycle (s.hitMarked_stops (v := v) (src := .issued) h).1 :)
  obtain ⟨hself, _, hin, hout, hposted, hrest⟩ :=
    EntersFrozen.of_enterFrozen (s.hitMarked w v .issued) i .watch (some w.val) (some (s.watch w).node) pos
  unfold State.members at *
  rw [hsec] at hself hin hout
  simp only [hmember] at hin hout
  refine ⟨?_, hin, hout, ?_, ?_⟩
  · refine hself.trans ?_
    rw [hframe]
  · exact hposted.of_agree (congrArg State.events hframe :) (congrArg State.nextSequence hframe :) hcycle rfl rfl
  · have hfrozen : s.stopped i w v pos = { s.hitMarked w v .issued with
        sections := (s.stopped i w v pos).sections, pool := (s.stopped i w v pos).pool, events := (s.stopped i w v pos).events
        nextSequence := (s.stopped i w v pos).nextSequence } := hrest
    generalize s.stopped i w v pos = z at hfrozen ⊢
    generalize s.hitMarked w v .issued = m at hframe hfrozen ⊢
    rw [hfrozen, hframe]

/-- The references after a stop: B + O with the offsets of the previous dispatch (R57, R58). -/
def State.stopIssued (s : State) (i : SecId) (w : WatchId) (v : Int) (pos : Option Pos) : State :=
  (s.stopped i w v pos).issuing i ((s.stopped i w v pos).offsetCandidate i)

/-- B + O of a member that freezes at this dispatch (R57, R58). -/
def State.stopValue (s : State) (i : SecId) (q : RecId) : Int :=
  (s.sec i).lineReference + ((s.member q).issued - (s.sec i).issueBase)

/-- The issue base leaves the events of the issues. -/
theorem State.issuing_events (s : State) (i : SecId) (c : RecId → Candidate) :
    (s.issuing i c).events = (s.issueAll i ((s.members i).map c)).events ∧
      (s.issuing i c).nextSequence = (s.issueAll i ((s.members i).map c)).nextSequence := ⟨rfl, rfl⟩

section StopIssued

variable {s : State} {i : SecId} {w : WatchId}

/-- A stop leaves the member list. -/
theorem State.members_stopped (h : (s.watch w).action.stops = true) (v : Int) (pos : Option Pos) :
    (s.stopped i w v pos).members i = s.members i := by
  obtain ⟨hself, _⟩ := State.stopped_spec (i := i) h v pos
  exact (congrArg Section.members hself :)

/-- The candidates after a stop. -/
theorem State.offsetCandidate_stopped (h : (s.watch w).action.stops = true) (v : Int) (pos : Option Pos) {q : RecId}
    (hq : q ∈ s.members i) : (s.stopped i w v pos).offsetCandidate i q =
      ⟨q, s.stopValue i q, absoluteClamp (s.sec i).cfg.absoluteLimit ⟨s.stopValue i q, .none⟩⟩ := by
  obtain ⟨hself, hin, _⟩ := State.stopped_spec (i := i) h v pos
  unfold State.offsetCandidate State.stopValue
  rw [hself, hin q hq]

/-- The records after the references of a stop. -/
theorem State.member_stopIssued (h : (s.watch w).action.stops = true) (v : Int) (pos : Option Pos) (q : RecId) :
    (s.stopIssued i w v pos).member q = if q ∈ s.members i then { s.member q with
      held := (s.member q).issued - (s.sec i).issueBase
      issued := (absoluteClamp (s.sec i).cfg.absoluteLimit ⟨s.stopValue i q, .none⟩).value
      clamp := (absoluteClamp (s.sec i).cfg.absoluteLimit ⟨s.stopValue i q, .none⟩).mark } else s.member q := by
  obtain ⟨_, hin, hout, _⟩ := State.stopped_spec (i := i) h v pos
  unfold State.stopIssued
  rw [State.member_issuing fun _ => rfl, State.members_stopped h]
  split
  · next hq => rw [State.offsetCandidate_stopped h v pos hq, hin q hq]
  · next hq => exact hout q hq

/-- The section after the references of a stop. -/
theorem State.sec_stopIssued (h : (s.watch w).action.stops = true) (v : Int) (pos : Option Pos) :
    (s.stopIssued i w v pos).sec i = { s.sec i with
      state := .frozen, startPending := false, issueBase := (s.sec i).lineReference
      profile := { (s.sec i).profile with stepPending := false }
      freeze := ⟨some .watch, some w.val, s.cycle, (s.sec i).profile.segmentIndex, (s.sec i).profile.cycleCount,
        (s.sec i).profile.pass, (s.sec i).profile.offset⟩ } := by
  obtain ⟨hself, _⟩ := State.stopped_spec (i := i) h v pos
  unfold State.stopIssued
  rw [(State.sec_issuing ..).1, hself]

/-- A stop and its references change sections, records, watch points, capture control and events alone. -/
theorem State.stopIssued_frame (h : (s.watch w).action.stops = true) (v : Int) (pos : Option Pos) : s.stopIssued i w v pos = { s with
    sections := (s.stopIssued i w v pos).sections, pool := (s.stopIssued i w v pos).pool
    watches := (s.hitMarked w v .issued).watches, capture := (s.hitPosted w v).capture
    events := (s.stopIssued i w v pos).events, nextSequence := (s.stopIssued i w v pos).nextSequence } := by
  obtain ⟨_, _, _, _, hframe⟩ := State.stopped_spec (i := i) h v pos
  have hissued := (s.stopped i w v pos).issuing_frame i ((s.stopped i w v pos).offsetCandidate i)
  have hwhole : s.stopIssued i w v pos = { s.stopped i w v pos with
      sections := (s.stopIssued i w v pos).sections, pool := (s.stopIssued i w v pos).pool
      events := (s.stopIssued i w v pos).events, nextSequence := (s.stopIssued i w v pos).nextSequence } := hissued
  generalize s.stopIssued i w v pos = t at hwhole ⊢
  generalize s.stopped i w v pos = z at hframe hwhole
  rw [hwhole, hframe]

/-- The rewrites after a stop (R56). -/
theorem State.rewritesOf_stopIssued (h : (s.watch w).action.stops = true) (v : Int) (pos : Option Pos) :
    (s.stopIssued i w v pos).rewritesOf i = (s.members i).map fun r =>
      ⟨s.memberNode r, BitVec.ofInt 24 ((s.memberDirection r).sign * ((s.stopIssued i w v pos).member r).issued)⟩ := by
  refine State.rewritesOf_eq (congrArg Section.members (State.sec_stopIssued h v pos) :) (fun r hr => ?_)
    (congrArg State.drives (State.stopIssued_frame h v pos) :)
  rw [State.member_stopIssued h, if_pos hr]

/-- The CLAMP events after a stop stand behind its STATE_CHANGE (R55). -/
theorem State.stopIssued_clamps (hm : MembersConsistent s) (h : (s.watch w).action.stops = true) (v : Int) (pos : Option Pos) :
    ClampsPosted s ((s.hitPosted w v).post .stateChange (some i) (some (s.watch w).node) pos s.cycle (some 3) 1)
      (s.stopIssued i w v pos) i (s.stopValue i) := by
  obtain ⟨_, hin, _, ⟨hevents, hnext⟩, hframe⟩ := State.stopped_spec (i := i) h v pos
  have hcycle : (s.hitPosted w v).cycle = s.cycle := by
    unfold State.hitPosted; rw [State.signal_frame, State.post_frame]
  rw [hcycle] at hevents hnext
  refine .of_issueEach (y := s.stopped i w v pos) (c := (s.stopped i w v pos).offsetCandidate i) (t := s.stopIssued i w v pos)
    (fun _ => rfl) (State.members_stopped h v pos) (hm.nodup i) (fun r hr => ?_) (congrArg State.cycle hframe :) hevents hnext
    (State.issuing_events ..) (fun r hr => ?_) fun r hr => ?_
  · rw [hin r hr]; exact ⟨rfl, rfl, rfl⟩
  · rw [State.member_stopIssued h, if_pos hr, State.offsetCandidate_stopped h v pos hr]
  · rw [State.offsetCandidate_stopped h v pos hr]

end StopIssued

/-- With a stop a section in TRIAL issues B + O once the stop is taken. -/
theorem Formed.takeSection_stop (entries : List Entry) {s : State} {i : SecId} (h : (s.sec i).state = .trial) {stop : IssuedStop}
    (hstop : s.stopTest entries (s.trialCandidates i) = some stop) (ws : List Rewrite) (ks : List (WatchId × Nat)) :
    let z := s.takeIssuedStop i stop
    Formed.takeSection entries ⟨s, ws, ks⟩ i = ⟨z.issuing i (z.offsetCandidate i),
      ws ++ (z.issuing i (z.offsetCandidate i)).rewritesOf i, ks ++ [(stop.point, stop.entry)]⟩ := by
  intro z
  have hform : s.formTrial entries i = (z.issueFrozen i, [(stop.point, stop.entry)]) := by
    unfold State.formTrial
    dsimp only
    rw [show s.stopTest entries ((s.members i).map (s.trialCandidate i)) = some stop from hstop]
  unfold Formed.takeSection
  dsimp only
  rw [h]
  dsimp only
  rw [hform]
  rfl

/-- With a stop a section in TRIAL takes the hit, freezes and issues B + O. -/
theorem Formed.takeSection_stopped (entries : List Entry) {s : State} (hm : MembersConsistent s) {i : SecId}
    (h : (s.sec i).state = .trial) {r : RecId} (hr : r ∈ s.members i) {w : WatchId}
    (hw : (s.member r).node = some (s.watch w).node) (hstops : (s.watch w).action.stops = true) {k : Nat} {v : Int}
    (hstop : s.stopTest entries (s.trialCandidates i) = some ⟨w, k, r, v⟩) (ws : List Rewrite) (ks : List (WatchId × Nat)) :
    let t := s.stopIssued i w v (s.member r).position
    Formed.takeSection entries ⟨s, ws, ks⟩ i = ⟨t, ws ++ t.rewritesOf i, ks ++ [(w, k)]⟩ := by
  intro t
  obtain ⟨hnode, _, hposition⟩ := State.positionOf_stop hm hr hw
  have hframe := State.hitMarked_frame (v := v) (src := .issued) hstops
  have htrial : ((s.hitMarked w v .issued).sec i).state = .trial := by
    rw [State.sec_of_eq (congrArg State.sections hframe :) i]; exact h
  have hplace : (s.hitMarked w v .issued).positionOf (s.watch w).node = (s.member r).position := by
    rw [hframe]; exact hposition
  have htaken : s.takeIssuedStop i ⟨w, k, r, v⟩ = s.stopped i w v (s.member r).position := by
    have hrequest : s.takeIssuedStop i ⟨w, k, r, v⟩ = (s.hitMarked w v .issued).requestFreeze i .watch (some w.val)
      (some (s.memberNode r)) ((s.hitMarked w v .issued).positionOf (s.memberNode r)) := rfl
    rw [hrequest, hnode, hplace]
    exact if_pos htrial
  rw [Formed.takeSection_stop entries h hstop, htaken]
  rfl

/-! ## The statement -/

/-- The rewrites of the TRIAL issue (R56). -/
theorem State.rewritesOf_trialIssued (s : State) (i : SecId) : (s.trialIssued i).rewritesOf i = (s.members i).map fun r =>
    ⟨s.memberNode r, BitVec.ofInt 24 ((s.memberDirection r).sign * ((s.trialIssued i).member r).issued)⟩ := by
  refine State.rewritesOf_eq (congrArg Section.members (s.sec_trialIssued i) :) (fun r hr => ?_)
    (congrArg State.drives (s.trialIssued_frame i) :)
  rw [State.member_trialIssued, if_pos hr]

/-- Settles O14: by whether the stop test finds a stop. -/
theorem trialIssuesTrialReferences : Obligations.TrialIssuesTrialReferences := by
  unfold Obligations.TrialIssuesTrialReferences
  intro s i entries ws ks hstate hm x a t sum window candidate stops
  have hissued (r : RecId) : (s.trialCandidate i r).issued = ⟨candidate r, _⟩ := s.trialCandidate_issued i r
  have hcandidate : candidate = fun r => (s.trialCandidate i r).issued.value := funext fun r => (congrArg Marked.value (hissued r)).symm
  have hstops : stops = s.StopsAt entries fun r => (s.trialCandidate i r).issued.value := congrArg (s.StopsAt entries) hcandidate
  clear_value stops
  subst hstops
  have hfree (hnone : s.stopTest entries (s.trialCandidates i) = none) : a = _ := Formed.takeSection_trial entries hstate hnone ws ks
  have hstopped {f : WatchField} {r : RecId} (hr : r ∈ s.members i) {k : Nat} {w : WatchId} {v : Int}
      (h : s.StopsAt entries (fun q => (s.trialCandidate i q).issued.value) f r k w v)
      (hstop : s.stopTest entries (s.trialCandidates i) = some ⟨w, k, r, v⟩) : (s.watch w).action.stops = true ∧ a = _ :=
    ⟨h.stops, Formed.takeSection_stopped entries hm hstate hr h.node h.stops hstop ws ks⟩
  refine ⟨?_, ?_, fun hnone => ?_, ?_⟩
  · intro q hq
    cases htest : s.stopTest entries (s.trialCandidates i) with
    | none => exact (congrArg (fun b => b.state.member q) (hfree htest)).trans ((s.member_trialIssued i q).trans (if_neg hq))
    | some stop =>
      obtain ⟨f, r, hr, k, w, v, h, rfl⟩ := State.trialTest_some hm htest
      obtain ⟨hact, ha⟩ := hstopped hr h htest
      exact (congrArg (fun b => b.state.member q) ha).trans ((State.member_stopIssued hact v _ q).trans (if_neg hq))
  · cases htest : s.stopTest entries (s.trialCandidates i) with
    | none =>
      have ha := hfree htest
      have ht : t = s.trialIssued i := congrArg Formed.state ha
      rw [ha, ht, State.rewritesOf_trialIssued]
    | some stop =>
      obtain ⟨f, r, hr, k, w, v, h, rfl⟩ := State.trialTest_some hm htest
      obtain ⟨hact, ha⟩ := hstopped hr h htest
      have ht : t = _ := congrArg Formed.state ha
      rw [ha, ht, State.rewritesOf_stopIssued hact]
  · have ha := hfree (State.trialTest_none hm hnone)
    have ht : t = s.trialIssued i := congrArg Formed.state ha
    have hframe := s.trialIssued_frame i
    refine ⟨fun r hr => ?_, ?_, ?_, congrArg Formed.skips ha, ?_⟩
    · rw [ht, State.member_trialIssued, if_pos hr, hissued]; rfl
    · rw [ht, State.sec_trialIssued]
    · rw [ht]; exact (congrArg State.watches hframe :)
    · rw [ht]; exact State.trialIssued_clamps hm i
  · intro f m r k w v hr h hw hk hbefore hreference p held value u
    obtain ⟨hact, ha⟩ := hstopped (List.mem_of_getElem? hr) h (State.trialTest_first hm hr h hw hk hbefore hreference)
    have ht : t = s.stopIssued i w v (s.member r).position := congrArg Formed.state ha
    have hu : u = s.hitPosted w v := (State.hitPosted_member hm (List.mem_of_getElem? hr) h.node v).symm
    have hframe := State.stopIssued_frame (i := i) hact v (s.member r).position
    have hwatch (x : WatchId) : t.watch x = (s.hitMarked w v .issued).watch x := by
      rw [ht]; exact congrArg (fun y => y[x]) (congrArg State.watches hframe :)
    refine ⟨fun q hq => ?_, ?_, ?_, fun w' hne => ?_, congrArg Formed.skips ha, ?_, ?_⟩
    · rw [ht, State.member_stopIssued hact, if_pos hq, absoluteClamp_unmarked]; rfl
    · rw [ht, State.sec_stopIssued hact]
    · rw [hwatch, State.watch_hitMarked, if_pos rfl, WatchPoint.latched_seen]
    · rw [hwatch, State.watch_hitMarked, if_neg hne]
    · rw [ht, hu]; exact (congrArg State.capture hframe :)
    · rw [ht, hu]; exact State.stopIssued_clamps hm hact v _

end Sys2Proof.Machine
end

section
/-! PROOFS. Every reference that a dispatch writes lies within the absolute limit of its section (R54, R56, R154). -/

namespace Sys2Proof.Machine

/-! ## A reference and its speed field (R56) -/

/-- The absolute clamp leaves a value within the limit (R54). -/
theorem absoluteClamp_within {A : Int} (hA : 0 ≤ A) (m : Marked) : -A ≤ (absoluteClamp A m).value ∧ (absoluteClamp A m).value ≤ A := by
  unfold absoluteClamp Marked.clamp
  split
  · exact ⟨le_refl _, by dsimp only; omega⟩
  · split
    · exact ⟨by dsimp only; omega, le_refl _⟩
    · exact ⟨by omega, by omega⟩

/-- A speed field holds every value up to the largest absolute limit. -/
theorem toInt_speedField {v : Int} (hlo : -2000000 ≤ v) (hhi : v ≤ 2000000) : (speedField v).toInt = v :=
  BitVec.toInt_ofInt_eq_self (by decide) (by omega) (by omega)

/-- Applying a direction twice gives the value back. -/
theorem Direction.sign_mul_apply (d : Direction) (v : Int) : d.sign * d.apply v = v := by
  rw [Direction.sign_mul]
  cases d
  · rfl
  · exact Int.neg_neg v

/-- A value within the limits stays within them under a direction. -/
theorem Direction.apply_within (d : Direction) {A v : Int} (hlo : -A ≤ v) (hhi : v ≤ A) : -A ≤ d.apply v ∧ d.apply v ≤ A := by
  cases d
  · exact ⟨hlo, hhi⟩
  · exact ⟨Int.neg_le_neg hhi, Int.neg_le_of_neg_le hlo⟩

/-- A rewrite is of a member of a section, and its speed, taken before the direction sign, lies within the section's absolute limit. -/
def State.WithinLimit (s : State) (w : Rewrite) : Prop :=
  ∃ i, ∃ r ∈ s.members i, s.memberNode r = w.node ∧
    -(s.sec i).cfg.absoluteLimit ≤ (s.memberDirection r).sign * w.speed.toInt ∧
    (s.memberDirection r).sign * w.speed.toInt ≤ (s.sec i).cfg.absoluteLimit

/-- The rewrite of a member whose issued reference lies within the limit. -/
theorem State.withinLimit_of_issued {s : State} {i : SecId} (hmax : (s.sec i).cfg.absoluteLimit ≤ 2000000) {r : RecId}
    (hr : r ∈ s.members i) {v : Int} (hlo : -(s.sec i).cfg.absoluteLimit ≤ v) (hhi : v ≤ (s.sec i).cfg.absoluteLimit) :
    s.WithinLimit ⟨s.memberNode r, speedField ((s.memberDirection r).apply v)⟩ := by
  obtain ⟨hneg, hpos⟩ := (s.memberDirection r).apply_within hlo hhi
  refine ⟨i, r, hr, rfl, ?_⟩
  dsimp only
  rw [toInt_speedField (by omega) (by omega), Direction.sign_mul_apply]
  exact ⟨hlo, hhi⟩

/-! ## What the work before an issue keeps -/

/-- The release decay keeps membership and configuration. -/
theorem Stable.decayOffsets (s : State) (i : SecId) : Stable s (s.decayOffsets i) :=
  Stable.modMembers s i _ fun _ => ⟨rfl, rfl, rfl, rfl, rfl⟩

/-- A hit keeps membership and configuration. -/
theorem Stable.watchHit (s : State) (w : WatchId) (v : Int) (src : OccurrenceSource) : Stable s (s.watchHit w v src) := by
  unfold State.watchHit
  dsimp only
  split
  · exact ((Stable.modWatch ..).trans (Stable.post ..)).trans (Stable.signal ..)
  · exact Stable.modWatch ..

/-- A stop on an ISSUED value keeps membership and configuration. -/
theorem Stable.takeIssuedStop (s : State) (i : SecId) (stop : IssuedStop) : Stable s (s.takeIssuedStop i stop) :=
  ((Stable.watchHit ..).trans (Stable.modWatch ..)).trans (Stable.requestFreeze ..)

/-! ## The rewrites of one section -/

/-- The start-pending mark is nothing to the rewrites of the TRIAL issue. -/
theorem State.rewritesOf_trialIssued_issuing (s : State) (i : SecId) :
    (s.trialIssued i).rewritesOf i = (s.issuing i (s.trialCandidate i)).rewritesOf i := by
  rw [State.rewritesOf_trialIssued, State.rewritesOf_issuing fun _ => rfl]
  rfl

/-- The candidates of section i hold, member by member, what the absolute clamp leaves of some value (R54). -/
def State.Clamps (s : State) (i : SecId) (c : RecId → Candidate) : Prop :=
  ∀ r, (c r).record = r ∧ ∃ m, (c r).issued = absoluteClamp (s.sec i).cfg.absoluteLimit m

/-- Every section that rewrites issues clamped candidates, after work that keeps membership and configuration; the others add no rewrite. -/
theorem Formed.rewrites_takeSection (entries : List Entry) (a : Formed) (i : SecId) :
    (Formed.takeSection entries a i).rewrites = a.rewrites ∨ ∃ z c, Stable a.state z ∧ z.Clamps i c ∧
      (Formed.takeSection entries a i).rewrites = a.rewrites ++ (z.issuing i c).rewritesOf i := by
  obtain ⟨s, ws, ks⟩ := a
  have hpassing (h : (s.sec i).state.rewriting = false) : (Formed.takeSection entries ⟨s, ws, ks⟩ i).rewrites = ws :=
    congrArg Formed.rewrites (Formed.takeSection_passing entries h ws ks)
  have hoffset (z : State) : z.Clamps i (z.offsetCandidate i) := fun _ => ⟨rfl, _, rfl⟩
  cases h : (s.sec i).state with
  | bypass => exact .inl (hpassing (h ▸ rfl))
  | selected => exact .inl (hpassing (h ▸ rfl))
  | faulted => exact .inl (hpassing (h ▸ rfl))
  | trial =>
    refine .inr ?_
    cases htest : s.stopTest entries (s.trialCandidates i) with
    | none =>
      refine ⟨s, s.trialCandidate i, .refl s, fun _ => ⟨rfl, _, rfl⟩, ?_⟩
      rw [Formed.takeSection_trial entries h htest, State.rewritesOf_trialIssued_issuing]
    | some stop =>
      exact ⟨_, _, Stable.takeIssuedStop s i stop, hoffset _, congrArg Formed.rewrites (Formed.takeSection_stop entries h htest ws ks)⟩
  | frozen =>
    exact .inr ⟨s, _, .refl s, hoffset s, congrArg Formed.rewrites (Formed.takeSection_frozen entries h ws ks)⟩
  | releasing =>
    exact .inr ⟨_, _, Stable.decayOffsets s i, hoffset _, congrArg Formed.rewrites (Formed.takeSection_releasing entries h ws ks)⟩
  | calibrating =>
    exact .inr ⟨s, s.setPointCandidate i, .refl s, fun _ => ⟨rfl, _, rfl⟩,
      congrArg Formed.rewrites (Formed.takeSection_calibrating entries h ws ks)⟩

/-- Clamped candidates give rewrites within the limit. -/
theorem State.Clamps.withinLimit {s z : State} (hz : Stable s z) {i : SecId} {c : RecId → Candidate} (hc : z.Clamps i c)
    (hmin : 0 ≤ (s.sec i).cfg.absoluteLimit) (hmax : (s.sec i).cfg.absoluteLimit ≤ 2000000) :
    ∀ w ∈ (z.issuing i c).rewritesOf i, s.WithinLimit w := by
  intro w hw
  obtain ⟨hmembers, hcfg, _⟩ := hz.sec i
  rw [State.rewritesOf_issuing fun r => (hc r).1] at hw
  obtain ⟨r, hr, rfl⟩ := List.mem_map.1 hw
  obtain ⟨_, m, hissued⟩ := hc r
  have hvalue : ((z.issuing i c).member r).issued = (absoluteClamp (s.sec i).cfg.absoluteLimit m).value := by
    rw [State.member_issuing fun r => (hc r).1, if_pos hr, hissued, hcfg]
  obtain ⟨hlo, hhi⟩ := absoluteClamp_within hmin m
  rw [hvalue, hz.memberNode, hz.memberDirection, Direction.sign_mul]
  exact State.withinLimit_of_issued hmax (hmembers ▸ hr) hlo hhi

/-! ## The rewrites of a dispatch -/

/-- Section after section, the rewrites stay within the limits. -/
theorem Formed.withinLimit (entries : List Entry) {s : State} (hcfg : ConfigInRange s) : ∀ (is : List SecId) (a : Formed),
    Stable s a.state → (∀ w ∈ a.rewrites, s.WithinLimit w) →
    ∀ w ∈ (is.foldl (Formed.takeSection entries) a).rewrites, s.WithinLimit w
  | [], _, _, hwithin => hwithin
  | i :: is, a, hstable, hwithin => by
    refine Formed.withinLimit entries hcfg is _ (hstable.trans (Stable.takeSection entries a i)) ?_
    rcases Formed.rewrites_takeSection entries a i with hsame | ⟨z, c, hz, hc, hadded⟩
    · rw [hsame]; exact hwithin
    · obtain ⟨_, _, ⟨hmin, hmax⟩, _⟩ := hcfg i
      rw [hadded]
      exact fun w hw => (List.mem_append.1 hw).elim (hwithin w) (hc.withinLimit (hstable.trans hz) (by omega) hmax w)

/-- Every rewrite of a dispatch lies within the limit of its section. -/
theorem State.withinLimit_referenced {s : State} (hcfg : ConfigInRange s) (f : DispatchFrame) :
    ∀ w ∈ (s.referenced f).rewrites, s.WithinLimit w := by
  have hstable := Stable.profiled s f
  unfold State.referenced State.formReferences
  generalize (s.profiled f).state = t at hstable
  exact Formed.withinLimit f.entries (s := s.opened f.cycle) hcfg sectionIds ⟨t, [], []⟩ hstable fun _ h => absurd h List.not_mem_nil

/-- An entry is forwarded as received, or carries the speed of a rewrite of its node (R56, R154). -/
theorem Entry.rewrite_cases (ws : List Rewrite) (e : Entry) : Entry.rewrite ws e = e ∨
    ∃ w ∈ ws, e.node.toNat = w.node.val + 1 ∧ Entry.rewrite ws e = { e with speed := w.speed } := by
  unfold Entry.rewrite
  split
  · next w h => exact .inr ⟨w, List.mem_of_find?_eq_some h, (nodeOf_eq_some _ _).1 (of_decide_eq_true (List.find?_some h :)), rfl⟩
  · exact .inl rfl

/-! ## The statement -/

/-- Settles O13: every rewrite of the dispatch is a clamped reference of a member, which its speed field holds exactly. -/
theorem writtenReferencesWithinAbsoluteLimit : Obligations.WrittenReferencesWithinAbsoluteLimit := by
  unfold Obligations.WrittenReferencesWithinAbsoluteLimit
  intro s f hpow hlen hroom hm hcfg
  refine ⟨_, s.forwarded f, exec_dispatch s f hpow hlen, ?_, fun k e e' hk hk' => ?_⟩
  · rw [State.downstreamQueue_dispatchWork, if_pos hroom]
  · rw [State.forwarded_entry hk, Option.some.injEq] at hk'
    subst hk'
    refine (Entry.rewrite_cases _ e).imp_right ?_
    rintro ⟨w, hw, hnode, hspeed⟩
    obtain ⟨i, r, hr, hrw, hlimit⟩ := State.withinLimit_referenced hcfg f w hw
    rw [hspeed]
    exact ⟨i, r, s.memberNode r, hr, (hm.facts hr).1, hrw ▸ hnode, hlimit⟩

end Sys2Proof.Machine
end

section
/-! PROOFS. The Share Balancer: the imbalances it stores at every set and the trims it updates (R66 to R71). -/

namespace Sys2Proof.Machine

/-! ## A change of its own for every record of a list -/

/-- Changing each record of a list without repetition in its own way: each record in it once, the others not at all. -/
theorem State.member_modEach (g : RecId → PoolRecord → PoolRecord) (q : RecId) : ∀ (rs : List RecId) (s : State), rs.Nodup →
    (rs.foldl (fun t r => t.modRec r (g r)) s).member q = if q ∈ rs then g q (s.member q) else s.member q
  | [], _, _ => (if_neg List.not_mem_nil).symm
  | r :: rs, s, h => by
    obtain ⟨hr, hrs⟩ := List.nodup_cons.1 h
    rw [List.foldl_cons, State.member_modEach g q rs _ hrs, State.member_modRec]
    by_cases hq : q = r
    · subst hq
      simp [hr]
    · simp [hq]

/-- Changing each record of a list in its own way changes the pool alone. -/
theorem State.modEach_frame (g : RecId → PoolRecord → PoolRecord) : ∀ (rs : List RecId) (s : State),
    rs.foldl (fun t r => t.modRec r (g r)) s = { s with pool := (rs.foldl (fun t r => t.modRec r (g r)) s).pool }
  | [], _ => rfl
  | r :: rs, s => by rw [List.foldl_cons, State.modEach_frame g rs]; rfl

/-! ## The imbalances (R67, R68) -/

/-- The imbalances go into the pool alone. -/
theorem State.storeImbalances_frame (s : State) (i : SecId) :
    s.storeImbalances i = { s with pool := (s.storeImbalances i).pool } := State.modEach_frame _ _ s

@[simp] theorem State.sec_storeImbalances (s : State) (i j : SecId) : (s.storeImbalances i).sec j = s.sec j :=
  State.sec_of_eq (congrArg State.sections (s.storeImbalances_frame i) :) j

@[simp] theorem State.members_storeImbalances (s : State) (i j : SecId) : (s.storeImbalances i).members j = s.members j :=
  congrArg Section.members (s.sec_storeImbalances i j)

/-- Every member holds its imbalance, taken of the state before the set. -/
theorem State.member_storeImbalances (s : State) {i : SecId} (h : (s.members i).Nodup) (q : RecId) :
    (s.storeImbalances i).member q =
      if q ∈ s.members i then { s.member q with imbalance := s.memberImbalance i q } else s.member q :=
  State.member_modEach (fun r x => { x with imbalance := s.memberImbalance i r }) q _ s h

/-! ## The trims (R69, R70, R71) -/

/-- Anti-windup takes away a step into the clamp that holds the member, and nothing else (R70). -/
theorem antiWindup_eq (flag : ClampFlag) (step : Int) :
    antiWindup flag step = if (flag = .high ∧ 0 < step) ∨ (flag = .low ∧ step < 0) then 0 else step := by
  cases flag <;> simp [antiWindup]

/-- The conditions of R66 for a trim update. -/
theorem Section.balances_iff (x : Section) (complete : Bool) : x.balances complete = true ↔
    complete = true ∧ x.state = .trial ∧ x.startPending = false ∧ 0 < x.cfg.shareGain := by
  simp [Section.balances, and_assoc]

/-- The provisional trim of a member with the imbalance of the set (R71). -/
def State.provisionalTrim (s : State) (i : SecId) (r : RecId) : Int :=
  (s.member r).trim + antiWindup (s.member r).clamp (trimStep (s.memberImbalance i r) (s.sec i).cfg.shareGain)

/-- Once the imbalances are stored, a member's provisional trim is the one with the imbalance of the set. -/
theorem State.provisionalTrim_storeImbalances (s : State) {i : SecId} (h : (s.members i).Nodup) {r : RecId} (hr : r ∈ s.members i) :
    ((s.storeImbalances i).member r).provisionalTrim (s.sec i).cfg.shareGain = s.provisionalTrim i r := by
  rw [s.member_storeImbalances h, if_pos hr]
  rfl

/-- A set that updates the trims leaves every member its imbalance and its new trim. -/
theorem State.member_updateTrims_storeImbalances (s : State) {i : SecId} (h : (s.members i).Nodup) {r : RecId} (hr : r ∈ s.members i) :
    ((s.storeImbalances i).updateTrims i).member r = { s.member r with
      imbalance := s.memberImbalance i r
      trim := saturate (s.sec i).cfg.trimLimit (s.provisionalTrim i r - trimMean ((s.members i).map (s.provisionalTrim i))) } := by
  have hmean : (s.members i).map (fun q => ((s.storeImbalances i).member q).provisionalTrim (s.sec i).cfg.shareGain) =
      (s.members i).map (s.provisionalTrim i) := List.map_congr_left fun q hq => s.provisionalTrim_storeImbalances h hq
  rw [State.member_updateTrims _ (by rwa [s.members_storeImbalances]), s.members_storeImbalances, if_pos hr, State.trimmed,
    s.sec_storeImbalances, s.members_storeImbalances, hmean, s.provisionalTrim_storeImbalances h hr, s.member_storeImbalances h,
    if_pos hr]

/-! ## The Share Balancer on a set (R66) -/

/-- The Share Balancer decides on the section as the set finds it. -/
theorem State.balance_eq (s : State) (i : SecId) (complete : Bool) : s.balance i complete =
    if (s.sec i).balances complete then (s.storeImbalances i).updateTrims i else s.storeImbalances i := by
  unfold State.balance
  dsimp only
  rw [s.sec_storeImbalances]

/-- The Share Balancer writes the pool alone. -/
theorem State.balance_frame (s : State) (i : SecId) (complete : Bool) :
    s.balance i complete = { s with pool := (s.balance i complete).pool } := by
  rw [State.balance_eq]
  split
  · have htrims : (s.storeImbalances i).updateTrims i =
        { s.storeImbalances i with pool := ((s.storeImbalances i).updateTrims i).pool } := State.modRecs_frame ..
    rw [htrims, s.storeImbalances_frame]
  · exact s.storeImbalances_frame i

/-- A member's record after the Share Balancer took a set. -/
theorem State.member_balance (s : State) {i : SecId} (complete : Bool) (h : (s.members i).Nodup) {r : RecId} (hr : r ∈ s.members i) :
    (s.balance i complete).member r = { s.member r with
      imbalance := s.memberImbalance i r
      trim := if (s.sec i).balances complete then
          saturate (s.sec i).cfg.trimLimit (s.provisionalTrim i r - trimMean ((s.members i).map (s.provisionalTrim i)))
        else (s.member r).trim } := by
  rw [State.balance_eq]
  split
  · exact s.member_updateTrims_storeImbalances h hr
  · rw [s.member_storeImbalances h, if_pos hr]

/-- Settles O24: a set stores each member's imbalance once, and the update reads the imbalances of its own set. -/
theorem balancerStoresImbalancesAndTrims : Obligations.BalancerStoresImbalancesAndTrims := by
  unfold Obligations.BalancerStoresImbalancesAndTrims
  intro s i complete hm x load total weights imbalance raw used provisional mean updates
  have hprovisional (r : RecId) : s.provisionalTrim i r = provisional r :=
    congrArg ((s.member r).trim + ·) (antiWindup_eq (s.member r).clamp (raw r))
  have hmean : trimMean ((s.members i).map (s.provisionalTrim i)) = mean := by
    rw [funext hprovisional, trimMean, List.length_map]
    rfl
  refine ⟨fun r hr => ?_, fun r => (SetWork.balance s i complete).member r, s.balance_frame i complete⟩
  rw [s.member_balance complete (hm.nodup i) hr, hprovisional, hmean]
  simp only [Section.balances_iff]
  rfl

end Sys2Proof.Machine
end

section
/-! PROOFS. Frames from downstream (R79 to R82, R152, R155, R156): which returns the Feedback Intake uses, what it does with a used one, and
the frames that are forwarded alone. -/

namespace Sys2Proof.Machine

/-! ## Forwarding upstream (R156) -/

/-- A frame forwarded upstream takes the next order number while the through queue has room for 8 (R156). -/
theorem State.forwardUp_eq (s : State) (f : Frame) : s.forwardUp f =
    if s.throughQueue.length < 8 then
      { s with throughQueue := s.throughQueue ++ [⟨s.readyCount, f⟩], readyCount := s.readyCount + 1 }
    else s := rfl

/-- Forwarding upstream changes the through queue and the order number alone. -/
theorem State.forwardUp_frame (s : State) (f : Frame) :
    s.forwardUp f = { s with throughQueue := (s.forwardUp f).throughQueue, readyCount := (s.forwardUp f).readyCount } := by
  rw [State.forwardUp_eq]
  split <;> rfl

/-- The through queue after a frame was forwarded. -/
theorem State.throughQueue_forwardUp (s : State) (f : Frame) : (s.forwardUp f).throughQueue =
    if s.throughQueue.length < 8 then s.throughQueue ++ [⟨s.readyCount, f⟩] else s.throughQueue := by
  rw [State.forwardUp_eq, apply_ite State.throughQueue]

/-- The order number after a frame was forwarded. -/
theorem State.readyCount_forwardUp (s : State) (f : Frame) :
    (s.forwardUp f).readyCount = if s.throughQueue.length < 8 then s.readyCount + 1 else s.readyCount := by
  rw [State.forwardUp_eq, apply_ite State.readyCount]

/-! ## The returns that are used (R79) -/

/-- A return is used for a node where a cycle is open, the return is of that cycle, and it names the node, which is not the station. -/
theorem State.usedNode_eq_some (s : State) (f : ReturnFrame) (n : NodeId) : s.usedNode f = some n ↔
    s.cycleOpen = true ∧ f.cycle = s.cycle ∧ f.node.toNat = n.val + 1 ∧ n ≠ s.station := by
  unfold State.usedNode
  by_cases hopen : s.cycleOpen = true ∧ f.cycle = s.cycle
  · rw [if_pos hopen, ← nodeOf_eq_some]
    cases hnode : nodeOf f.node.toNat with
    | none => simp
    | some m =>
      have hm : (if m = s.station then none else some m) = some n ↔ m = n ∧ n ≠ s.station := by grind
      simpa [hopen] using hm
  · rw [if_neg hopen]
    exact iff_of_false (by simp) fun h => hopen ⟨h.1, h.2.1⟩

/-- Stale and foreign returns are not used. -/
theorem State.usedNode_none {s : State} {f : ReturnFrame} (h : s.cycleOpen = false ∨ f.cycle ≠ s.cycle ∨ f.node.toNat = 0 ∨
    62 < f.node.toNat ∨ f.node.toNat = s.station.val + 1) : s.usedNode f = none := by
  refine Option.eq_none_iff_forall_ne_some.2 fun n hn => ?_
  obtain ⟨hopen, hcycle, hnode, hstation⟩ := (s.usedNode_eq_some f n).1 hn
  have hrange : n.val < 62 := n.isLt
  rcases h with h | h | h | h | h
  · rw [hopen] at h; cases h
  · exact h hcycle
  · omega
  · omega
  · exact hstation (Fin.ext (by omega))

/-- Forwarding does not change which returns are used. -/
theorem State.usedNode_forwardUp (s : State) (g : Frame) (f : ReturnFrame) : (s.forwardUp g).usedNode f = s.usedNode f := by
  rw [State.forwardUp_frame]
  rfl

/-- A return is forwarded and then taken by the Feedback Intake (R79, R155). -/
theorem exec_returnFrame {s : State} (hp : s.powered = true) (f : ReturnFrame) :
    exec (.returnFrame f) s = .next ((s.forwardUp (.ret f)).intake f) :=
  State.whenPowered_on s (fun s => (s.forwardUp (.ret f)).intake f) hp

/-- A return that is not used is forwarded alone. -/
theorem State.intake_unused {s : State} {f : ReturnFrame} (h : s.usedNode f = none) (g : Frame) :
    (s.forwardUp g).intake f = s.forwardUp g := by
  unfold State.intake
  rw [State.usedNode_forwardUp, h]

/-- Settles O8: none of these frames does more than join the through queue. -/
theorem unusedAndBadFramesChangeNoState : Obligations.UnusedAndBadFramesChangeNoState := by
  unfold Obligations.UnusedAndBadFramesChangeNoState
  refine ⟨fun p bytes s => rfl, fun s f hp h => ?_, fun s f hp hwf => ?_⟩
  · rw [exec_returnFrame hp, State.intake_unused (State.usedNode_none h), State.forwardUp_eq]
  · rw [← State.forwardUp_eq]
    exact (State.whenPowered_on _ _ hp).trans (congrArg _ (if_pos hwf))

/-! ## The value of a used return (R80) -/

/-- The feedback value that a used return writes. -/
def DriveEntry.returned (d : DriveEntry) (f : ReturnFrame) (cycle : Word16) : Feedback where
  rawSpeed := f.speed.toInt
  rawLoad := f.load.toInt
  status := f.status.setWidth 5
  calibratedSpeed := clampTo (-8388607) 8388607 (roundDiv ((d.direction.sign * f.speed.toInt - d.offset) * d.gain) 16384)
  signedLoad := clampTo (-32768) 32767 (d.direction.sign * f.load.toInt)
  cycle := cycle
  source := some .link
  fresh := true
  missing := d.feedback.missing
  ever := true

/-- The entry with the value written. -/
theorem DriveEntry.take_returned (d : DriveEntry) (f : ReturnFrame) (cycle : Word16) :
    d.take f.speed.toInt f.load.toInt (statusOfByte f.status) cycle .link = { d with feedback := d.returned f cycle } := by
  unfold DriveEntry.take DriveEntry.returned DriveEntry.calibrate DriveEntry.signLoad
  rw [Direction.sign_mul, Direction.sign_mul]
  rfl

/-- The intake of a used return is the value written and the work that follows it (R80, R81). -/
theorem State.intake_used {s : State} {f : ReturnFrame} {n : NodeId} (h : s.usedNode f = some n) : s.intake f =
    (s.modDrive n fun d => { d with feedback := (s.drive n).returned f s.cycle }).afterFeedback n .drive := by
  have hvalue : s.modDrive n (fun d => d.take f.speed.toInt f.load.toInt (statusOfByte f.status) s.cycle .link) =
      s.modDrive n fun d => { d with feedback := (s.drive n).returned f s.cycle } :=
    State.modDrive_congr ((s.drive n).take_returned f s.cycle)
  unfold State.intake
  rw [h, ← hvalue]
  rfl

/-! ## The work that follows keeps the values -/

/-- The look of the watch points leaves the Drive Map. -/
theorem Later.feedbackSeen (s : State) (n : NodeId) (src : OccurrenceSource) : Later s (s.feedbackSeen n src) := by
  refine foldlOn Watched.state _ (fun b w => ?_) watchIds ⟨s, []⟩
  rw [if_neg (by simp)]
  unfold Watched.point
  dsimp only
  split
  · split
    · exact refl _
    · exact occurrence ..
  · exact refl _

/-- The work that follows a feedback value leaves every feedback value (R81). -/
theorem State.feedback_afterFeedback (s : State) (n : NodeId) (src : OccurrenceSource) (m : NodeId) :
    ((s.afterFeedback n src).drive m).feedback = (s.drive m).feedback := by
  cases hsec : (s.drive n).inSection with
  | some i => exact (Within.afterFeedback hsec src).feedback m
  | none =>
    unfold State.afterFeedback
    rw [hsec]
    exact congrArg DriveEntry.feedback (State.drive_of_eq (Later.feedbackSeen s n src).drives m)

/-- A value written for a node with the work that follows leaves who is a member of what, the configuration and the directions. -/
theorem Stable.valueFollowed (s : State) (n : NodeId) (fb : Feedback) (src : OccurrenceSource) :
    Stable s ((s.modDrive n fun d => { d with feedback := fb }).afterFeedback n src) :=
  (modDrive s n (fun d => { d with feedback := fb }) fun _ => ⟨rfl, rfl⟩).trans (afterFeedback _ n src)

/-- After a value was written for a node and the work done that follows, the node has that value and the other nodes have theirs. -/
theorem State.feedback_valueFollowed (s : State) (n : NodeId) (fb : Feedback) (src : OccurrenceSource) (m : NodeId) :
    (((s.modDrive n fun d => { d with feedback := fb }).afterFeedback n src).drive m).feedback =
      if m = n then fb else (s.drive m).feedback := by
  rw [State.feedback_afterFeedback, State.drive_modDrive, apply_ite DriveEntry.feedback]

/-- Settles O7: the return is forwarded, its value written, and the work that follows keeps all but what R81 gives it. -/
theorem usedReturnWritesFeedback : Obligations.UsedReturnWritesFeedback := by
  unfold Obligations.UsedReturnWritesFeedback
  intro s f n hp hopen hcycle hnode hstation
  have hused : (s.forwardUp (.ret f)).usedNode f = some n :=
    (s.usedNode_forwardUp _ f).trans ((s.usedNode_eq_some f n).2 ⟨hopen, hcycle, hnode, hstation⟩)
  have hexec := (exec_returnFrame hp f).trans (congrArg _ (State.intake_used hused))
  rw [State.drive_forwardUp, State.cycle_forwardUp] at hexec
  refine ⟨_, hexec, ?_⟩
  have hfollowed := FeedbackFollowed.of_afterFeedback
    ((s.forwardUp (.ret f)).modDrive n fun d => { d with feedback := (s.drive n).returned f s.cycle }) n .drive
  have hstable := Stable.valueFollowed (s.forwardUp (.ret f)) n ((s.drive n).returned f s.cycle) .drive
  have hvalue := (s.forwardUp (.ret f)).feedback_valueFollowed n ((s.drive n).returned f s.cycle) .drive
  generalize ((s.forwardUp (.ret f)).modDrive n fun d => { d with
    feedback := (s.drive n).returned f s.cycle }).afterFeedback n .drive = t at *
  have hthrough : t.throughQueue = (s.forwardUp (.ret f)).throughQueue := (congrArg State.throughQueue hstable.frame :)
  have hready : t.readyCount = (s.forwardUp (.ret f)).readyCount := (congrArg State.readyCount hstable.frame :)
  have hframe := hstable.frame
  rw [State.forwardUp_frame, ← hthrough, ← hready] at hfollowed hframe
  have hmap (m : NodeId) := State.drive_forwardUp s (.ret f) m ▸ hstable.map m
  have hsections (i : SecId) : t.members i = s.members i ∧ (t.sec i).cfg = (s.sec i).cfg := by
    obtain ⟨hmembers, hcfg, _⟩ := hstable.sec i
    have hsec := State.sec_forwardUp s (.ret f) i
    exact ⟨hmembers.trans (congrArg Section.members hsec), hcfg.trans (congrArg Section.cfg hsec)⟩
  refine ⟨(hvalue n).trans (if_pos rfl), hfollowed, fun m hm => ?_, hmap, hthrough.trans (s.throughQueue_forwardUp _),
    hready.trans (s.readyCount_forwardUp _), hsections, hframe⟩
  rw [hvalue, if_neg hm, State.drive_forwardUp]

end Sys2Proof.Machine
end

section
/-! PROOFS. The tie calibration (R87 to R94): its end, the engine at a dispatch, at a complete set and at a skipped one, and the values that a
finished calibration computes and writes. -/

namespace Sys2Proof.Machine

/-! ## The end of a calibration (R94) -/

/-- The calibration of section i, which holds the engine in s, has ended in t with a result: the section is in RELEASING with target SELECTED
and the held offsets of R57, the engine is free, and CAL_RESULT is posted before STATE_CHANGE. -/
structure CalibrationEnded (s t : State) (i : SecId) (result : CalResult) : Prop where
  state : (t.sec i).state = .releasing
  target : (t.sec i).releaseTarget = some .selected
  engine : t.engine = Engine.free
  held : ∀ r ∈ s.members i, t.member r = { s.member r with held := (s.member r).issued - (s.sec i).issueBase }
  posted : Posted (s.postCalResult i result) t .stateChange (some i) none none (some 5) 8

/-- A CAL_RESULT event leaves the cycle number. -/
theorem State.cycle_postCalResult (s : State) (i : SecId) (result : CalResult) : (s.postCalResult i result).cycle = s.cycle := by
  cases result <;> exact State.cycle_post ..

/-- Entry to RELEASING ends the calibration of the holder, told from a state that differs in engine counts and Drive Map alone. -/
theorem CalibrationEnded.of_enterReleasing (s : State) {i : SecId} {e : Engine} (h : e.holder = some i) (drives : Vector DriveEntry 62)
    (result : CalResult) :
    let t := State.enterReleasing { s with engine := e, drives := drives } i .selected .calDone result none none
    CalibrationEnded s t i result ∧ t.drives = drives := by
  intro t
  obtain ⟨hframe, hself, _, hmember, hengine⟩ :=
    State.enterReleasing_spec { s with engine := e, drives := drives } i .selected .calDone result none none
  obtain ⟨hevents, hnext⟩ := State.enterReleasing_events { s with engine := e, drives := drives } i .selected .calDone result none none
  rw [if_pos h] at hengine hevents hnext
  obtain ⟨hresult, hnumber⟩ := State.postCalResult_congr (s := { s with engine := e, drives := drives }) (t := s) rfl rfl rfl i result
  obtain ⟨hpost, hpostNext⟩ := State.post_congr hresult hnumber .stateChange (some i) none none s.cycle (some (5 : Int)) 8
  refine ⟨⟨congrArg Section.state hself, congrArg Section.releaseTarget hself, hengine,
    fun r hr => (hmember r).trans (if_pos hr), ?_⟩, hframe.tables.1⟩
  unfold Posted
  rw [State.cycle_postCalResult]
  exact ⟨hevents.trans hpost, hnext.trans hpostNext⟩

/-! ## The engine at a dispatch (R88, R89) -/

/-- The engine's work for a holder in CALIBRATING. -/
theorem State.engineDispatch_holder {s : State} {i : SecId} (h : s.engine.holder = some i) (hc : (s.sec i).state = .calibrating) :
    s.engineDispatch =
      if (s.sec i).cfg.crawlLimit < (s.sec i).lineReference.natAbs then
        s.enterReleasing i .selected .calDone (.abandoned .lineSpeed) none none
      else { s with engine := s.engine.settle (s.sec i).cfg.settleCycles } := by
  unfold State.engineDispatch
  rw [h]
  exact if_pos hc

/-- A settle phase counts its dispatches. -/
theorem Engine.settle_counts {e : Engine} (h : e.phase = some .settleLow ∨ e.phase = some .settleHigh) {settleCycles : Nat}
    (hcount : e.settleCount < settleCycles) : e.settle settleCycles = { e with settleCount := e.settleCount + 1 } := by
  unfold Engine.settle
  rcases h with h | h <;> rw [h] <;> exact if_pos hcount

/-- SETTLE_LOW ends with SAMPLE_LOW. -/
theorem Engine.settle_low {e : Engine} (h : e.phase = some .settleLow) {settleCycles : Nat} (hcount : settleCycles ≤ e.settleCount) :
    e.settle settleCycles = { e with phase := some .sampleLow, sampleCount := 0, skipCount := 0 } := by
  unfold Engine.settle
  rw [h]
  exact if_neg (Nat.not_lt.2 hcount)

/-- SETTLE_HIGH ends with SAMPLE_HIGH. -/
theorem Engine.settle_high {e : Engine} (h : e.phase = some .settleHigh) {settleCycles : Nat} (hcount : settleCycles ≤ e.settleCount) :
    e.settle settleCycles = { e with phase := some .sampleHigh, sampleCount := 0, skipCount := 0 } := by
  unfold Engine.settle
  rw [h]
  exact if_neg (Nat.not_lt.2 hcount)

/-- A sample phase counts no dispatches. -/
theorem Engine.settle_sampling {e : Engine} (h : e.phase = some .sampleLow ∨ e.phase = some .sampleHigh) (settleCycles : Nat) :
    e.settle settleCycles = e := by
  unfold Engine.settle
  rcases h with h | h <;> rw [h]

/-! ## The engine at a set of its holder (R90, R91) -/

/-- A follower's sample, in the words of the statements. -/
theorem State.followerSample_eq (s : State) (i : SecId) (j : Nat) : s.followerSample i j =
    match (s.members i)[j + 1]? with
    | some r => (s.memberDirection r).sign * (s.memberFeedback r).rawSpeed
    | none => 0 := by
  unfold State.followerSample
  cases (s.members i)[j + 1]? with
  | none => rfl
  | some r => exact (Direction.sign_mul ..).symm

/-- The engine with a set of section i added to the sums of the low point. -/
def State.sampledLow (s : State) (i : SecId) : Engine := { s.engine with
  leadLow := s.engine.leadLow + s.leadSample i
  followerLow := s.addFollowers i s.engine.followerLow
  sampleCount := s.engine.sampleCount + 1 }

/-- The engine with a set of section i added to the sums of the high point. -/
def State.sampledHigh (s : State) (i : SecId) : Engine := { s.engine with
  leadHigh := s.engine.leadHigh + s.leadSample i
  followerHigh := s.addFollowers i s.engine.followerHigh
  sampleCount := s.engine.sampleCount + 1 }

/-- The holder's complete set is sampled. -/
theorem State.engineTakes_holder {s : State} {i : SecId} (h : s.engine.holder = some i) : s.engineTakes i true = s.sampleSet i :=
  if_pos ⟨h, rfl⟩

/-- A complete set in SAMPLE_LOW; the last one begins SETTLE_HIGH. -/
theorem State.sampleSet_low {s : State} {i : SecId} (hp : s.engine.phase = some .sampleLow) : s.sampleSet i =
    if s.samplesPerPoint i ≤ s.engine.sampleCount + 1 then
      { s with engine := { s.sampledLow i with phase := some .settleHigh, settleCount := 0 } }
    else { s with engine := s.sampledLow i } := by
  unfold State.sampleSet
  rw [hp]
  rfl

/-- A complete set in SAMPLE_HIGH; the last one computes. -/
theorem State.sampleSet_high {s : State} {i : SecId} (hp : s.engine.phase = some .sampleHigh) : s.sampleSet i =
    if s.samplesPerPoint i ≤ s.engine.sampleCount + 1 then
      State.finishCal { s with engine := { s.sampledHigh i with phase := some .compute } } i
    else { s with engine := s.sampledHigh i } := by
  unfold State.sampleSet
  rw [hp]
  rfl

/-- The sample phases. -/
theorem Engine.sampling_iff (e : Engine) : e.sampling = true ↔ e.phase = some .sampleLow ∨ e.phase = some .sampleHigh := by
  simp [Engine.sampling]

/-- Outside the sample phases no set is taken. -/
theorem State.sampleSet_other {s : State} (h : s.engine.sampling = false) (i : SecId) : s.sampleSet i = s := by
  have hphase : ¬ (s.engine.phase = some .sampleLow ∨ s.engine.phase = some .sampleHigh) := fun hp => by
    rw [(Engine.sampling_iff _).2 hp] at h; cases h
  unfold State.sampleSet
  split
  · next hp => exact absurd (.inl hp) hphase
  · next hp => exact absurd (.inr hp) hphase
  all_goals rfl

/-- Outside the sample phases no set is skipped. -/
theorem State.engineSkip_other {s : State} (h : s.engine.sampling = false) (i : SecId) : s.engineSkip i = s :=
  if_neg fun ⟨_, _, hs⟩ => by rw [h] at hs; cases hs

/-- A set of the holder that is skipped in a sample phase. -/
theorem State.engineSkip_holder {s : State} {i : SecId} (h : s.engine.holder = some i) (hc : (s.sec i).state = .calibrating)
    (hs : s.engine.sampling = true) : s.engineSkip i =
      if s.samplesPerPoint i < s.engine.skipCount + 1 then
        State.enterReleasing { s with engine := { s.engine with skipCount := s.engine.skipCount + 1 } } i .selected .calDone
          (.abandoned .feedback) none none
      else { s with engine := { s.engine with skipCount := s.engine.skipCount + 1 } } := by
  unfold State.engineSkip
  exact if_pos ⟨h, hc, hs⟩

/-- A section that does not hold the engine has no set taken or skipped. -/
theorem State.engine_notHolder {s : State} {j : SecId} (h : s.engine.holder ≠ some j) (complete : Bool) :
    s.engineTakes j complete = s ∧ s.engineSkip j = s :=
  ⟨if_neg fun hj => h hj.1, if_neg fun hj => h hj.1⟩

/-- Settles O22: the engine at a dispatch by the crawl limit and the phase, at a set by the phase and the counts. -/
theorem engineSettlesOrAbandons : Obligations.EngineSettlesOrAbandons := by
  unfold Obligations.EngineSettlesOrAbandons
  intro s i h x e points abandoned leadSpeed followerSpeed added low high
  have habandoned {f : Engine} (hf : f.holder = some i) (why : Abandon) :
      abandoned (State.enterReleasing { s with engine := f } i .selected .calDone (.abandoned why) none none) why.code := by
    obtain ⟨hended, hdrives⟩ := CalibrationEnded.of_enterReleasing s hf s.drives (.abandoned why)
    exact ⟨hended.state, hended.target, hended.engine, hdrives, hended.held, hended.posted⟩
  have hadded (sums : Vector Int 3) : added sums = s.addFollowers i sums := by
    have hfollower : s.followerSample i = followerSpeed := funext (s.followerSample_eq i)
    unfold State.addFollowers
    rw [hfollower]
  have hlow : low = s.sampledLow i := by
    unfold State.sampledLow
    rw [← hadded]
    rfl
  have hhigh : high = s.sampledHigh i := by
    unfold State.sampledHigh
    rw [← hadded]
    rfl
  have htakes := State.engineTakes_holder h
  refine ⟨fun hc hline => ?_, fun hc hline => ?_, fun hp hn => ?_, fun hp hn => ?_, fun hp hn => ?_, fun hp hn => ?_, fun h1 h2 => ?_,
    ⟨if_neg (by simp), fun j complete hj => State.engine_notHolder (by rw [h]; simpa using hj.symm) complete⟩, fun hc hp => ?_⟩
  · rw [State.engineDispatch_holder h hc, if_pos hline]
    exact habandoned h .lineSpeed
  · rw [State.engineDispatch_holder h hc, if_neg (not_lt.2 hline)]
    refine ⟨fun hp hn => ?_, fun hp hn => ?_, fun hp hn => ?_, fun hp => ?_⟩
    · rw [Engine.settle_counts hp hn]
    · rw [Engine.settle_low hp hn]
    · rw [Engine.settle_high hp hn]
    · rw [Engine.settle_sampling hp]
  · rw [htakes, hlow]
    exact (State.sampleSet_low hp).trans (if_neg (not_le.2 hn))
  · rw [htakes, hlow]
    exact (State.sampleSet_low hp).trans (if_pos hn)
  · rw [htakes, hhigh]
    exact (State.sampleSet_high hp).trans (if_neg (not_le.2 hn))
  · rw [htakes, hhigh]
    exact (State.sampleSet_high hp).trans (if_pos hn)
  · have hs : s.engine.sampling = false := Bool.eq_false_iff.2 fun hs => ((Engine.sampling_iff _).1 hs).elim h1 h2
    exact ⟨htakes.trans (State.sampleSet_other hs i), State.engineSkip_other hs i⟩
  · rw [State.engineSkip_holder h hc ((Engine.sampling_iff _).2 hp)]
    refine ⟨fun hn => if_neg (not_lt.2 hn), fun hn => ?_⟩
    rw [if_pos (show s.samplesPerPoint i < s.engine.skipCount + 1 from hn)]
    exact habandoned (f := { s.engine with skipCount := s.engine.skipCount + 1 }) h .feedback

/-! ## The computation (R92) -/

/-- The calibration of one follower: its spread, then its gain and offset. -/
theorem followerCal_eq (n : NodeId) (p : Option Pos) (xl xh yl yh : Int) :
    let gain := roundDiv (16384 * (yh - yl)) (xh - xl)
    let offset := xl - roundDiv (yl * 16384) gain
    followerCal n p xl xh yl yh =
      if xh - xl < 1000 then .error (.spread n p (xh - xl))
      else if gain < 12288 ∨ 20480 < gain ∨ offset < -100000 ∨ 100000 < offset then .error (.range n p gain)
      else .ok ⟨n, gain, offset⟩ := by
  intro gain offset
  unfold followerCal
  by_cases hgain : gain < 12288 ∨ 20480 < gain
  · have hor : gain < 12288 ∨ 20480 < gain ∨ offset < -100000 ∨ 100000 < offset := hgain.imp_right .inl
    rw [if_pos hor]
    exact if_congr .rfl rfl (if_pos hgain)
  · have hor : (gain < 12288 ∨ 20480 < gain ∨ offset < -100000 ∨ 100000 < offset) ↔ offset < -100000 ∨ 100000 < offset := by
      rw [← or_assoc]; exact or_iff_right hgain
    simp only [hor]
    exact if_congr .rfl rfl (if_neg hgain)

/-- The average of a sum over the sets of one point. -/
def State.average (s : State) (i : SecId) (total : Int) : Int := roundDiv total (2 ^ (s.sec i).cfg.sampleExponent)

/-- The calibration of the follower whose sums stand at place j. -/
def State.followerAt (s : State) (i : SecId) (j : Nat) (r : RecId) : Except CalResult CalValues :=
  followerCal (s.memberNode r) (s.member r).position (s.average i (s.engine.followerLow.toList.getD j 0))
    (s.average i (s.engine.followerHigh.toList.getD j 0)) (s.average i s.engine.leadLow) (s.average i s.engine.leadHigh)

/-- COMPUTE: the lead's spread, then the followers. -/
theorem State.computeCal_eq {s : State} {i : SecId} {lead : RecId} {followers : List RecId} (h : s.members i = lead :: followers) :
    let yl := s.average i s.engine.leadLow
    let yh := s.average i s.engine.leadHigh
    s.computeCal i = if yh - yl < 1000 then .error (.spread (s.memberNode lead) (s.member lead).position (yh - yl))
      else s.followersCal (2 ^ (s.sec i).cfg.sampleExponent) yl yh followers 0 := by
  have hpoint : ((s.samplesPerPoint i : Nat) : Int) = 2 ^ (s.sec i).cfg.sampleExponent := by
    unfold State.samplesPerPoint; push_cast; rfl
  unfold State.computeCal
  rw [h, hpoint]
  rfl

/-- The values computed name the followers' nodes in order. -/
theorem State.computeCal_nodes {s : State} {i : SecId} {vs : List CalValues} (h : s.computeCal i = .ok vs) :
    vs.map CalValues.node = (s.members i).tail.map s.memberNode := by
  cases hmembers : s.members i with
  | nil =>
    unfold State.computeCal at h
    rw [hmembers] at h
    cases h
    rfl
  | cons lead followers =>
    rw [State.computeCal_eq hmembers] at h
    split at h
    · cases h
    · exact s.followersCal_nodes _ _ _ followers 0 vs h

/-- The first follower that fails gives the result. -/
theorem State.computeCal_error {s : State} {i : SecId} {lead : RecId} {followers : List RecId} (h : s.members i = lead :: followers)
    (hspread : 1000 ≤ s.average i s.engine.leadHigh - s.average i s.engine.leadLow) {j : Nat} {r : RecId} {why : CalResult}
    (hj : followers[j]? = some r) (hfails : s.followerAt i j r = .error why)
    (hbefore : ∀ k q, k < j → followers[k]? = some q → ∃ v, s.followerAt i k q = .ok v) : s.computeCal i = .error why := by
  rw [State.computeCal_eq h, if_neg (not_lt.2 hspread)]
  refine s.followersCal_error _ _ _ why (s.followerAt i) (fun _ _ => rfl) followers 0 j r hj ?_ fun k q hk hq => ?_
  · rwa [Nat.zero_add]
  · rw [Nat.zero_add]
    exact hbefore k q hk hq

/-- Where every follower has its values, they are the result. -/
theorem State.computeCal_ok {s : State} {i : SecId} {lead : RecId} {followers : List RecId} (h : s.members i = lead :: followers)
    (hspread : 1000 ≤ s.average i s.engine.leadHigh - s.average i s.engine.leadLow) {vs : List CalValues}
    (hlength : vs.length = followers.length)
    (hall : ∀ j r, followers[j]? = some r → ∃ v, vs[j]? = some v ∧ s.followerAt i j r = .ok v) : s.computeCal i = .ok vs := by
  rw [State.computeCal_eq h, if_neg (not_lt.2 hspread)]
  refine s.followersCal_ok _ _ _ (s.followerAt i) (fun _ _ => rfl) followers 0 vs hlength fun j r hj => ?_
  rw [Nat.zero_add]
  exact hall j r hj

/-! ## The writing of the result (R93) -/

/-- A result OK writes its values and ends the calibration. -/
theorem State.finishCal_ok {s : State} {i : SecId} (hi : s.engine.holder = some i) {vs : List CalValues} (h : s.computeCal i = .ok vs) :
    CalibrationEnded s (s.finishCal i) i (.ok vs.length) ∧ (s.finishCal i).drives = (s.writeCal vs).drives := by
  unfold State.finishCal
  rw [h]
  dsimp only
  rw [State.writeCal_frame]
  exact CalibrationEnded.of_enterReleasing s hi (s.writeCal vs).drives (.ok vs.length)

/-- Any other result ends the calibration alone. -/
theorem State.finishCal_error {s : State} {i : SecId} (hi : s.engine.holder = some i) {why : CalResult}
    (h : s.computeCal i = .error why) : CalibrationEnded s (s.finishCal i) i why ∧ (s.finishCal i).drives = s.drives := by
  unfold State.finishCal
  rw [h]
  exact CalibrationEnded.of_enterReleasing s hi s.drives why

/-- A calibration ends whatever its result. -/
theorem State.finishCal_ended {s : State} {i : SecId} (hi : s.engine.holder = some i) :
    ∃ result, CalibrationEnded s (s.finishCal i) i result := by
  cases h : s.computeCal i with
  | ok vs => exact ⟨_, (State.finishCal_ok hi h).1⟩
  | error why => exact ⟨_, (State.finishCal_error hi h).1⟩

/-- The nodes that a result OK names differ (R9). -/
theorem MembersConsistent.nodup_calibrated {s : State} (hm : MembersConsistent s) {i : SecId} {vs : List CalValues}
    (h : s.computeCal i = .ok vs) : (vs.map CalValues.node).Nodup := by
  rw [State.computeCal_nodes h, List.map_tail]
  exact (hm.nodup_nodes i).tail

/-- Settles O23: the end by the result, the result by the averages, a follower's result by the formulas. -/
theorem calibrationWritesAllOrNothing : Obligations.CalibrationWritesAllOrNothing := by
  unfold Obligations.CalibrationWritesAllOrNothing
  refine ⟨fun s i hi hm => ?_, fun s i lead followers hmembers hlength => ?_, followerCal_eq⟩
  · obtain ⟨_, hended⟩ := State.finishCal_ended hi
    refine ⟨⟨hended.state, hended.target, hended.engine⟩, fun why hwhy => ?_, fun vs hvs => ?_⟩
    · obtain ⟨herror, hdrives⟩ := State.finishCal_error hi hwhy
      exact ⟨hdrives, herror.posted⟩
    · obtain ⟨hok, hdrives⟩ := State.finishCal_ok hi hvs
      have hdrive (n : NodeId) : (s.finishCal i).drive n = (s.writeCal vs).drive n := State.drive_of_eq hdrives n
      exact ⟨State.computeCal_nodes hvs,
        fun v hv => (hdrive _).trans (State.drive_writeCal_mem vs s (hm.nodup_calibrated hvs) v hv),
        fun n hn => (hdrive n).trans (State.drive_writeCal_other n vs s hn), hok.posted⟩
  · intro average yl yh follower
    have hfollower (j : Fin 3) (r : RecId) : s.followerAt i j r = follower j r := by
      have hget (sums : Vector Int 3) : sums.toList.getD j 0 = sums[j] := by simp
      unfold State.followerAt
      rw [hget, hget]
      rfl
    refine ⟨fun hspread => ?_, fun hspread j r why hj hfails hbefore => ?_, fun hspread vs hlen hall => ?_⟩
    · exact (State.computeCal_eq hmembers).trans (if_pos hspread)
    · refine State.computeCal_error hmembers hspread hj ((hfollower j r).trans hfails) fun k q hk hq => ?_
      obtain ⟨v, hv⟩ := hbefore ⟨k, hk.trans j.isLt⟩ q hk hq
      exact ⟨v, (hfollower ⟨k, hk.trans j.isLt⟩ q).trans hv⟩
    · refine State.computeCal_ok hmembers hspread hlen fun j r hj => ?_
      have hplace : j < 3 := (List.getElem?_eq_some_iff.1 hj).1.trans_le hlength
      obtain ⟨v, hv, hok⟩ := hall ⟨j, hplace⟩ r hj
      exact ⟨v, hv, (hfollower ⟨j, hplace⟩ r).trans hok⟩

end Sys2Proof.Machine
end

section
/-! PROOFS. The Profile Generator (R102 to R110): the offsets of a segment, one cycle on, the end of a segment and the end of a pass. -/

namespace Sys2Proof.Machine

/-! ## The offsets of a segment (R2, R104) -/

/-- Rounding is odd: halves go away from zero on both sides (R2). -/
theorem roundDiv_neg (a : Int) {b : Int} (hb : 0 < b) : roundDiv (-a) b = -roundDiv a b := by
  have hzero : (2 * 0 + b) / (2 * b) = 0 := Int.ediv_eq_zero_of_lt (by omega) (by omega)
  unfold roundDiv
  obtain ha | rfl | ha := lt_trichotomy a 0
  · rw [if_pos (by omega), if_neg (by omega), neg_neg]
  · simp only [neg_zero, le_refl, if_true, hzero]
  · rw [if_neg (by omega), if_pos ha.le, neg_neg]

/-- The rounding of a quotient that is not negative, times the divisor, is at most half the divisor away, and above it in a tie (R2). -/
theorem roundDiv_mul_bounds {a b : Int} (ha : 0 ≤ a) (hb : 0 < b) :
    2 * a - b < 2 * (roundDiv a b * b) ∧ 2 * (roundDiv a b * b) ≤ 2 * a + b := by
  have hdiv := Int.mul_ediv_add_emod (2 * a + b) (2 * b)
  have hlow := Int.emod_nonneg (2 * a + b) (b := 2 * b) (by omega)
  have hhigh := Int.emod_lt_of_pos (2 * a + b) (b := 2 * b) (by omega)
  have hmul : 2 * b * ((2 * a + b) / (2 * b)) = 2 * ((2 * a + b) / (2 * b) * b) := by ring
  unfold roundDiv
  rw [if_pos ha]
  omega

/-- Rounding finds the integer nearest to the quotient, the one further from zero in a tie (R2). -/
theorem roundDiv_nearest (a : Int) {b : Int} (hb : 0 < b) :
    2 * (roundDiv a b * b - a).natAbs ≤ b ∧
      (2 * (roundDiv a b * b - a).natAbs = b → a.natAbs < (roundDiv a b * b).natAbs) := by
  obtain ha | ha := le_total 0 a
  · have := roundDiv_mul_bounds ha hb
    omega
  · have hneg : roundDiv (-a) b * b = -(roundDiv a b * b) := by rw [roundDiv_neg a hb, neg_mul]
    have := roundDiv_mul_bounds (a := -a) (by omega) hb
    omega

/-- A quotient without remainder is itself (R2). -/
theorem roundDiv_mul_self (v : Int) {b : Int} (hb : 0 < b) : roundDiv (v * b) b = v := by
  have hdiff : roundDiv (v * b) b * b - v * b = (roundDiv (v * b) b - v) * b := by ring
  have hnear := (roundDiv_nearest (v * b) hb).1
  rw [hdiff, Int.natAbs_mul] at hnear
  have hzero : (roundDiv (v * b) b - v).natAbs = 0 := by
    by_contra h
    have := Nat.mul_le_mul_right b.natAbs (Nat.one_le_iff_ne_zero.2 h)
    omega
  omega

/-- Settles O19, kind by kind: a RAMP's exact value over the segment's length, rounded. -/
theorem profileOffsetOfEachSegmentKind : Obligations.ProfileOffsetOfEachSegmentKind := by
  unfold Obligations.ProfileOffsetOfEachSegmentKind
  intro g ps k h1 hk
  have hlength : (0 : Int) < g.length := by omega
  unfold Segment.offsetAt Segment.rawOffset saturate
  refine ⟨?level, fun hkind => ?ramp, fun hkind => ?square⟩
  case level => rintro (hkind | hkind) <;> rw [hkind]
  case ramp =>
    rw [hkind]
    obtain ⟨hnear, htie⟩ := roundDiv_nearest (ps * g.length + (g.level - ps) * k) hlength
    refine ⟨roundDiv (ps * g.length + (g.level - ps) * k) g.length, rfl, by omega, fun h => htie (by omega), fun hend => ?_⟩
    have hlevel : ps * g.length + (g.level - ps) * k = g.level * g.length := by rw [hend]; ring
    rw [hlevel, roundDiv_mul_self _ hlength]
  case square =>
    have hhalf : k ≤ (g.length + 1) / 2 ↔ 2 * k ≤ g.length + 1 := by omega
    rw [hkind]
    simp only [hhalf]

/-! ## One section's record put in place -/

/-- s with the record x at section i. -/
def State.setSec (s : State) (i : SecId) (x : Section) : State := s.modSec i fun _ => x

/-- The record that was put in place is read back. -/
theorem State.sec_setSec (s : State) (i : SecId) (x : Section) : (s.setSec i x).sec i = x := s.sec_modSec_self i _

/-- The other sections stay. -/
theorem State.sec_setSec_ne (s : State) {i j : SecId} (h : j ≠ i) (x : Section) : (s.setSec i x).sec j = s.sec j := s.sec_modSec_ne h _

/-- A record put in place of another is a change of that one. -/
theorem State.modSec_setSec (s : State) (i : SecId) (x : Section) (f : Section → Section) :
    (s.setSec i x).modSec i f = s.setSec i (f x) :=
  s.modSec_modSec i _ f

/-- A change of the profile position of a record put in place. -/
theorem State.modProfile_setSec (s : State) (i : SecId) (x : Section) (f : ProfilePosition → ProfilePosition) :
    (s.setSec i x).modProfile i f = s.setSec i { x with profile := f x.profile } := s.modSec_setSec i x _

/-- A trigger signal leaves the record put in place. -/
theorem State.signal_setSec (s : State) (i : SecId) (x : Section) (k : TriggerKind) (y : Nat) :
    (s.setSec i x).signal k y = (s.signal k y).setSec i x := by
  have hsections : (s.signal k y).sections = s.sections := by rw [State.signal_frame]
  unfold State.setSec State.modSec
  rw [State.signal_sections, hsections]

/-- An event leaves the record put in place. -/
theorem State.post_setSec (s : State) (i : SecId) (x : Section) (k : EventKind) (a : Option SecId) (n : Option NodeId) (p : Option Pos)
    (c : Word16) (v : Option Int) (d : Nat) : (s.setSec i x).post k a n p c v d = (s.post k a n p c v d).setSec i x := by
  have hsections : (s.post k a n p c v d).sections = s.sections := by rw [State.post_frame]
  unfold State.setSec State.modSec
  rw [State.post_sections, hsections]

/-- A trigger signal leaves the Segment Table. -/
theorem State.segment_signal (s : State) (k : TriggerKind) (y j : Nat) : (s.signal k y).segment j = s.segment j := by
  rw [State.signal_frame]
  rfl

/-- A trigger signal leaves the cycle number. -/
theorem State.cycle_signal (s : State) (k : TriggerKind) (y : Nat) : (s.signal k y).cycle = s.cycle := by
  rw [State.signal_frame]

/-! ## The moves of a profile position (R106, R108) -/

/-- What a segment's end leaves of P, by the kinds that return it (R106 step 1). -/
theorem Segment.returned_eq (g : Segment) (q : ProfilePosition) :
    g.returned q = if g.kind = .step ∨ g.kind = .square then q.startOffset else q.offset := by
  unfold Segment.returned
  split <;> simp [*]

/-- Moved to segment idx, which is g, of pass pass with Ps = p (R106 step 4, R110). -/
def ProfilePosition.entering (q : ProfilePosition) (idx pass : Nat) (p : Int) (g : Segment) : ProfilePosition :=
  { q with
    segmentIndex := idx
    pass := pass
    startOffset := p
    cycleCount := if q.stepPending then 0 else 1
    offset := if q.stepPending then p else g.offsetAt p 1 }

/-- Finished, with P held at p (R108). -/
def ProfilePosition.stopped (q : ProfilePosition) (p : Int) : ProfilePosition := { q with finished := true, offset := p }

/-- The gate was found open (R103). -/
def Section.gateOpened (x : Section) : Section := { x with profile := { x.profile with gateClosed := 0 } }

/-- The monitor's part of a segment boundary (R124). -/
def Section.atBoundary (x : Section) : Section := { x with monitor := { x.monitor with zeroCross := 0, fired := false } }

/-- The segment boundary of a record put in place. -/
theorem State.signalBoundary_setSec (s : State) (i : SecId) (x : Section) :
    (s.setSec i x).signalBoundary i = (s.signal .segmentBoundary i.val).setSec i x.atBoundary := by
  unfold State.signalBoundary State.modMonitor
  rw [State.modSec_setSec, State.signal_setSec]
  rfl

/-- The next segment of a record put in place. -/
theorem State.nextSegment_setSec (s : State) (i : SecId) (x : Section) (idx pass : Nat) (p : Int) :
    (s.setSec i x).nextSegment i idx pass p =
      ⟨s.setSec i { x with profile := x.profile.entering idx pass p (s.segment (x.cfg.profileStart + idx)) },
        stepDoneRequest i x.profile.stepPending⟩ := by
  unfold State.nextSegment
  rw [State.sec_setSec]
  dsimp only
  rw [State.modProfile_setSec]
  rfl

/-- The end action HOLD on a record put in place (R108). -/
theorem State.endProfile_hold (s : State) (i : SecId) {x : Section} (h : x.cfg.endAction = .hold) (p : Int) :
    (s.setSec i x).endProfile i p = ⟨(s.postProfileEnd i p .hold).setSec i { x with profile := x.profile.stopped p },
      stepDoneRequest i x.profile.stepPending⟩ := by
  unfold State.endProfile State.postProfileEnd
  rw [State.sec_setSec, h]
  dsimp only
  rw [State.modProfile_setSec, State.post_setSec]
  rfl

/-- The end action RELEASE on a record put in place (R108). -/
theorem State.endProfile_release (s : State) (i : SecId) {x : Section} (h : x.cfg.endAction = .release) (p : Int) :
    (s.setSec i x).endProfile i p = ⟨(s.postProfileEnd i p .release).setSec i { x with profile := x.profile.stopped p },
      [.release i .profileEnd]⟩ := by
  unfold State.endProfile State.postProfileEnd
  rw [State.sec_setSec, h]
  dsimp only
  rw [State.modProfile_setSec, State.post_setSec]
  rfl

/-- The end action RELOAD on a record put in place (R108). -/
theorem State.endProfile_reload (s : State) (i : SecId) {x : Section} (h : x.cfg.endAction = .reload) (p : Int) :
    (s.setSec i x).endProfile i p = ⟨(s.postProfileEnd i p .reload).setSec i
      { x with profile := x.profile.entering 0 0 p (s.segment x.cfg.profileStart) }, stepDoneRequest i x.profile.stepPending⟩ := by
  unfold State.endProfile State.postProfileEnd
  rw [State.sec_setSec, h]
  dsimp only
  rw [State.post_setSec, State.nextSegment_setSec, State.segment_post]
  rfl

/-- The end of a segment of a record put in place, by what follows it (R106, R107). -/
theorem State.endSegment_setSec (s : State) (i : SecId) (x : Section) :
    let p := (s.segment (x.cfg.profileStart + x.profile.segmentIndex)).returned x.profile
    let t := (s.signal .segmentBoundary i.val).setSec i x.atBoundary
    (s.setSec i x).endSegment i =
      if x.profile.segmentIndex + 1 < x.cfg.profileLength then t.nextSegment i (x.profile.segmentIndex + 1) x.profile.pass p
      else if x.profile.pass < x.cfg.repeatCount then t.nextSegment i 0 (x.profile.pass + 1) p
      else t.endProfile i p := by
  unfold State.endSegment State.currentSegment
  simp only [State.signalBoundary_setSec, State.sec_setSec]
  rfl

/-- Every end action posts PROFILE_END and puts a record in place (R108, R109). -/
theorem State.endProfile_setSec (s : State) (i : SecId) (x : Section) (p : Int) :
    ∃ y, ((s.setSec i x).endProfile i p).state = (s.postProfileEnd i p x.cfg.endAction).setSec i y := by
  cases h : x.cfg.endAction with
  | hold => exact ⟨_, congrArg Advanced.state (s.endProfile_hold i h p)⟩
  | reload => exact ⟨_, congrArg Advanced.state (s.endProfile_reload i h p)⟩
  | release => exact ⟨_, congrArg Advanced.state (s.endProfile_release i h p)⟩

/-! ## The advance (R102) -/

section Advance

variable {s : State} {i : SecId}

/-- A section in another state, or with a finished profile, is not advanced. -/
theorem State.advanceProfile_idle (h : (s.sec i).state ≠ .trial ∨ (s.sec i).profile.finished = true) :
    s.advanceProfile i = ⟨s, []⟩ := if_pos h

/-- A closed gate holds the position (R103). -/
theorem State.advanceProfile_closed (hstate : (s.sec i).state = .trial) (hfin : (s.sec i).profile.finished = false)
    (hgate : s.gateOpen i = false) : s.advanceProfile i = s.gateClosed i := by
  simp [State.advanceProfile, hstate, hfin, hgate]

/-- An open gate clears the gate-closed count; the segment goes one cycle on, or ends. -/
theorem State.advanceProfile_open (hstate : (s.sec i).state = .trial) (hfin : (s.sec i).profile.finished = false)
    (hgate : s.gateOpen i = true) :
    let q := (s.sec i).profile
    let g := s.segment ((s.sec i).cfg.profileStart + q.segmentIndex)
    s.advanceProfile i =
      if q.cycleCount < g.length then
        ⟨s.setSec i { s.sec i with profile := { q with
          gateClosed := 0, cycleCount := q.cycleCount + 1, offset := g.offsetAt q.startOffset (q.cycleCount + 1) } }, []⟩
      else (s.setSec i (s.sec i).gateOpened).endSegment i := by
  have hadvance : s.advanceProfile i = s.gatedAdvance i := by simp [State.advanceProfile, hstate, hfin, hgate]
  have hopened : (s.modProfile i fun q => { q with gateClosed := 0 }) = s.setSec i (s.sec i).gateOpened := rfl
  rw [hadvance]
  unfold State.gatedAdvance State.currentSegment
  rw [hopened]
  simp only [State.sec_setSec, State.modProfile_setSec]
  rfl

/-- An open gate at the last cycle ends the segment (R106, R107). -/
theorem State.advanceProfile_ends (hstate : (s.sec i).state = .trial) (hfin : (s.sec i).profile.finished = false)
    (hgate : s.gateOpen i = true)
    (hlast : (s.segment ((s.sec i).cfg.profileStart + (s.sec i).profile.segmentIndex)).length ≤ (s.sec i).profile.cycleCount) :
    let x := s.sec i
    let q := x.profile
    let g := s.segment (x.cfg.profileStart + q.segmentIndex)
    let p := if g.kind = .step ∨ g.kind = .square then q.startOffset else q.offset
    let t := (s.signal .segmentBoundary i.val).setSec i x.gateOpened.atBoundary
    s.advanceProfile i =
      if q.segmentIndex + 1 < x.cfg.profileLength then t.nextSegment i (q.segmentIndex + 1) q.pass p
      else if q.pass < x.cfg.repeatCount then t.nextSegment i 0 (q.pass + 1) p
      else t.endProfile i p := by
  intro x q g p t
  have hp : p = g.returned x.gateOpened.profile := (Segment.returned_eq ..).symm
  rw [State.advanceProfile_open hstate hfin hgate, if_neg (Nat.not_lt.2 hlast), State.endSegment_setSec, hp]
  rfl

end Advance

/-- The profile work of section i signals and posts, and puts a record of section i in place. -/
theorem State.advanceProfile_setSec (s : State) (i : SecId) :
    ∃ (u : State) (y : Section), (s.advanceProfile i).state = u.setSec i y ∧ u.sections = s.sections := by
  have hsignal : (s.signal .segmentBoundary i.val).sections = s.sections := by rw [State.signal_frame]
  by_cases hidle : (s.sec i).state ≠ .trial ∨ (s.sec i).profile.finished = true
  · rw [State.advanceProfile_idle hidle]
    exact ⟨s, s.sec i, (State.modSec_same rfl).symm, rfl⟩
  rw [not_or, not_not, Bool.not_eq_true] at hidle
  obtain ⟨hstate, hfin⟩ := hidle
  cases hgate : s.gateOpen i with
  | false =>
    rw [State.advanceProfile_closed hstate hfin hgate]
    exact ⟨s, _, rfl, rfl⟩
  | true =>
    by_cases hcycle : (s.sec i).profile.cycleCount < (s.segment ((s.sec i).cfg.profileStart + (s.sec i).profile.segmentIndex)).length
    · rw [State.advanceProfile_open hstate hfin hgate, if_pos hcycle]
      exact ⟨s, _, rfl, rfl⟩
    · rw [State.advanceProfile_ends hstate hfin hgate (Nat.not_lt.1 hcycle)]
      split
      · exact ⟨_, _, congrArg Advanced.state (State.nextSegment_setSec ..), hsignal⟩
      · split
        · exact ⟨_, _, congrArg Advanced.state (State.nextSegment_setSec ..), hsignal⟩
        · obtain ⟨y, hy⟩ := State.endProfile_setSec (s.signal .segmentBoundary i.val) i (s.sec i).gateOpened.atBoundary _
          refine ⟨_, y, hy, Eq.trans ?_ hsignal⟩
          unfold State.postProfileEnd
          rw [State.post_frame]

/-- The profile work of section i leaves the other sections. -/
theorem State.sec_advanceProfile_ne (s : State) {i j : SecId} (h : j ≠ i) : (s.advanceProfile i).state.sec j = s.sec j := by
  obtain ⟨u, y, hu, hsections⟩ := s.advanceProfile_setSec i
  rw [hu, State.sec_setSec_ne _ h, State.sec_of_eq hsections]

/-- The gate is open where every member runs below its limit (R103). -/
theorem State.gateOpen_iff (s : State) (i : SecId) : s.gateOpen i = true ↔ ∀ r ∈ s.members i,
    (s.memberFeedback r).status.getLsbD 1 = true ∧ (s.memberFeedback r).status.getLsbD 2 = false := by
  simp only [State.gateOpen, statusRunning, statusAtLimit, List.all_eq_true, Bool.and_eq_true, Bool.not_eq_true']

/-- Behind a segment boundary, the next segment reads the Segment Table of the state before it. -/
theorem State.nextSegment_atBoundary (s : State) (i : SecId) (x : Section) (idx pass : Nat) (p : Int) :
    ((s.signal .segmentBoundary i.val).setSec i x.gateOpened.atBoundary).nextSegment i idx pass p =
      ⟨(s.signal .segmentBoundary i.val).setSec i { x.atBoundary with
          profile := x.gateOpened.profile.entering idx pass p (s.segment (x.cfg.profileStart + idx)) },
        stepDoneRequest i x.profile.stepPending⟩ := by
  rw [State.nextSegment_setSec, State.segment_signal]
  rfl

/-- The next segment begun at cycle 1, where no step run is under way. -/
theorem ProfilePosition.entering_running {q : ProfilePosition} (h : q.stepPending = false) (idx pass : Nat) (p : Int) (g : Segment) :
    q.entering idx pass p g =
      { q with segmentIndex := idx, pass := pass, startOffset := p, cycleCount := 1, offset := g.offsetAt p 1 } := by
  simp [ProfilePosition.entering, h]

/-- The next segment held at count 0, where a step run ends (R110). -/
theorem ProfilePosition.entering_stepRun {q : ProfilePosition} (h : q.stepPending = true) (idx pass : Nat) (p : Int) (g : Segment) :
    q.entering idx pass p g =
      { q with segmentIndex := idx, pass := pass, startOffset := p, cycleCount := 0, offset := p } := by
  simp [ProfilePosition.entering, h]

/-- The advance a is u with the record y at section i, and makes the given requests. -/
structure Advanced.Puts (a : Advanced) (u : State) (i : SecId) (y : Section) (late : List LateRequest) : Prop where
  sec : a.state.sec i = y
  late : a.late = late
  frame : a.state = { u with sections := a.state.sections }

/-- An advance whose state is a record put in place. -/
theorem Advanced.puts {a : Advanced} {u : State} {i : SecId} {y : Section} {late : List LateRequest} (h : a = ⟨u.setSec i y, late⟩) :
    a.Puts u i y late := by
  rw [h]
  exact ⟨State.sec_setSec .., rfl, rfl⟩

/-- Settles O20, by the gate and by whether the cycle is the segment's last. -/
theorem profileAdvancesOneCycle : Obligations.ProfileAdvancesOneCycle := by
  unfold Obligations.ProfileAdvancesOneCycle
  refine ⟨fun s i h => ?idle, fun s i hstate hfin => ?advance⟩
  case idle =>
    rw [State.advanceProfile_idle h]
    exact ⟨rfl, rfl⟩
  case advance =>
    intro x q g a ended ends
    have hclosed (hgate : s.gateOpen i = false) := Advanced.puts (State.advanceProfile_closed hstate hfin hgate)
    have hcycle (hgate : s.gateOpen i = true) (hbelow : q.cycleCount < g.length) :=
      Advanced.puts ((State.advanceProfile_open hstate hfin hgate).trans (if_pos hbelow))
    have hnext (hgate : s.gateOpen i = true) (hlast : g.length ≤ q.cycleCount) (hmore : q.segmentIndex + 1 < x.cfg.profileLength) :=
      Advanced.puts <| (State.advanceProfile_ends hstate hfin hgate hlast).trans <|
        (if_pos hmore).trans (s.nextSegment_atBoundary i x (q.segmentIndex + 1) q.pass ended)
    refine ⟨fun j hj => s.sec_advanceProfile_ne hj, fun h => ?frame, fun ⟨hgate, hlast, hmore⟩ => (hnext hgate hlast hmore).frame,
      s.gateOpen_iff i, fun hgate => ?closed, fun hgate hbelow => ?cycle, fun hgate hlast hmore hstep => ?next,
      fun hgate hlast hmore hstep => ?stepRun⟩
    case frame =>
      cases hgate : s.gateOpen i with
      | false => exact (hclosed hgate).frame
      | true => exact (hcycle hgate (h.resolve_left (by simp [hgate]))).frame
    case closed => exact ⟨(hclosed hgate).sec, (hclosed hgate).late⟩
    case cycle => exact ⟨(hcycle hgate hbelow).sec, (hcycle hgate hbelow).late⟩
    case next =>
      obtain ⟨hsec, hlate, _⟩ := hnext hgate hlast hmore
      rw [ProfilePosition.entering_running (q := x.gateOpened.profile) hstep] at hsec
      rw [hstep] at hlate
      exact ⟨hsec, hlate⟩
    case stepRun =>
      obtain ⟨hsec, hlate, _⟩ := hnext hgate hlast hmore
      rw [ProfilePosition.entering_stepRun (q := x.gateOpened.profile) hstep] at hsec
      rw [hstep] at hlate
      exact ⟨hsec, hlate⟩

/-- Settles O21, by whether a further pass follows, and by the end action. -/
theorem profileEndAction : Obligations.ProfileEndAction := by
  unfold Obligations.ProfileEndAction
  intro s i hstate hfin hgate x q g first a ended begins stepDone hlast hend finished stands signalled
  have hends := (State.advanceProfile_ends hstate hfin hgate hlast).trans (if_neg (Nat.not_lt.2 hend))
  refine ⟨fun j hj => s.sec_advanceProfile_ne hj, fun hpass => ?pass, fun hpass => ?last⟩
  case pass =>
    obtain ⟨hsec, hlate, hframe⟩ :=
      Advanced.puts <| hends.trans <| (if_pos hpass).trans (s.nextSegment_atBoundary i x 0 (q.pass + 1) ended)
    exact ⟨hsec, hlate, hframe⟩
  case last =>
    have hprofile : a = (signalled.setSec i x.gateOpened.atBoundary).endProfile i ended := hends.trans (if_neg (Nat.not_lt.2 hpass))
    have hspec {u : State} {y : Section} {late : List LateRequest}
        (h : (signalled.setSec i x.gateOpened.atBoundary).endProfile i ended = ⟨u.setSec i y, late⟩) := Advanced.puts (hprofile.trans h)
    refine ⟨fun haction => ?hold, fun haction => ?reload, fun haction => ?release, ?frame⟩
    case hold =>
      obtain ⟨hsec, hlate, _⟩ := hspec (signalled.endProfile_hold i (x := x.gateOpened.atBoundary) haction ended)
      exact ⟨hsec, hlate⟩
    case reload =>
      obtain ⟨hsec, hlate, _⟩ := hspec (signalled.endProfile_reload i (x := x.gateOpened.atBoundary) haction ended)
      rw [State.segment_signal] at hsec
      exact ⟨hsec, hlate⟩
    case release =>
      obtain ⟨hsec, hlate, _⟩ := hspec (signalled.endProfile_release i (x := x.gateOpened.atBoundary) haction ended)
      exact ⟨hsec, hlate⟩
    case frame =>
      obtain ⟨y, hy⟩ := signalled.endProfile_setSec i x.gateOpened.atBoundary ended
      have hcycle : signalled.cycle = s.cycle := s.cycle_signal _ _
      rw [hprofile, hy, State.postProfileEnd, hcycle]
      rfl

end Sys2Proof.Machine
end

section
/-! PROOFS. A write of the kind of a Segment Table record (R98): the model's SegmentKind.ofCode answers NONE, not "no kind", for a code
outside 0 to 4, since the name `none` in it is SegmentKind.none. -/

namespace Sys2Proof.Machine

/-- A code outside 0 to 4 stands for the kind NONE. -/
theorem SegmentKind.ofCode_outside {v : Int} (hv : v < 0 ∨ 4 < v) : SegmentKind.ofCode v = some .none := by
  unfold SegmentKind.ofCode
  rw [if_neg (by omega), if_neg (by omega), if_neg (by omega), if_neg (by omega), if_neg (by omega)]

/-- A Segment Table write by record. -/
theorem State.writeField_segment (s : State) (k : Fin 128) (f : Nat) (v : Int) : s.writeField 4 k.val f v = s.writeSegment k f v := by
  show s.writeSegment (Fin.ofNat 128 k.val) f v = _; rw [Fin.ofNat_val_eq_self]

/-- A write of such a code to the kind of a segment that is not in use is taken, where R98 refuses it: it stores NONE. -/
theorem State.writeSegment_kind_outside {s : State} {k : Fin 128} (hfree : s.segmentInUse k.val = false) {v : Int} (hv : v < 0 ∨ 4 < v) :
    s.writeSegment k 2 v = .written (s.modSegment k fun g => { g with kind := .none }) := by
  simp [State.writeSegment, hfree, SegmentKind.ofCode_outside hv]

/-- After power-up no segment is in use: every section is in BYPASS. -/
theorem State.segmentInUse_reset (k : Nat) : State.reset.segmentInUse k = false := by
  simp [State.segmentInUse, State.sec_reset, Section.powerOn]

/-- Refutes O35: after power-up, the kind code 5 written to segment 0 is stored as NONE, where BAD_VALUE is due (R98). -/
theorem not_tableWritesReadBack : ¬ Obligations.TableWritesReadBack := by
  unfold Obligations.TableWritesReadBack
  rintro ⟨hsegments, _⟩
  obtain ⟨_, hfree⟩ := hsegments State.reset 0 5
  have hunused : ¬ ∃ i : SecId, ((State.reset.sec i).state = .trial ∨ (State.reset.sec i).state = .frozen) ∧
      (State.reset.sec i).cfg.profileStart ≤ (0 : Fin 128).val ∧
      (0 : Fin 128).val < (State.reset.sec i).cfg.profileStart + (State.reset.sec i).cfg.profileLength := by
    rintro ⟨i, hstate, _⟩
    rw [State.sec_reset] at hstate
    exact absurd hstate (by decide)
  obtain ⟨_, _, hkind⟩ := hfree hunused
  rw [if_neg (by decide), State.writeField_segment, State.writeSegment_kind_outside (State.segmentInUse_reset _) (by decide)] at hkind
  exact absurd hkind nofun

end Sys2Proof.Machine
end

section
/-! PROOFS. The snapshot latch: LATCH SNAPSHOT and READ SNAPSHOT at either level (R138, R139). -/

namespace Sys2Proof.Machine

/-! ## A request of either level -/

/-- The command of a row that takes a request of either level does its work on the state without the request and posts its one reply. -/
theorem TakesObserve.serve {s : State} {r : RequestFrame} {row : CommandRow} {level : Level} (h : TakesObserve s r row.code level)
    (hleast : row.least = .observe) {ops : List Int} (hops : operandValues r = ops)
    (hcount : row.fewest ≤ ops.length ∧ ops.length ≤ row.most) {body : State → Level → List Int → Answer} {a : Answer}
    (hbody : body s.dropRequest level ops = a) : s.whenPowered (fun s => s.serve row body) = .next (a.post r.tag) := by
  subst hops hbody
  obtain ⟨⟨hpowered, hroom, hhead, hcode, hlevel⟩, hpermit⟩ := h
  rw [operandValues, List.length_map] at hcount
  rw [State.whenPowered_on _ _ hpowered, State.serve_admitted hroom hhead hcode hlevel hpermit (by simp [hleast]) hcount]

/-- A LATCH SNAPSHOT request is answered as its work answers. -/
theorem TakesObserve.latch {s : State} {r : RequestFrame} {level : Level} (h : TakesObserve s r 40 level) {v : Int}
    (hops : operandValues r = [v]) {a : Answer} (hbody : latchBody s.dropRequest level [v] = a) :
    exec .latchSnapshot s = .next (a.post r.tag) :=
  TakesObserve.serve (row := rowLatch) h rfl hops ⟨le_refl 1, le_refl 1⟩ hbody

/-- A READ SNAPSHOT request is answered as its work answers. -/
theorem TakesObserve.readSnapshot {s : State} {r : RequestFrame} {level : Level} (h : TakesObserve s r 41 level) {v part : Int}
    (hops : operandValues r = [v, part]) {a : Answer} (hbody : readSnapshotBody s.dropRequest level [v, part] = a) :
    exec .readSnapshot s = .next (a.post r.tag) :=
  TakesObserve.serve (row := rowReadSnapshot) h rfl hops ⟨le_refl 2, le_refl 2⟩ hbody

/-! ## The live view and its parts (R138, R139) -/

/-- A position of the live view: its member's values, or those of a position past the end of the list. -/
theorem State.liveView_position (s : State) (i : SecId) {k : Nat} (hk : k < 4) :
    (s.liveView i).position k = ((s.members i)[k]?.elim SnapshotMember.absent s.snapshotMember).data := by
  have hget (f : Nat → SnapshotMember) : ([0, 1, 2, 3].map f).getD k SnapshotMember.absent = f k := by interval_cases k <;> rfl
  unfold Snapshot.position State.liveView
  rw [hget]
  cases (s.members i)[k]? <;> rfl

/-- The data of each part of a view. -/
theorem Snapshot.part_natCast (v : Snapshot) (origin : Int) (part : Nat) :
    v.part origin part =
      if part = 0 then
        [origin, (v.cycle.toNat : Int), (v.state.code : Int), v.lineReference, v.offset, (v.memberCount : Int)] ++ v.position 0
      else if part = 1 then v.position 1 ++ v.position 2 else v.position 3 := by
  simp only [Snapshot.part, Nat.cast_eq_zero, Nat.cast_eq_one]

/-! ## The latch -/

/-- Setting a latch to what it holds changes nothing. -/
theorem State.setLatch_self {s : State} {i : SecId} {v : Option Snapshot} (h : (s.sec i).snapshot = v) : s.setLatch i v = s := by
  subst h
  exact congrArg (fun sections => { s with sections := sections }) (Vector.set_getElem_self i.isLt)

/-- A request answered OK with a latch set: that latch alone changes beside the reply. -/
theorem State.setLatch_answered (s : State) (r : RequestFrame) (i : SecId) (v : Option Snapshot) (data : List Int) :
    let t := ((s.dropRequest.setLatch i v).answerOk data).post r.tag
    t.sec i = { s.sec i with snapshot := v } ∧ (∀ j, j ≠ i → t.sec j = s.sec j) ∧
      t = { s.answered r .ok false data with sections := t.sections } :=
  ⟨s.dropRequest.sec_modSec_self i fun x => { x with snapshot := v },
    fun _ hj => s.dropRequest.sec_modSec_ne hj fun x => { x with snapshot := v }, rfl⟩

/-! ## LATCH SNAPSHOT (R138) -/

/-- LATCH SNAPSHOT refuses a section number outside 0 to 15. -/
theorem latchBody_badSection (s : State) (l : Level) {a : Int} (ha : a < 0 ∨ 15 < a) : latchBody s l [a] = s.refuse .badValue [] := by
  simp only [latchBody, index?_none (n := 16) (show a < 0 ∨ ((16 : Nat) : Int) ≤ a by omega)]

/-- LATCH SNAPSHOT is ignored where the latch is full. -/
theorem latchBody_full {s : State} (l : Level) {i : SecId} (h : (s.sec i).snapshot.isSome) :
    latchBody s l [(i.val : Int)] = s.refuse .ignored [] := by
  obtain ⟨v, hv⟩ := Option.isSome_iff_exists.1 h
  simp only [latchBody, index?_val, hv]

/-- LATCH SNAPSHOT fills an empty latch with the live view. -/
theorem latchBody_empty {s : State} (l : Level) {i : SecId} (h : (s.sec i).snapshot = none) :
    latchBody s l [(i.val : Int)] = (s.setLatch i (some (s.liveView i))).answerOk [] := by
  simp only [latchBody, index?_val, h]

/-! ## READ SNAPSHOT (R139) -/

/-- READ SNAPSHOT refuses a section number outside 0 to 15 and a part outside 0 to 2. -/
theorem readSnapshotBody_badValue (s : State) (l : Level) {a part : Int} (h : a < 0 ∨ 15 < a ∨ part < 0 ∨ 2 < part) :
    readSnapshotBody s l [a, part] = s.refuse .badValue [] := by
  by_cases ha : a < 0 ∨ 15 < a
  · simp only [readSnapshotBody, index?_none (n := 16) (show a < 0 ∨ ((16 : Nat) : Int) ≤ a by omega)]
  · have hpart : part < 0 ∨ 2 < part := by omega
    simp only [readSnapshotBody, if_pos hpart]
    cases index? 16 a <;> rfl

/-- READ SNAPSHOT returns the live view where the latch is empty. -/
theorem readSnapshotBody_empty {s : State} (l : Level) {i : SecId} {part : Nat} (hpart : part ≤ 2)
    (h : (s.sec i).snapshot = none) :
    readSnapshotBody s l [(i.val : Int), (part : Int)] = s.answerOk ((s.liveView i).part 0 part) := by
  simp only [readSnapshotBody, index?_val, h]
  exact if_neg (by omega)

/-- READ SNAPSHOT returns a full latch, which part 2 empties. -/
theorem readSnapshotBody_full {s : State} (l : Level) {i : SecId} {part : Nat} (hpart : part ≤ 2) {v : Snapshot}
    (h : (s.sec i).snapshot = some v) :
    readSnapshotBody s l [(i.val : Int), (part : Int)] =
      (s.setLatch i (if part = 2 then none else some v)).answerOk (v.part 1 part) := by
  simp only [readSnapshotBody, index?_val, h]
  rw [if_neg (by omega)]
  by_cases hlast : part = 2
  · rw [if_pos hlast, if_pos (by omega)]
  · rw [if_neg hlast, if_neg (by omega), State.setLatch_self h]

/-- Settles O50, by the command and by whether the latch is full. -/
theorem snapshotLatchesAndReads : Obligations.SnapshotLatchesAndReads := by
  unfold Obligations.SnapshotLatchesAndReads
  intro s r level
  refine ⟨fun a htakes hops ha => htakes.latch hops (latchBody_badSection _ _ ha),
    fun a part htakes hops h => htakes.readSnapshot hops (readSnapshotBody_badValue _ _ h), ?_⟩
  intro i live head
  have hlive {k : Nat} (hk : k < 4) : (s.dropRequest.liveView i).position k = live k := by
    rw [State.liveView_position _ _ hk]
    simp only [live, State.members, State.sec_dropRequest]
    cases (s.sec i).members[k]? <;> rfl
  have hpart (origin : Int) (part : Nat) : (s.dropRequest.liveView i).part origin part =
      if part = 0 then [origin] ++ head ++ live 0 else if part = 1 then live 1 ++ live 2 else live 3 := by
    rw [Snapshot.part_natCast, hlive (by decide), hlive (by decide), hlive (by decide), hlive (by decide)]
    rfl
  refine ⟨fun htakes hops => ⟨fun hfull => ?ignored, fun hempty => ?latched⟩,
    fun part hle htakes hops => ⟨fun hempty => ?liveRead, fun v hfull => ?latchRead⟩⟩
  case ignored => exact htakes.latch hops (latchBody_full (s := s.dropRequest) level hfull)
  case latched =>
    obtain ⟨hsec, hother, hframe⟩ := s.setLatch_answered r i (some (s.dropRequest.liveView i)) []
    exact ⟨_, _, htakes.latch hops (latchBody_empty (s := s.dropRequest) level hempty), hsec, hother,
      hpart 1 0, hpart 1 1, hpart 1 2, hframe⟩
  case liveRead =>
    rw [← hpart]
    exact htakes.readSnapshot hops (readSnapshotBody_empty (s := s.dropRequest) level hle hempty)
  case latchRead =>
    obtain ⟨hsec, hother, hframe⟩ := s.setLatch_answered r i (if part = 2 then none else some v) (v.part 1 part)
    exact ⟨_, htakes.readSnapshot hops (readSnapshotBody_full (s := s.dropRequest) level hle hfull), hsec, hother, hframe⟩

end Sys2Proof.Machine
end

section
/-! PROOFS. The Capture Unit: triggers, the buffer, sweeps and captured values (R142 to R144, R147 to R150). -/

namespace Sys2Proof.Machine

/-! ## Triggers (R147) -/

/-- A signal is the trigger source where kind and index are those of the control record, of which COMMAND does not read the index (R141). -/
theorem CaptureControl.matchesTrigger_iff (c : CaptureControl) (kind : TriggerKind) (index : Nat) :
    c.matchesTrigger kind index = true ↔ c.triggerKind = kind ∧ (kind = .command ∨ c.triggerIndex = index) := by
  simp [CaptureControl.matchesTrigger]

section
variable {s : State} {kind : TriggerKind} {index : Nat}

/-- A trigger begins a run of a TRIGGERED capture that waits. -/
theorem State.takeTrigger_run (h : s.capture.matchesTrigger kind index = true) (hmode : s.capture.mode = .triggered)
    (hstate : s.capture.state = .waiting) : s.takeTrigger kind index =
      (s.modCapture fun c => { c with state := .running, remaining := c.runLength, nextItem := 0 }, true) := by
  simp only [State.takeTrigger, if_pos h, hmode, hstate]

/-- A trigger takes a LOOP capture with a post count to POST. -/
theorem State.takeTrigger_post (h : s.capture.matchesTrigger kind index = true) (hmode : s.capture.mode = .loop)
    (hstate : s.capture.state = .running) (hcount : s.capture.postCount ≠ 0) : s.takeTrigger kind index =
      (s.modCapture fun c => { c with state := .post, remaining := c.postCount }, true) := by
  simp only [State.takeTrigger, if_pos h, hmode, hstate, if_neg hcount]

/-- A trigger ends a LOOP capture without a post count at once. -/
theorem State.takeTrigger_done (h : s.capture.matchesTrigger kind index = true) (hmode : s.capture.mode = .loop)
    (hstate : s.capture.state = .running) (hcount : s.capture.postCount = 0) :
    s.takeTrigger kind index = (s.captureDone 1, true) := by
  simp only [State.takeTrigger, if_pos h, hmode, hstate, if_pos hcount]

/-- A signal that is not the trigger source, or comes in a state that waits for none, does nothing. -/
theorem State.takeTrigger_ignored (h : s.capture.matchesTrigger kind index = false ∨
    ¬ (s.capture.mode = .triggered ∧ s.capture.state = .waiting) ∧ ¬ (s.capture.mode = .loop ∧ s.capture.state = .running)) :
    s.takeTrigger kind index = (s, false) := by
  unfold State.takeTrigger
  split
  next hmatch =>
    obtain ⟨hwaiting, hrunning⟩ := h.resolve_left (by rw [hmatch]; decide)
    split
    next hmode hstate => exact absurd ⟨hmode, hstate⟩ hwaiting
    next hmode hstate => exact absurd ⟨hmode, hstate⟩ hrunning
    next => rfl
  next => rfl

end

/-! ## The buffer (R142, R144) -/

section
variable {s : State} (r : CaptureRecord)

/-- A record written while the buffer is not full is one more. -/
theorem State.writeRecord_room (h : s.capture.recordCount < 1024) : s.writeRecord r = { s with
    buffer := Memory.write s.buffer s.capture.writeIndex r
    capture := { s.capture with
      writeIndex := (s.capture.writeIndex + 1) % 1024, recordCount := s.capture.recordCount + 1 } } :=
  if_pos h

/-- A record written into a full ring replaces the oldest. -/
theorem State.writeRecord_ring (h : s.capture.recordCount = 1024) (hmode : s.capture.mode = .loop) : s.writeRecord r = { s with
    buffer := Memory.write s.buffer s.capture.writeIndex r
    capture := { s.capture with writeIndex := (s.capture.writeIndex + 1) % 1024, wrapped := true } } :=
  (if_neg (by rw [h]; decide)).trans (if_pos hmode)

/-- A record is dropped at a full buffer in ONCE and TRIGGERED mode. -/
theorem State.writeRecord_full (h : s.capture.recordCount = 1024) (hmode : s.capture.mode ≠ .loop) : s.writeRecord r = s :=
  (if_neg (by rw [h]; decide)).trans (if_neg hmode)

end

/-- Before the first turn of the ring a logical entry stands at its own position. -/
theorem State.physical_unwrapped {s : State} (h : s.capture.wrapped = false) (e : Nat) : s.physical e = e :=
  if_neg (by rw [h]; decide)

/-- After the first turn the logical entries count from the write index. -/
theorem State.physical_wrapped {s : State} (h : s.capture.wrapped = true) (e : Nat) :
    s.physical e = (s.capture.writeIndex + e) % 1024 := if_pos h

/-- A buffer that is not full has not wrapped. -/
theorem BufferWithinBounds.unwrapped {s : State} (h : BufferWithinBounds s) (hroom : s.capture.recordCount < 1024) :
    s.capture.wrapped = false := by
  obtain ⟨-, -, -, -, hring, -, -⟩ := h
  exact Bool.eq_false_iff.2 fun hwrapped => absurd (hring hwrapped) hroom.ne

/-- In a full buffer the logical entries count from the write index, wrapped or not. -/
theorem BufferWithinBounds.physical_full {s : State} (h : BufferWithinBounds s) (hcount : s.capture.recordCount = 1024) {e : Nat}
    (he : e < 1024) : s.physical e = (s.capture.writeIndex + e) % 1024 := by
  obtain ⟨-, -, -, -, -, -, hfull⟩ := h
  cases hwrapped : s.capture.wrapped with
  | true => exact State.physical_wrapped hwrapped e
  | false =>
    have hindex : s.capture.writeIndex = 0 := (hfull hcount).resolve_left (by rw [hwrapped]; decide)
    rw [State.physical_unwrapped hwrapped, hindex, Nat.zero_add, Nat.mod_eq_of_lt he]

/-- A logical entry after a write at the write index. -/
theorem State.logicalRecord_written {s t : State} {r : CaptureRecord} (h : Memory.wf s.buffer = true)
    (ht : t.buffer = Memory.write s.buffer s.capture.writeIndex r) (e : Nat) :
    t.logicalRecord e = if t.physical e = s.capture.writeIndex then r else Memory.read s.buffer (t.physical e) := by
  rw [State.logicalRecord, ht, Memory.read_write r _ _ h]

/-- While the buffer is not full, a record written is the next logical entry and every other entry stays (R142). -/
theorem BufferWithinBounds.logicalRecord_room {s : State} (h : BufferWithinBounds s) (r : CaptureRecord)
    (hroom : s.capture.recordCount < 1024) (e : Nat) :
    (s.writeRecord r).logicalRecord e = if e = s.capture.recordCount then r else s.logicalRecord e := by
  have hwrapped := h.unwrapped hroom
  obtain ⟨hwf, -, -, -, -, hindex, -⟩ := h
  have hafter : (s.writeRecord r).physical e = e := State.physical_unwrapped (by rw [State.writeRecord_room r hroom]; exact hwrapped) e
  rw [State.logicalRecord_written hwf (by rw [State.writeRecord_room r hroom]), hafter, hindex hroom, State.logicalRecord,
    State.physical_unwrapped hwrapped]

/-- In a full ring a record written is the last logical entry and the entries before it move one place on (R142, R144). -/
theorem BufferWithinBounds.logicalRecord_ring {s : State} (h : BufferWithinBounds s) (r : CaptureRecord)
    (hcount : s.capture.recordCount = 1024) (hmode : s.capture.mode = .loop) :
    (s.writeRecord r).logicalRecord 1023 = r ∧ ∀ e, e < 1023 → (s.writeRecord r).logicalRecord e = s.logicalRecord (e + 1) := by
  have ⟨hwf, _, _, hindex, _⟩ := h
  have hplace (e : Nat) : (s.writeRecord r).physical e = (s.capture.writeIndex + (e + 1)) % 1024 := by
    rw [State.writeRecord_ring r hcount hmode, State.physical_wrapped rfl]
    dsimp only
    omega
  have hread (e : Nat) := State.logicalRecord_written hwf (t := s.writeRecord r) (r := r)
    (by rw [State.writeRecord_ring r hcount hmode]) e
  refine ⟨?_, fun e he => ?_⟩
  · rw [hread, hplace, if_pos (by omega)]
  · rw [hread, hplace, if_neg (by omega), State.logicalRecord, h.physical_full hcount (by omega)]

/-! ## The records of a sweep (R144) -/

/-- A simultaneous sweep writes one record of each active item. -/
theorem State.sweepRecords_simultaneous {s : State} (v : FrameView) (h : s.capture.sweep = .simultaneous) :
    s.sweepRecords v = s.activeList.zipIdx.map fun p => s.recordOfItem v p.2 p.1 := by
  simp only [State.sweepRecords, h]

/-- A sequential sweep writes one record of the next item. -/
theorem State.sweepRecords_sequential {s : State} (v : FrameView) (h : s.capture.sweep = .sequential) {c : CaptureItem}
    (hc : s.activeList[s.capture.nextItem]? = some c) : s.sweepRecords v = [s.recordOfItem v s.capture.nextItem c] := by
  simp only [State.sweepRecords, h, hc]

/-- The number of the next sequential item after a sweep (R144). -/
def State.followingItem (s : State) : Nat :=
  match s.capture.sweep with
  | .simultaneous => s.capture.nextItem
  | .sequential => if s.capture.nextItem + 1 < s.activeList.length then s.capture.nextItem + 1 else 0

/-- The next sequential item is all that moves on between the records of a sweep and its end. -/
theorem State.advanceItem_eq (s : State) :
    s.advanceItem = { s with capture := { s.capture with nextItem := s.followingItem } } := by
  unfold State.advanceItem State.followingItem
  cases s.capture.sweep <;> rfl

/-- Written records leave the next sequential item as it was. -/
theorem State.followingItem_writeRecords (s : State) (rs : List CaptureRecord) :
    (rs.foldl State.writeRecord s).followingItem = s.followingItem := by
  rw [State.writeRecords_control]
  rfl

/-- The state after the records of a sweep, before its end. -/
def State.swept (s : State) (v : FrameView) : State :=
  let w := (s.sweepRecords v).foldl State.writeRecord s
  { w with capture := { w.capture with nextItem := s.followingItem } }

/-- A sweep is taken in RUNNING and POST: its records, the next item, and its end. -/
theorem State.takeSweep_taken {s : State} (v : FrameView) (h : s.capture.state = .running ∨ s.capture.state = .post) :
    s.takeSweep v = (s.swept v).endSweep := by
  rw [State.takeSweep, if_pos h, State.advanceItem_eq, State.followingItem_writeRecords]
  rfl

/-- What the records of a sweep leave to its end. -/
theorem State.swept_keeps (s : State) (v : FrameView) :
    (s.swept v).capture.mode = s.capture.mode ∧ (s.swept v).capture.state = s.capture.state ∧
      (s.swept v).capture.remaining = s.capture.remaining ∧ (s.swept v).events = s.events ∧
      (s.swept v).nextSequence = s.nextSequence ∧ (s.swept v).cycle = s.cycle := by
  unfold State.swept
  rw [State.writeRecords_control]
  exact ⟨rfl, rfl, rfl, rfl, rfl, rfl⟩

/-! ## The end of a sweep (R148 to R150) -/

/-- The buffer stays at the entry to DONE. -/
@[simp] theorem State.buffer_captureDone (s : State) (detail : Nat) : (s.captureDone detail).buffer = s.buffer := by
  rw [State.captureDone, State.buffer_post, State.buffer_modCapture]

/-- The control record with one sweep less remaining. -/
def CaptureControl.counted (c : CaptureControl) : CaptureControl := { c with remaining := c.remaining - 1 }

section
variable {s : State}

/-- A ONCE capture ends at a full buffer. -/
theorem State.endSweep_once (h : s.capture.mode = .once) :
    s.endSweep = if s.capture.recordCount = 1024 then s.captureDone 0 else s := by
  simp only [State.endSweep, h]
  rfl

/-- A TRIGGERED capture ends at a full buffer, and its run, back to WAITING, at the last sweep. -/
theorem State.endSweep_triggered (h : s.capture.mode = .triggered) :
    s.endSweep = if s.capture.recordCount = 1024 then (s.modCapture CaptureControl.counted).captureDone 0
      else { s with capture :=
        if s.capture.remaining - 1 = 0 then { s.capture.counted with state := .waiting } else s.capture.counted } := by
  simp only [State.endSweep, h]
  by_cases hlast : s.capture.remaining - 1 = 0
  · rw [if_pos hlast]
    exact if_congr .rfl rfl (if_pos hlast)
  · rw [if_neg hlast]
    exact if_congr .rfl rfl (if_neg hlast)

/-- A LOOP capture goes on in RUNNING. -/
theorem State.endSweep_running (h : s.capture.mode = .loop) (hstate : s.capture.state = .running) : s.endSweep = s := by
  simp only [State.endSweep, h]
  exact if_neg (by rw [hstate]; decide)

/-- A LOOP capture ends in POST at the last sweep. -/
theorem State.endSweep_post (h : s.capture.mode = .loop) (hstate : s.capture.state = .post) :
    s.endSweep = if s.capture.remaining - 1 = 0 then (s.modCapture CaptureControl.counted).captureDone 1
      else s.modCapture CaptureControl.counted := by
  simp only [State.endSweep, h]
  exact if_pos hstate

end

/-- The buffer stays at the end of a sweep. -/
@[simp] theorem State.buffer_endSweep (s : State) : s.endSweep.buffer = s.buffer := by
  cases hmode : s.capture.mode with
  | once => rw [State.endSweep_once hmode]; split <;> simp
  | triggered => rw [State.endSweep_triggered hmode]; split <;> simp
  | loop =>
    by_cases hstate : s.capture.state = .post
    · rw [State.endSweep_post hmode hstate]; split <;> simp
    · simp only [State.endSweep, hmode, if_neg hstate]

/-- The entry to DONE, on a state with the Event Queue and the cycle number of s (R150). -/
theorem State.captureDone_posted {s u : State} (hevents : u.events = s.events) (hnext : u.nextSequence = s.nextSequence)
    (hcycle : u.cycle = s.cycle) (detail : Nat) :
    (u.captureDone detail).capture = { u.capture with state := .done } ∧
      Posted s (u.captureDone detail) .captureDone none none none (some (u.capture.recordCount : Int)) detail := by
  obtain ⟨hcapture, hposted, hsequence, -⟩ := State.captureDone_spec u s hevents hnext hcycle detail
  exact ⟨hcapture, hposted, hsequence⟩

/-! ## The values of a sweep (R143) -/

/-- The stale flag is set where the feedback was never received or is not that of the dispatch before. -/
theorem Feedback.not_current (fb : Feedback) (previous : Option Word16) :
    (!fb.current previous) = decide (¬ (fb.ever = true ∧ previous = some fb.cycle)) := by
  simp [Feedback.current]

/-- A member's record is the record of its node (R9). -/
theorem MembersConsistent.recordOf_node {s : State} (hm : MembersConsistent s) {i : SecId} {r : RecId} {n : NodeId}
    (hr : r ∈ s.members i) (hn : (s.member r).node = some n) : s.recordOf n = some r := by
  obtain ⟨hnode, -, hrecord⟩ := hm.facts hr
  rwa [← Option.some.inj (hn.symm.trans hnode)] at hrecord

/-- A node in no section has no record (R9). -/
theorem State.recordOf_none {s : State} {n : NodeId} (h : (s.drive n).inSection = none) : s.recordOf n = none := by
  simp only [State.recordOf, h]

/-- The node of a section's first member is its lead. -/
theorem MembersConsistent.leadOf_head {s : State} (hm : MembersConsistent s) {i : SecId} {r : RecId} {n : NodeId}
    (hn : (s.member r).node = some n) (hhead : (s.members i).head? = some r) : s.leadOf n = some i := by
  obtain ⟨rest, hmembers⟩ := List.head?_eq_some_iff.1 hhead
  obtain ⟨hnode, hsection, -⟩ := hm.facts (show r ∈ s.members i by simp [hmembers])
  rw [← Option.some.inj (hn.symm.trans hnode)] at hsection
  simp only [State.leadOf, hsection, hmembers, if_pos hn]

/-- A node that is no section's first member leads none. -/
theorem State.leadOf_none {s : State} {n : NodeId}
    (h : ∀ i r, r ∈ s.members i ∧ (s.member r).node = some n → (s.members i).head? ≠ some r) : s.leadOf n = none := by
  unfold State.leadOf
  split
  next => rfl
  next i _ =>
    split
    next => rfl
    next r rest hmembers =>
      refine if_neg fun hn => h i r ⟨?_, hn⟩ ?_ <;> simp [hmembers]

section
variable {s : State} {v : FrameView} {c : CaptureItem}

/-- LINE shows the entry as received. -/
theorem State.captureValue_line (hfield : c.field = .reference) (hsource : c.source = .line) {e : Entry}
    (h : firstEntry v.received c.node = some e) :
    s.captureValue v c = (watchedSpeed (s.drive c.node).direction e.speed, false) := by
  simp only [State.captureValue, hfield, hsource, h]

/-- LINE without an entry shows the line reference of the section that the node leads. -/
theorem State.captureValue_line_absent (hfield : c.field = .reference) (hsource : c.source = .line)
    (h : firstEntry v.received c.node = none) :
    s.captureValue v c = ((s.leadOf c.node).elim 0 fun i => (s.sec i).lineReference, true) := by
  simp only [State.captureValue, hfield, hsource, h]
  cases s.leadOf c.node <;> rfl

/-- ISSUED shows a member's issued reference. -/
theorem State.captureValue_issued_member (hfield : c.field = .reference) (hsource : c.source = .issued) {r : RecId}
    (h : s.recordOf c.node = some r) : s.captureValue v c = ((s.member r).issued, false) := by
  simp only [State.captureValue, hfield, hsource, h]

/-- ISSUED shows of a node in no section the entry as forwarded. -/
theorem State.captureValue_issued_other (hfield : c.field = .reference) (hsource : c.source = .issued)
    (h : s.recordOf c.node = none) : s.captureValue v c =
      (firstEntry v.forwarded c.node).elim (0, true) fun e => ((s.drive c.node).direction.apply e.speed.toInt, false) := by
  simp only [State.captureValue, hfield, hsource, h]
  cases firstEntry v.forwarded c.node <;> rfl

/-- ACTUAL SPEED shows the feedback's speed as its source gives it. -/
theorem State.captureValue_actualSpeed (hfield : c.field = .actualSpeed) :
    let fb := (s.drive c.node).feedback
    s.captureValue v c = (if c.source = .calibrated then fb.calibratedSpeed else fb.rawSpeed, !fb.current v.previous) := by
  simp only [State.captureValue, hfield]

/-- LOAD shows the feedback's load as its source gives it. -/
theorem State.captureValue_load (hfield : c.field = .load) :
    let fb := (s.drive c.node).feedback
    s.captureValue v c = (if c.source = .calibrated then fb.signedLoad else fb.rawLoad, !fb.current v.previous) := by
  simp only [State.captureValue, hfield]

/-- STATUS shows the feedback's status from either source. -/
theorem State.captureValue_status (hfield : c.field = .status) :
    let fb := (s.drive c.node).feedback
    s.captureValue v c = ((fb.status.toNat : Int), !fb.current v.previous) := by
  simp only [State.captureValue, hfield]

/-- IMBALANCE shows the member's stored imbalance, with the stale flag of its feedback. -/
theorem State.captureValue_imbalance (hfield : c.field = .imbalance) : s.captureValue v c =
    (s.recordOf c.node).elim (0, true) fun r => ((s.member r).imbalance, !(s.drive c.node).feedback.current v.previous) := by
  simp only [State.captureValue, hfield]
  cases s.recordOf c.node <;> rfl

/-- TRIM shows the member's share trim. -/
theorem State.captureValue_trim (hfield : c.field = .trim) : s.captureValue v c =
    (s.recordOf c.node).elim (0, true) fun r => ((s.member r).trim, false) := by
  simp only [State.captureValue, hfield]
  cases s.recordOf c.node <;> rfl

end

/-! ## O28 -/

/-- Settles O28, by the operation: a record written, a sweep by mode, a value by field and source, a trigger by the table. -/
theorem captureBufferReadsBackWhatIsWritten : Obligations.CaptureBufferReadsBackWhatIsWritten := by
  unfold Obligations.CaptureBufferReadsBackWhatIsWritten
  refine ⟨fun s r hbounds => ?written, fun s v => ⟨fun hrunning hpost => ?untaken, fun htaken => ⟨s.sweepRecords v, ?swept⟩⟩,
    fun s v c hm => ?values, fun s kind index => ?triggers⟩
  case written =>
    refine ⟨fun hroom => ⟨?_, ?_, fun e _ he => ?_⟩, fun hcount hmode => ?_, fun hcount hmode => State.writeRecord_full r hcount hmode,
      State.writeRecord_frame s r⟩
    · rw [hbounds.logicalRecord_room r hroom, if_pos rfl]
    · rw [State.writeRecord_room r hroom]
    · rw [hbounds.logicalRecord_room r hroom, if_neg he]
    · obtain ⟨hnewest, holder⟩ := hbounds.logicalRecord_ring r hcount hmode
      exact ⟨hnewest, by rw [State.writeRecord_ring r hcount hmode], holder⟩
  case untaken => exact if_neg (not_or.2 ⟨hrunning, hpost⟩)
  case swept =>
    intro record active
    refine ⟨fun hsweep => ?simultaneous, fun hsweep c hc => State.sweepRecords_sequential v hsweep hc, ?ends⟩
    case simultaneous =>
      rw [State.sweepRecords_simultaneous v hsweep]
      refine ⟨by simp [active, State.activeList], fun item c hc => ?_⟩
      have hitem : s.activeList[item]? = some c := hc
      simp [hitem, record, State.recordOfItem]
    case ends =>
      intro w swept counted t finished goesOn
      obtain ⟨hmode, hstate, hremaining, hevents, hnext, hcycle⟩ := s.swept_keeps v
      have ht : t = (s.swept v).endSweep := State.takeSweep_taken v htaken
      have hswept : (s.swept v).capture = swept := by
        simp only [State.swept, State.followingItem, swept]
        cases s.capture.sweep <;> rfl
      have hcount : (s.swept v).capture.recordCount = w.capture.recordCount := rfl
      have hcounted : (s.swept v).capture.counted = counted := by rw [CaptureControl.counted, hremaining, hswept]
      have hfinished (c : CaptureControl) (detail : Nat) (hc : c.recordCount = w.capture.recordCount)
          (h : t = State.captureDone { s.swept v with capture := c } detail) : finished c detail := by
        have hdone := State.captureDone_posted (u := { s.swept v with capture := c }) hevents hnext hcycle detail
        rwa [← h, hc] at hdone
      have hgoesOn (c : CaptureControl) (h : t = { s.swept v with capture := c }) : goesOn c :=
        ⟨congrArg State.capture h, (congrArg State.events h).trans hevents, (congrArg State.nextSequence h).trans hnext⟩
      have hbuffer : t.buffer = w.buffer := by rw [ht, State.buffer_endSweep]; rfl
      rw [← hcount, ← hremaining, ← hcounted, ← hswept, ← hbuffer]
      refine ⟨s.takeSweep_frame v, fun honce hfull => ?_, fun honce hroom => ?_, fun htriggered hfull => ?_, fun htriggered hroom => ?_,
        fun hloop hrunning => ?_, fun hloop hpost hmore => ?_, fun hloop hpost hlast => ?_⟩
      · exact hfinished _ 0 rfl (ht.trans ((State.endSweep_once (hmode.trans honce)).trans (if_pos hfull)))
      · exact hgoesOn _ (ht.trans ((State.endSweep_once (hmode.trans honce)).trans (if_neg hroom)))
      · exact hfinished _ 0 rfl (ht.trans ((State.endSweep_triggered (hmode.trans htriggered)).trans (if_pos hfull)))
      · exact hgoesOn _ (ht.trans ((State.endSweep_triggered (hmode.trans htriggered)).trans (if_neg hroom)))
      · exact hgoesOn _ (ht.trans (State.endSweep_running (hmode.trans hloop) (hstate.trans hrunning)))
      · exact hgoesOn _ (ht.trans ((State.endSweep_post (hmode.trans hloop) (hstate.trans hpost)).trans (if_neg hmore)))
      · exact hfinished _ 1 rfl (ht.trans ((State.endSweep_post (hmode.trans hloop) (hstate.trans hpost)).trans (if_pos hlast)))
  case values =>
    intro d fb value stale first isMember fed
    have hfirst (entries : List Entry) : first entries = firstEntry entries c.node := (firstEntry_eq entries c.node).symm
    have hstale : stale = !fb.current v.previous := (fb.not_current v.previous).symm
    have hrecord (i : SecId) (r : RecId) (h : isMember i r) : s.recordOf c.node = some r := hm.recordOf_node h.1 h.2
    simp only [hfirst, hstale, Direction.sign_mul]
    refine ⟨fun hfield hline => ⟨fun e he => ?line, fun habsent => ⟨fun i r hmember hlead => ?lead, fun hnone => ?noLead⟩⟩,
      fun hfield hissued => ⟨fun i r hmember => ?issuedMember, fun hout => ⟨fun e he => ?issuedEntry, fun habsent => ?issuedAbsent⟩⟩,
      fun hfield hdrive => ?speedDrive, fun hfield hcal => ?speedCal, fun hfield hdrive => ?loadDrive, fun hfield hcal => ?loadCal,
      fun hfield hfed => ?status, fun hfield => ⟨fun i r hmember => ?imbalance, fun hout => ?noImbalance⟩,
      fun hfield => ⟨fun i r hmember => ?trim, fun hout => ?noTrim⟩⟩
    case line => exact State.captureValue_line hfield hline he
    case lead => exact (State.captureValue_line_absent hfield hline habsent).trans (by rw [hm.leadOf_head hmember.2 hlead]; rfl)
    case noLead => exact (State.captureValue_line_absent hfield hline habsent).trans (by rw [State.leadOf_none hnone]; rfl)
    case issuedMember => exact State.captureValue_issued_member hfield hissued (hrecord i r hmember)
    case issuedEntry =>
      exact (State.captureValue_issued_other hfield hissued (State.recordOf_none hout)).trans (by rw [he]; rfl)
    case issuedAbsent =>
      exact (State.captureValue_issued_other hfield hissued (State.recordOf_none hout)).trans (by rw [habsent]; rfl)
    case speedDrive => exact (State.captureValue_actualSpeed hfield).trans (by rw [hdrive]; rfl)
    case speedCal => exact (State.captureValue_actualSpeed hfield).trans (by rw [hcal]; rfl)
    case loadDrive => exact (State.captureValue_load hfield).trans (by rw [hdrive]; rfl)
    case loadCal => exact (State.captureValue_load hfield).trans (by rw [hcal]; rfl)
    case status => exact State.captureValue_status hfield
    case imbalance => exact (State.captureValue_imbalance hfield).trans (by rw [hrecord i r hmember]; rfl)
    case noImbalance => exact (State.captureValue_imbalance hfield).trans (by rw [State.recordOf_none hout]; rfl)
    case trim => exact (State.captureValue_trim hfield).trans (by rw [hrecord i r hmember]; rfl)
    case noTrim => exact (State.captureValue_trim hfield).trans (by rw [State.recordOf_none hout]; rfl)
  case triggers =>
    intro c matching t
    have hmatches : matching ↔ c.matchesTrigger kind index = true := (c.matchesTrigger_iff kind index).symm
    refine ⟨fun hmatch hmode hstate => ?run, fun hmatch hmode hstate hcount => ?post, fun hmatch hmode hstate hcount => ?done,
      fun hignored => ?ignored⟩
    case run => exact congrArg Prod.fst (State.takeTrigger_run (hmatches.1 hmatch) hmode hstate)
    case post => exact congrArg Prod.fst (State.takeTrigger_post (hmatches.1 hmatch) hmode hstate hcount)
    case done =>
      have ht : t = s.captureDone 1 := congrArg Prod.fst (State.takeTrigger_done (hmatches.1 hmatch) hmode hstate hcount)
      rw [ht]
      exact State.captureDone_posted rfl rfl rfl 1
    case ignored =>
      rw [hmatches, Bool.not_eq_true] at hignored
      exact congrArg Prod.fst (State.takeTrigger_ignored hignored)

end Sys2Proof.Machine
end

section
/-! PROOFS. The capture commands: CAPTURE START, CAPTURE STOP and TRIGGER CAPTURE (R145 to R147). -/

namespace Sys2Proof.Machine

/-! ## A request without operands -/

/-- The command of a row that takes no operands does its work on the state without the request and posts its one reply. -/
theorem TakesObserve.serve_bare {s : State} {r : RequestFrame} {row : CommandRow} {level : Level}
    (h : TakesObserve s r row.code level) (hrow : row.least = .observe ∧ row.fewest = 0) (hops : r.operands = [])
    (body : State → Level → List Int → Answer) :
    s.whenPowered (fun s => s.serve row body) = .next ((body s.dropRequest level []).post r.tag) :=
  h.serve hrow.1 (ops := []) (by rw [operandValues, hops, List.map_nil]) ⟨hrow.2.le, Nat.zero_le _⟩ rfl

/-! ## CAPTURE START (R145) -/

/-- A capture may be started in IDLE and DONE. -/
theorem CaptureState.stopped_iff (x : CaptureState) : x.stopped = true ↔ x = .idle ∨ x = .done := by
  cases x <;> decide

/-- The pairings of field and source that a capture item may have (R143). -/
theorem CaptureItem.allowed_iff (item : CaptureItem) : item.allowed = true ↔
    (item.field = .reference ∧ (item.source = .line ∨ item.source = .issued)) ∨
    ((item.field = .actualSpeed ∨ item.field = .load ∨ item.field = .status) ∧
      (item.source = .drive ∨ item.source = .calibrated)) ∨ item.field = .imbalance ∨ item.field = .trim := by
  obtain ⟨enable, node, field, source⟩ := item
  cases field <;> cases source <;> simp [CaptureItem.allowed]

/-- The bad item is the first active one whose pairing is not allowed. -/
theorem State.badItem_first {s : State} {k : Nat} {item : CaptureItem} (hitem : s.activeList[k]? = some item)
    (hbad : item.allowed = false) (hbefore : ∀ j other, j < k → s.activeList[j]? = some other → other.allowed = true) :
    s.badItem = some k := by
  obtain ⟨hk, hget⟩ := List.getElem?_eq_some_iff.1 hitem
  refine List.findIdx?_eq_some_iff_getElem.2 ⟨hk, by rw [hget, hbad]; rfl, fun j hj => ?_⟩
  rw [hbefore j _ hj (List.getElem?_eq_getElem (hj.trans hk))]
  decide

/-- No item is bad where every active pairing is allowed. -/
theorem State.badItem_none {s : State} (h : ∀ item ∈ s.activeList, item.allowed = true) : s.badItem = none :=
  List.findIdx?_eq_none_iff.2 fun item hitem => by rw [h item hitem]; rfl

section
variable {s : State} (l : Level)

/-- CAPTURE START is refused while the capture runs. -/
theorem captureStartBody_running (h : ¬ (s.capture.state = .idle ∨ s.capture.state = .done)) :
    captureStartBody s l [] = s.refuse .wrongState [(s.capture.state.code : Int)] :=
  if_neg (mt (CaptureState.stopped_iff _).1 h)

/-- CAPTURE START refuses an empty active list. -/
theorem captureStartBody_empty (h : s.capture.state = .idle ∨ s.capture.state = .done) (hlist : s.activeList = []) :
    captureStartBody s l [] = s.refuse .badValue [-1] := by
  simp only [captureStartBody, if_pos ((CaptureState.stopped_iff _).2 h), hlist, List.isEmpty_nil, if_true]

/-- CAPTURE START refuses an active item whose pairing is not allowed, and names the first. -/
theorem captureStartBody_badItem (h : s.capture.state = .idle ∨ s.capture.state = .done) {k : Nat} (hbad : s.badItem = some k) :
    captureStartBody s l [] = s.refuse .badValue [(k : Int)] := by
  have hlist : s.activeList.isEmpty = false := by
    rw [List.isEmpty_eq_false_iff]
    intro hnil
    simp [State.badItem, hnil] at hbad
  simp only [captureStartBody, if_pos ((CaptureState.stopped_iff _).2 h), hlist, hbad]
  rfl

/-- Behind the checks of the items CAPTURE START makes that of the watch index, and begins where it passes. -/
theorem captureStartBody_items (h : s.capture.state = .idle ∨ s.capture.state = .done) (hlist : s.activeList ≠ [])
    (hitems : ∀ item ∈ s.activeList, item.allowed = true) : captureStartBody s l [] =
      if s.capture.mode ≠ .once ∧ s.capture.triggerKind = .watch ∧ 3 < s.capture.triggerIndex then s.refuse .badValue [8]
      else s.beginCapture.answerOk [] := by
  simp only [captureStartBody, if_pos ((CaptureState.stopped_iff _).2 h), List.isEmpty_eq_false_iff.2 hlist, State.badItem_none hitems]
  rfl

/-! ## CAPTURE STOP (R146) -/

/-- CAPTURE STOP ends a capture in RUNNING and POST. -/
theorem captureStopBody_taking (h : s.capture.state = .running ∨ s.capture.state = .post) :
    captureStopBody s l [] = (s.modCapture fun c => { c with state := .done, remaining := 0 }).answerOk [] := by
  rcases h with h | h <;> simp only [captureStopBody, h]

/-- CAPTURE STOP takes a capture that waits back to IDLE. -/
theorem captureStopBody_waiting (h : s.capture.state = .waiting) :
    captureStopBody s l [] = (s.modCapture fun c => { c with state := .idle }).answerOk [] := by
  simp only [captureStopBody, h]

/-- CAPTURE STOP is ignored by a capture that is stopped. -/
theorem captureStopBody_stopped (h : s.capture.state = .idle ∨ s.capture.state = .done) :
    captureStopBody s l [] = s.refuse .ignored [] := by
  rcases h with h | h <;> simp only [captureStopBody, h]

/-! ## TRIGGER CAPTURE (R147) -/

/-- TRIGGER CAPTURE answers OK where the COMMAND trigger has an effect. -/
theorem triggerCaptureBody_taken {t : State} (h : s.takeTrigger .command 0 = (t, true)) : triggerCaptureBody s l [] = t.answerOk [] := by
  simp only [triggerCaptureBody, h, if_true]

/-- TRIGGER CAPTURE is ignored where the COMMAND trigger has none. -/
theorem triggerCaptureBody_ignored (h : s.takeTrigger .command 0 = (s, false)) : triggerCaptureBody s l [] = s.refuse .ignored [] := by
  simp only [triggerCaptureBody, h]
  rfl

end

/-- A COMMAND signal is the trigger source exactly where the trigger kind is COMMAND (R141). -/
theorem CaptureControl.matchesTrigger_command (c : CaptureControl) (index : Nat) :
    c.matchesTrigger .command index = true ↔ c.triggerKind = .command := by
  simp [CaptureControl.matchesTrigger_iff]

/-- A request answered OK at the entry to DONE: the capture control and the CAPTURE_DONE event beside the reply. -/
theorem State.captureDone_answered (s : State) (r : RequestFrame) (detail : Nat) :
    let t := ((s.dropRequest.captureDone detail).answerOk []).post r.tag
    t = { s.answered r .ok false [] with capture := t.capture, events := t.events, nextSequence := t.nextSequence } := by
  obtain ⟨-, -, -, hframe⟩ := State.captureDone_spec s.dropRequest s rfl rfl rfl detail
  intro t
  conv_lhs => rw [show t = ((s.dropRequest.captureDone detail).answerOk []).post r.tag from rfl, hframe]
  rfl

/-! ## O51 -/

/-- Settles O51, by the command and by its checks in their order. -/
theorem captureCommandsFollowTheirTables : Obligations.CaptureCommandsFollowTheirTables := by
  unfold Obligations.CaptureCommandsFollowTheirTables
  refine ⟨CaptureItem.allowed_iff, fun s r level hops =>
    ⟨fun htakes => ?start, fun htakes => ?stop, fun htakes => ?trigger⟩⟩
  case start =>
    intro c stopped watchFault
    have hserve : exec .captureStart s = .next ((captureStartBody s.dropRequest level []).post r.tag) :=
      TakesObserve.serve_bare (row := rowCaptureStart) htakes ⟨rfl, rfl⟩ hops captureStartBody
    rw [hserve]
    refine ⟨fun hrunning => ?_, fun hstopped hlist => ?_, fun k item hstopped hitem hbad hbefore => ?_,
      fun hstopped hlist hitems hfault => ?_, fun hstopped hlist hitems hfault => ?_⟩
    · rw [captureStartBody_running (s := s.dropRequest) level hrunning]
      rfl
    · rw [captureStartBody_empty (s := s.dropRequest) level hstopped hlist]
      rfl
    · rw [captureStartBody_badItem (s := s.dropRequest) level hstopped (State.badItem_first (s := s) hitem hbad hbefore)]
      rfl
    · rw [captureStartBody_items (s := s.dropRequest) level hstopped hlist hitems]
      exact congrArg (fun a : Answer => Host.Outcome.next (a.post r.tag)) (if_pos hfault)
    · rw [captureStartBody_items (s := s.dropRequest) level hstopped hlist hitems]
      exact congrArg (fun a : Answer => Host.Outcome.next (a.post r.tag)) (if_neg hfault)
  case stop =>
    have hserve : exec .captureStop s = .next ((captureStopBody s.dropRequest level []).post r.tag) :=
      TakesObserve.serve_bare (row := rowCaptureStop) htakes ⟨rfl, rfl⟩ hops captureStopBody
    rw [hserve]
    refine ⟨fun htaking => ?_, fun hwaiting => ?_, fun hstopped => ?_⟩
    · rw [captureStopBody_taking (s := s.dropRequest) level htaking]
      rfl
    · rw [captureStopBody_waiting (s := s.dropRequest) level hwaiting]
      rfl
    · rw [captureStopBody_stopped (s := s.dropRequest) level hstopped]
      rfl
  case trigger =>
    intro begins posts
    have hserve : exec .triggerCapture s = .next ((triggerCaptureBody s.dropRequest level []).post r.tag) :=
      TakesObserve.serve_bare (row := rowTriggerCapture) htakes ⟨rfl, rfl⟩ hops triggerCaptureBody
    have hsource := s.capture.matchesTrigger_command 0
    rw [hserve]
    refine ⟨fun hkind hbegins => ?_, fun hkind hposts hcount => ?_, fun hkind hposts hcount => ?_, fun hignored => ?_⟩
    · rw [triggerCaptureBody_taken level (State.takeTrigger_run (s := s.dropRequest) (hsource.2 hkind) hbegins.1 hbegins.2)]
      rfl
    · rw [triggerCaptureBody_taken level (State.takeTrigger_post (s := s.dropRequest) (hsource.2 hkind) hposts.1 hposts.2 hcount)]
      rfl
    · rw [triggerCaptureBody_taken level (State.takeTrigger_done (s := s.dropRequest) (hsource.2 hkind) hposts.1 hposts.2 hcount)]
      obtain ⟨hcapture, hposted⟩ := State.captureDone_posted (s := s) (u := s.dropRequest) rfl rfl rfl 1
      exact ⟨_, rfl, hcapture, hposted, s.captureDone_answered r 1⟩
    · have hother : s.capture.matchesTrigger .command 0 = false ∨ ¬ begins ∧ ¬ posts :=
        hignored.imp_left fun hkind => Bool.eq_false_iff.2 (mt hsource.1 hkind)
      rw [triggerCaptureBody_ignored level (State.takeTrigger_ignored (s := s.dropRequest) hother)]
      rfl

end Sys2Proof.Machine
end

section
/-! PROOFS. A frame is read back from its bytes: the check word, length and counts that R152 tests, and every field of R151. -/

namespace Sys2Proof

/-- The kind codes are 1 to 5. -/
theorem Frame.kindCode_range (f : Frame) : 1 ≤ f.kindCode ∧ f.kindCode ≤ 5 := by cases f <;> simp [Frame.kindCode]

/-- A frame's kind belongs to its port. -/
theorem Frame.kindPort_kindCode (f : Frame) : kindPort f.kindCode = f.port := by cases f <;> rfl

/-- A count that a byte holds is read back from it. -/
theorem count_toNat {n : Nat} (h : n < 256) : (BitVec.ofNat 8 n).toNat = n := by rw [BitVec.toNat_ofNat, Nat.mod_eq_of_lt h]

/-- The body of a frame that the layout can carry has the length that its kind requires, with its count in bounds. -/
theorem Frame.requiredLength_body {f : Frame} (h : f.wf = true) : requiredLength f.kindCode f.body = some f.body.length := by
  cases f with
  | dispatch f =>
    have hcount : f.entries.length ≤ 62 := of_decide_eq_true h
    simp only [Frame.kindCode, Frame.body, requiredLength, List.getElem?_cons_zero, List.length_cons, entries_bytes_length,
      count_toNat (show f.entries.length < 256 by omega), if_pos hcount]
    exact congrArg some (by omega)
  | ret f => rfl
  | request f =>
    have hcount : f.operands.length ≤ 16 := of_decide_eq_true h
    simp only [Frame.kindCode, Frame.body, requiredLength, List.getElem?_cons_succ, List.getElem?_cons_zero, List.length_cons,
      words_bytes_length, count_toNat (show f.operands.length < 256 by omega), if_pos hcount]
    exact congrArg some (by omega)
  | reply f =>
    have hcount : f.data.length ≤ 16 := of_decide_eq_true h
    simp only [Frame.kindCode, Frame.body, requiredLength, List.getElem?_cons_succ, List.getElem?_cons_zero, List.length_cons,
      words_bytes_length, count_toNat (show f.data.length < 256 by omega), if_pos hcount]
    exact congrArg some (by omega)
  | station f =>
    have hstates : f.sections.length = 16 := of_decide_eq_true h
    simp [Frame.kindCode, Frame.body, requiredLength, bytes16, hstates]

/-- No kind requires a body of more than 311 bytes, so the 16-bit length field holds its length. -/
theorem requiredLength_le {kind : Nat} {body : List Byte} {n : Nat} (h : requiredLength kind body = some n) : n ≤ 311 := by
  unfold requiredLength at h
  grind

/-- The body of a frame is read back with every field (tests 5 and 6 of R152). -/
theorem Frame.readBody_body (f : Frame) : readBody f.kindCode f.headerNode f.cycle f.body = .ok f := by
  cases f with
  | dispatch f => simp only [Frame.kindCode, Frame.body, readBody, readEntries_bytes]; rfl
  | ret f =>
    simp only [Frame.kindCode, Frame.body, readBody, bytes24, bytes16, List.cons_append, List.nil_append, word24_extract,
      word16_extract]
    rfl
  | request f =>
    simp only [Frame.kindCode, Frame.body, readBody, readWords_bytes]
    exact if_pos rfl
  | reply f => simp only [Frame.kindCode, Frame.body, readBody, readWords_bytes]; rfl
  | station f =>
    simp only [Frame.kindCode, Frame.body, readBody, bytes16, List.cons_append, List.nil_append, word16_extract]
    rfl

/-- Header, length field and body of a frame, byte by byte. -/
theorem Frame.content_cons (f : Frame) : f.content =
    BitVec.ofNat 8 f.kindCode :: f.headerNode :: f.cycle.extractLsb' 8 8 :: f.cycle.extractLsb' 0 8 ::
      (BitVec.ofNat 16 f.body.length).extractLsb' 8 8 :: (BitVec.ofNat 16 f.body.length).extractLsb' 0 8 :: f.body := rfl

/-- The bytes on the line fall apart into what the check word covers and the check word. -/
theorem Frame.bytes_split (f : Frame) : 8 ≤ f.bytes.length ∧ f.bytes.take (f.bytes.length - 2) = f.content ∧
    f.bytes.drop (f.bytes.length - 2) = bytes16 (checkWord f.content) := by
  have hword : (bytes16 (checkWord f.content)).length = 2 := rfl
  have hlength : f.bytes.length = f.content.length + 2 := by rw [Frame.bytes, List.length_append, hword]
  have hheader : 6 ≤ f.content.length := by rw [Frame.content_cons]; simp only [List.length_cons]; omega
  rw [hlength, Nat.add_sub_cancel]
  exact ⟨by omega, List.take_left, List.drop_left⟩

/-- A frame whose body has the length of its kind passes tests 1 to 4 of R152 at its port, and its body is read. -/
theorem Frame.receive_bytes {f : Frame} (hbody : requiredLength f.kindCode f.body = some f.body.length) :
    receive f.port f.bytes = readBody f.kindCode f.headerNode f.cycle f.body := by
  obtain ⟨hlong, hcontent, hcheck⟩ := f.bytes_split
  obtain ⟨hlow, hhigh⟩ := f.kindCode_range
  have hkind : (BitVec.ofNat 8 f.kindCode).toNat = f.kindCode := count_toNat (by omega)
  have hlength : (BitVec.ofNat 16 f.body.length).toNat = f.body.length := by
    rw [BitVec.toNat_ofNat, Nat.mod_eq_of_lt]
    have := requiredLength_le hbody
    omega
  unfold receive
  dsimp only
  rw [hcontent, hcheck, if_neg (by simp only [ne_eq, not_true, or_false]; omega), Frame.content_cons]
  dsimp only
  rw [hkind, word16_extract, word16_extract, hlength, if_neg (by omega), if_neg (by simp [hbody]),
    if_neg (not_not.2 f.kindPort_kindCode)]

/-- Settles O52: the bytes pass tests 1 to 4 of R152, and the body is read back with every field. -/
theorem frameRoundTrip : Obligations.FrameRoundTrip := by
  unfold Obligations.FrameRoundTrip
  exact fun f hwf => (Frame.receive_bytes (Frame.requiredLength_body hwf)).trans f.readBody_body

end Sys2Proof
end

section
/-! PROOFS. The supply (R160), requests from the line (R154) and the sending at the two ports (R154, R156, R157). -/

namespace Sys2Proof.Machine

/-! ## The supply (R160) -/

/-- Every command but POWER_ON has its effect on a powered bridge only (R160). -/
theorem exec_eq_whenPowered (c : Instr) (h : ∀ straps permit, c ≠ .powerOn straps permit) :
    ∃ effect : State → State, ∀ s, exec c s = s.whenPowered effect := by
  cases c with
  | powerOn straps permit => exact absurd rfl (h straps permit)
  | badFrame port bytes => exact ⟨id, fun s => congrArg Host.Outcome.next (ite_self s).symm⟩
  | _ => exact ⟨_, fun _ => rfl⟩

/-- Settles O4: POWER_LOSS is one change of the supply, and every effect but that of POWER_ON needs the supply. -/
theorem powerLossStopsEverything : Obligations.PowerLossStopsEverything := by
  unfold Obligations.PowerLossStopsEverything
  refine ⟨fun s hp => State.whenPowered_on s (fun s => { s with powered := false }) hp, fun c s hoff hother => ?_⟩
  obtain ⟨effect, heffect⟩ := exec_eq_whenPowered c hother
  rw [heffect, State.whenPowered_off s effect hoff]

/-! ## Requests from the line (R154) -/

/-- A byte is a node's number byte exactly where it holds that number: no node number exceeds a byte. -/
theorem eq_nodeByte_iff (b : Byte) (n : NodeId) : b = nodeByte n ↔ b.toNat = n.val + 1 := by
  have hnode : (nodeByte n).toNat = n.val + 1 := count_toNat (show n.val + 1 < 256 by omega)
  rw [← BitVec.toNat_inj, hnode]

/-- A request that the layout can carry is queued where it names this station, and goes downstream where it names another (R154). -/
theorem exec_serviceRequest {s : State} (hp : s.powered = true) {f : RequestFrame} (hwf : f.wf = true) :
    exec (.serviceRequest f) s =
      .next (if f.station.toNat = s.station.val + 1 then s.queueRequest f else s.forwardDown (.request f)) := by
  have hhere : f.station = s.stationByte ↔ f.station.toNat = s.station.val + 1 := eq_nodeByte_iff f.station s.station
  refine (State.whenPowered_on s _ hp).trans (congrArg Host.Outcome.next ?_)
  rw [if_pos hwf, if_congr hhere rfl rfl]

/-- Settles O9: the two queues are the two branches of the request's station. -/
theorem serviceRequestIsQueuedOrForwarded : Obligations.ServiceRequestIsQueuedOrForwarded := by
  unfold Obligations.ServiceRequestIsQueuedOrForwarded
  intro s f hp hcount
  rw [exec_serviceRequest hp (decide_eq_true hcount)]
  refine ⟨fun hhere => ?_, fun hother => ?_⟩
  · rw [if_pos hhere]
    rfl
  · rw [if_neg hother]
    rfl

/-! ## The places of the upstream port (R156, R157) -/

/-- The frame of a place that may be sent next: the head of its queue, or the station frame while the line timer runs. -/
def State.headAt (s : State) : UpPlace → Option ReadyFrame
  | .through => s.throughQueue.head?
  | .reply => s.replyQueue.head?
  | .slot => s.stationToSend

/-- The station frame may be sent only while the line timer runs (R157). -/
theorem State.stationToSend_eq_some (s : State) (x : ReadyFrame) :
    s.stationToSend = some x ↔ s.timer = .running ∧ s.stationSlot = some x := by
  unfold State.stationToSend
  split <;> simp [*]

/-- The arbiter chooses among the heads of the places. -/
theorem State.mem_upstreamHeads_iff (s : State) (x : UpPlace × ReadyFrame) : x ∈ s.upstreamHeads ↔ s.headAt x.1 = some x.2 := by
  rw [State.mem_upstreamHeads, ← State.stationToSend_eq_some]
  obtain ⟨place, f⟩ := x
  cases place <;> simp [State.headAt]

/-- UPSTREAM_SEND of a powered bridge is the arbiter. -/
theorem exec_upstreamSend {s : State} (hp : s.powered = true) : exec .upstreamSend s = .next s.arbitrate :=
  State.whenPowered_on s State.arbitrate hp

/-- A head that became ready before the heads of the other places is sent (R156). -/
theorem upstreamSend_first {s : State} (hp : s.powered = true) {place : UpPlace} {x : ReadyFrame} (hx : s.headAt place = some x)
    (hfirst : ∀ other y, other ≠ place → s.headAt other = some y → x.ready < y.ready) :
    exec .upstreamSend s = .next (s.sendUp (place, x)) := by
  rw [exec_upstreamSend hp, s.arbitrate_first (place, x) ((s.mem_upstreamHeads_iff _).2 hx)]
  rintro ⟨other, y⟩ hy hne
  have hhead : s.headAt other = some y := (s.mem_upstreamHeads_iff _).1 hy
  refine hfirst other y ?_ hhead
  rintro rfl
  exact hne (congrArg _ (Option.some.inj (hhead.symm.trans hx)))

/-- Where no place has a frame to send, nothing is sent. -/
theorem upstreamSend_none {s : State} (hp : s.powered = true) (h : ∀ place, s.headAt place = none) :
    exec .upstreamSend s = .next s := by
  have hheads : s.upstreamHeads = [] := by
    refine List.eq_nil_iff_forall_not_mem.2 fun x hx => ?_
    have hx := (s.mem_upstreamHeads_iff x).1 hx
    rw [h] at hx
    cases hx
  rw [exec_upstreamSend hp]
  unfold State.arbitrate
  rw [hheads]
  rfl

/-- Where a place has a frame to send, one is sent that no other head became ready before, in a tie as the free value has it (R156). -/
theorem upstreamSend_some {s : State} (hp : s.powered = true) {place : UpPlace} {x : ReadyFrame} (hx : s.headAt place = some x) :
    ∃ source y draws, s.headAt source = some y ∧ (∀ other z, s.headAt other = some z → y.ready ≤ z.ready) ∧
      exec .upstreamSend s = .next (State.sendUp { s with freeDraws := draws } (source, y)) := by
  obtain ⟨⟨source, y⟩, hy, hfirst, draws, hsend⟩ :=
    s.arbitrate_spec (List.ne_nil_of_mem ((s.mem_upstreamHeads_iff (place, x)).2 hx))
  exact ⟨source, y, draws, (s.mem_upstreamHeads_iff _).1 hy,
    fun other z hz => hfirst (other, z) ((s.mem_upstreamHeads_iff _).2 hz),
    (exec_upstreamSend hp).trans (congrArg _ hsend)⟩

/-- The frame sent is that of the place. -/
theorem State.upstreamSent_sendUp (s : State) (x : UpPlace × ReadyFrame) : (s.sendUp x).upstreamSent = some x.2.frame := by
  obtain ⟨place, f⟩ := x
  cases place with
  | through | reply | slot => rfl

/-- Sending from a queue leaves the station slot. -/
theorem State.stationSlot_sendUp (s : State) {x : UpPlace × ReadyFrame} (h : x.1 ≠ .slot) :
    (s.sendUp x).stationSlot = s.stationSlot := by
  obtain ⟨place, f⟩ := x
  cases place with
  | slot => exact absurd rfl h
  | through | reply => rfl

/-- A frame may be sent next where it is the head of a queue, or the station frame while the line timer runs (R156, R157). -/
theorem State.exists_headAt (s : State) (x : ReadyFrame) : (∃ place, s.headAt place = some x) ↔
    s.throughQueue.head? = some x ∨ s.replyQueue.head? = some x ∨ s.timer = .running ∧ s.stationSlot = some x := by
  rw [← State.stationToSend_eq_some]
  constructor
  · rintro ⟨place, hx⟩
    cases place with
    | through => exact .inl hx
    | reply => exact .inr (.inl hx)
    | slot => exact .inr (.inr hx)
  · rintro (hx | hx | hx)
    · exact ⟨.through, hx⟩
    · exact ⟨.reply, hx⟩
    · exact ⟨.slot, hx⟩

/-- Where something waits that may be sent, a place has a head. -/
theorem State.headAt_of_waiting {s : State}
    (h : s.throughQueue ≠ [] ∨ s.replyQueue ≠ [] ∨ s.timer = .running ∧ s.stationSlot ≠ none) :
    ∃ place x, s.headAt place = some x := by
  rcases h with hthrough | hreply | ⟨hrunning, hslot⟩
  · exact ⟨.through, Option.ne_none_iff_exists'.1 (mt List.head?_eq_none_iff.1 hthrough)⟩
  · exact ⟨.reply, Option.ne_none_iff_exists'.1 (mt List.head?_eq_none_iff.1 hreply)⟩
  · obtain ⟨x, hx⟩ := Option.ne_none_iff_exists'.1 hslot
    exact ⟨.slot, x, (s.stationToSend_eq_some x).2 ⟨hrunning, hx⟩⟩

/-- Where nothing waits that may be sent, no place has a head; a station frame does not wait while the line timer does not run (R157). -/
theorem State.headAt_of_idle {s : State} (hthrough : s.throughQueue = []) (hreply : s.replyQueue = [])
    (hslot : s.timer ≠ .running ∨ s.stationSlot = none) (place : UpPlace) : s.headAt place = none := by
  cases place with
  | through => exact List.head?_eq_none_iff.2 hthrough
  | reply => exact List.head?_eq_none_iff.2 hreply
  | slot => rcases hslot with h | h <;> simp [State.headAt, State.stationToSend, h]

/-! ## Sending downstream (R154) -/

/-- DOWNSTREAM_SEND of a powered bridge sends the head of the downstream queue. -/
theorem exec_downstreamSend {s : State} (hp : s.powered = true) : exec .downstreamSend s = .next s.sendDown :=
  State.whenPowered_on s State.sendDown hp

/-! ## The statement -/

/-- Settles O10: the arbiter on the heads of the three places, and the downstream queue by its head. -/
theorem portsSendEarliestFrame : Obligations.PortsSendEarliestFrame := by
  unfold Obligations.PortsSendEarliestFrame
  refine ⟨fun s x hp hx hreply hslot => ?through, fun s x hp hx hthrough hslot => ?reply,
    fun s x hp hrunning hx hthrough hreply => ?slot, fun s hp hthrough hreply hslot => ?nothing, fun s hp hwaiting => ?some,
    fun s f rest hp hqueue => ?down, fun s hp hqueue => ?downNothing⟩
  case through =>
    exact upstreamSend_first hp (place := .through) hx fun
      | .through, _, hne, _ => absurd rfl hne
      | .reply, y, _, hy => hreply y hy
      | .slot, y, _, hy => ((s.stationToSend_eq_some y).1 hy).elim (hslot · y)
  case reply =>
    exact upstreamSend_first hp (place := .reply) hx fun
      | .through, y, _, hy => hthrough y hy
      | .reply, _, hne, _ => absurd rfl hne
      | .slot, y, _, hy => ((s.stationToSend_eq_some y).1 hy).elim (hslot · y)
  case slot =>
    exact upstreamSend_first hp (place := .slot) ((s.stationToSend_eq_some x).2 ⟨hrunning, hx⟩) fun
      | .through, y, _, hy => hthrough y hy
      | .reply, y, _, hy => hreply y hy
      | .slot, _, hne, _ => absurd rfl hne
  case nothing => exact upstreamSend_none hp (State.headAt_of_idle hthrough hreply hslot)
  case some =>
    obtain ⟨_, _, hwaits⟩ := State.headAt_of_waiting hwaiting
    obtain ⟨place, x, draws, hx, hearliest, hsend⟩ := upstreamSend_some hp hwaits
    refine ⟨_, x, hsend, State.upstreamSent_sendUp _ _, (s.exists_headAt x).1 ⟨place, hx⟩, fun y hy => ?_, fun hstopped => ?_⟩
    · obtain ⟨other, hother⟩ := (s.exists_headAt y).2 hy
      exact hearliest other y hother
    · refine State.stationSlot_sendUp _ ?_
      rintro rfl
      exact hstopped ((s.stationToSend_eq_some x).1 hx).1
  case down | downNothing => rw [exec_downstreamSend hp, State.sendDown, hqueue]

end Sys2Proof.Machine
end

section
/-! SUPPORT. What becomes of the Event Queue (R167): whatever the block does, it posts events and takes the oldest records out, one change after
the other, and leaves the queue otherwise; only a power-up puts another queue in place. -/

namespace Sys2Proof.Machine

/-! ## Changes of the Event Queue -/

/-- One change, as the Event Queue sees it: none, an event posted, or the oldest records taken out. -/
inductive EventMove : State → State → Prop where
  | none {s t : State} (he : t.events = s.events) (hn : t.nextSequence = s.nextSequence) : EventMove s t
  | post {s : State} (k : EventKind) (a : Option SecId) (n : Option NodeId) (p : Option Pos) (c : Word16) (v : Option Int) (d : Nat) :
      EventMove s (s.post k a n p c v d)
  | taken {s : State} (k : Nat) : EventMove s { s with events := s.events.drop k }

/-- Some changes, one after the other: t's Event Queue comes from that of s by posts and readings alone. -/
abbrev Logs : State → State → Prop := Relation.ReflTransGen EventMove

/-- Marking overflow leaves the sequence numbers. -/
theorem markOverflow_sequence : ∀ es : List Event, (markOverflow es).map Event.sequence = es.map Event.sequence
  | [] => rfl
  | [_] => rfl
  | _ :: e :: es => congrArg (List.cons _) (markOverflow_sequence (e :: es))

/-- The order speaks of the queue's length and of its sequence numbers alone. -/
theorem eventsInOrder_iff (s : State) : EventsInOrder s ↔ s.events.length ≤ 32 ∧
    ∀ (k : Nat) (q : Word16), (s.events.map Event.sequence)[k]? = some q → q + BitVec.ofNat 16 (s.events.length - k) = s.nextSequence := by
  unfold EventsInOrder
  simp only [List.getElem?_map, Option.map_eq_some_iff, forall_exists_index, and_imp, forall_apply_eq_imp_iff₂]

namespace EventsInOrder

/-- Posting into a queue of fewer than 32 records gives the new record the number that follows. -/
theorem append {s : State} (h : EventsInOrder s) (hroom : s.events.length < 32) {e : Event} (he : e.sequence = s.nextSequence) :
    EventsInOrder { s with events := s.events ++ [e], nextSequence := s.nextSequence + 1 } := by
  obtain ⟨_, hnumbers⟩ := h
  refine ⟨List.length_append.trans_le hroom, fun k x hk => ?_⟩
  change (s.events ++ [e])[k]? = some x at hk
  change x.sequence + BitVec.ofNat 16 ((s.events ++ [e]).length - k) = s.nextSequence + 1
  rw [List.length_append, List.length_singleton]
  rcases Nat.lt_trichotomy k s.events.length with hlt | rfl | hgt
  · rw [List.getElem?_append_left hlt] at hk
    rw [show s.events.length + 1 - k = s.events.length - k + 1 by omega, BitVec.ofNat_add, ← BitVec.add_assoc, hnumbers k x hk]
    rfl
  · rw [List.getElem?_concat_length] at hk
    cases hk
    rw [he, Nat.add_sub_cancel_left]
    rfl
  · rw [List.getElem?_eq_none (by simpa using hgt)] at hk
    cases hk

/-- A discarded event leaves length and numbers. -/
theorem marked {s : State} (h : EventsInOrder s) : EventsInOrder { s with events := markOverflow s.events } := by
  rw [eventsInOrder_iff] at h ⊢
  dsimp only
  rw [markOverflow_length, markOverflow_sequence]
  exact h

/-- The records behind those taken out keep their numbers and their distance from the next one. -/
theorem drop {s : State} (h : EventsInOrder s) (j : Nat) : EventsInOrder { s with events := s.events.drop j } := by
  obtain ⟨hlength, hnumbers⟩ := h
  refine ⟨(List.drop_sublist ..).length_le.trans hlength, fun k e hk => ?_⟩
  change (s.events.drop j)[k]? = some e at hk
  rw [List.getElem?_drop] at hk
  have hnumber := hnumbers _ e hk
  rw [← Nat.sub_sub, ← List.length_drop] at hnumber
  exact hnumber

/-- Every change keeps the order. -/
theorem move {s t : State} (hs : EventsInOrder s) (h : EventMove s t) : EventsInOrder t := by
  cases h with
  | none he hn => unfold EventsInOrder at *; rw [he, hn]; exact hs
  | post =>
    by_cases hroom : s.events.length < 32
    · rw [State.post_room _ _ _ _ _ _ _ _ hroom]
      exact hs.append hroom rfl
    · rw [State.post_full _ _ _ _ _ _ _ _ (Nat.le_of_not_lt hroom)]
      exact hs.marked
  | taken k => exact hs.drop k

/-- Posts and readings keep the order. -/
theorem logs {s t : State} (hs : EventsInOrder s) (h : Logs s t) : EventsInOrder t := by
  induction h with
  | refl => exact hs
  | tail _ hmove ih => exact ih.move hmove

/-- Every power-up leaves the START_UP record numbered 0, and 1 as the next number (R169). -/
theorem powerUp (s : State) (straps : BitVec 6) (permit : Bool) : EventsInOrder (s.powerUp straps permit) :=
  EventsInOrder.move (s := State.reset) invariantsHoldAtReset.1 (.none rfl rfl)

end EventsInOrder

namespace Logs

/-! ## Work over lists and branches -/

/-- One change. -/
theorem of {s t : State} (h : EventMove s t) : Logs s t := .single h

/-- Work that leaves the Event Queue. -/
theorem quiet {s t : State} (he : t.events = s.events) (hn : t.nextSequence = s.nextSequence) : Logs s t := of (.none he hn)

/-- A branch. -/
theorem ite {c : Prop} [Decidable c] {s a b : State} (ha : c → Logs s a) (hb : ¬ c → Logs s b) : Logs s (if c then a else b) := by
  split
  · exact ha ‹_›
  · exact hb ‹_›

/-- Work done or not done. -/
theorem whenTrue {c : Prop} [Decidable c] {s a : State} (ha : c → Logs s a) : Logs s (if c then a else s) := ite ha fun _ => .refl

/-- Work over a list that carries more than a state. -/
theorem foldlOn {α β : Type} (state : β → State) (f : β → α → β) (hf : ∀ b a, Logs (state b) (state (f b a))) :
    ∀ (l : List α) (b : β), Logs (state b) (state (l.foldl f b))
  | [], _ => .refl
  | a :: l, b => (hf b a).trans (foldlOn state f hf l _)

/-- Work over a list. -/
theorem foldl {α : Type} (f : State → α → State) (hf : ∀ s a, Logs s (f s a)) (l : List α) (s : State) : Logs s (l.foldl f s) :=
  foldlOn id f hf l s

/-- Work over the sections. -/
theorem forSections (f : State → SecId → State) (hf : ∀ s i, Logs s (f s i)) (s : State) : Logs s (s.forSections f) := foldl f hf _ _

/-! ## One change of the state -/

theorem modSec (s : State) (i : SecId) (f : Section → Section) : Logs s (s.modSec i f) := quiet rfl rfl

theorem modRec (s : State) (r : RecId) (f : PoolRecord → PoolRecord) : Logs s (s.modRec r f) := quiet rfl rfl

theorem modMembers (s : State) (i : SecId) (f : PoolRecord → PoolRecord) : Logs s (s.modMembers i f) :=
  quiet (State.events_modMembers ..) (State.nextSequence_modMembers ..)

theorem modDrive (s : State) (n : NodeId) (f : DriveEntry → DriveEntry) : Logs s (s.modDrive n f) := quiet rfl rfl

theorem modWatch (s : State) (w : WatchId) (f : WatchPoint → WatchPoint) : Logs s (s.modWatch w f) := quiet rfl rfl

theorem modCapture (s : State) (f : CaptureControl → CaptureControl) : Logs s (s.modCapture f) := quiet rfl rfl

theorem modEngine (s : State) (f : Engine → Engine) : Logs s (s.modEngine f) := quiet rfl rfl

theorem modMonitor (s : State) (i : SecId) (f : Monitor → Monitor) : Logs s (s.modMonitor i f) := modSec ..

theorem modProfile (s : State) (i : SecId) (f : ProfilePosition → ProfilePosition) : Logs s (s.modProfile i f) := modSec ..

theorem post (s : State) (k : EventKind) (a : Option SecId) (n : Option NodeId) (p : Option Pos) (c : Word16) (v : Option Int)
    (d : Nat) : Logs s (s.post k a n p c v d) := of (.post ..)

/-- The end of a capture posts CAPTURE_DONE (R150). -/
theorem captureDone (s : State) (detail : Nat) : Logs s (s.captureDone detail) := (modCapture ..).trans (post ..)

/-- A trigger that ends a LOOP capture at once posts CAPTURE_DONE; any other posts nothing (R147). -/
theorem takeTrigger (s : State) (k : TriggerKind) (x : Nat) : Logs s (s.takeTrigger k x).1 := by
  unfold State.takeTrigger
  split
  · split
    · dsimp only
      exact modCapture ..
    · split
      · exact captureDone ..
      · dsimp only
        exact modCapture ..
    · exact .refl
  · exact .refl

theorem signal (s : State) (k : TriggerKind) (x : Nat) : Logs s (s.signal k x) := takeTrigger ..

/-! ## Entries to a state, requests and conditions -/

/-- The section that holds the engine posts CAL_RESULT as it gives it up (R94). -/
theorem freeEngine (s : State) (i : SecId) (r : CalResult) : Logs s (s.freeEngine i r) := by
  have hresult : Logs s (s.postCalResult i r) := by cases r <;> exact post ..
  exact whenTrue fun _ => hresult.trans (modEngine _ fun _ => Engine.free)

theorem enterPassing (s : State) (i : SecId) (st : SectionState) (cause : Cause) (node : Option NodeId) (pos : Option Pos) :
    Logs s (s.enterPassing i st cause node pos) :=
  (modMembers ..).trans ((freeEngine ..).trans ((modSec ..).trans (post ..)))

theorem enterFrozen (s : State) (i : SecId) (cause : Cause) (src : Option Nat) (node : Option NodeId) (pos : Option Pos) :
    Logs s (s.enterFrozen i cause src node pos) :=
  (modMembers ..).trans ((modSec ..).trans (post ..))

theorem enterReleasing (s : State) (i : SecId) (target : ReleaseTarget) (cause : Cause) (result : CalResult) (node : Option NodeId)
    (pos : Option Pos) : Logs s (s.enterReleasing i target cause result node pos) :=
  (modMembers ..).trans ((freeEngine ..).trans ((modSec ..).trans (post ..)))

theorem resumeTrial (s : State) (i : SecId) (stepPending : Bool) : Logs s (s.resumeTrial i stepPending) :=
  (modMembers ..).trans ((modSec ..).trans (post ..))

theorem enterCalibrating (s : State) (i : SecId) : Logs s (s.enterCalibrating i) :=
  (modEngine s fun _ => { Engine.free with holder := some i, phase := some .settleLow }).trans ((modSec ..).trans (post ..))

theorem startTrial (s : State) (i : SecId) : Logs s (s.startTrial i) :=
  (modMembers ..).trans ((modSec ..).trans ((post ..).trans (signal ..)))

theorem requestFreeze (s : State) (i : SecId) (cause : Cause) (src : Option Nat) (node : Option NodeId) (pos : Option Pos) :
    Logs s (s.requestFreeze i cause src node pos) := whenTrue fun _ => enterFrozen ..

theorem requestRelease (s : State) (i : SecId) (cause : Cause) (node : Option NodeId) (pos : Option Pos) :
    Logs s (s.requestRelease i cause node pos) := whenTrue fun _ => enterReleasing ..

theorem requestAbort (s : State) (i : SecId) : Logs s (s.requestAbort i) := whenTrue fun _ => enterPassing ..

theorem faultCondition (s : State) (i : SecId) (cause : Cause) (node : Option NodeId) (pos : Option Pos) :
    Logs s (s.faultCondition i cause node pos) := whenTrue fun _ => enterPassing ..

theorem takeLate (s : State) : ∀ r : LateRequest, Logs s (s.takeLate r)
  | .freeze .. => requestFreeze ..
  | .release .. => requestRelease ..

theorem requestAction (s : State) (i : SecId) (a : LimitAction) (cause : Cause) (src : Option Nat) (node : Option NodeId)
    (pos : Option Pos) : Logs s (s.requestAction i a cause src node pos) := by
  cases a with
  | event => exact .refl
  | freeze => exact requestFreeze ..
  | release => exact requestRelease ..
  | abort => exact requestAbort ..

/-! ## The units' work on a set -/

theorem balance (s : State) (i : SecId) (complete : Bool) : Logs s (s.balance i complete) := by
  rw [State.balance_frame]
  exact quiet rfl rfl

theorem evaluateLimit (s : State) (i : SecId) (c : Word16) (k : LimitKind) : Logs s (s.evaluateLimit i c k) := by
  unfold State.evaluateLimit State.postLimit
  split
  · exact .refl
  · dsimp only
    split
    · exact modMonitor ..
    · exact (modMonitor ..).trans (post ..)
    · exact (modMonitor ..).trans ((post ..).trans ((signal ..).trans (requestAction ..)))

theorem zeroCrossStep (s : State) (i : SecId) (c : Word16) : Logs s (s.zeroCrossStep i c) := by
  refine whenTrue fun _ => ?_
  split
  · exact .refl
  · exact ite (fun _ => (modMonitor ..).trans ((modMonitor ..).trans ((post ..).trans (requestAction ..)))) fun _ => modMonitor ..

theorem monitorSet (s : State) (i : SecId) (c : Word16) : Logs s (s.monitorSet i c) :=
  (evaluateLimit ..).trans ((evaluateLimit ..).trans ((evaluateLimit ..).trans (zeroCrossStep ..)))

theorem finishCal (s : State) (i : SecId) : Logs s (s.finishCal i) := by
  unfold State.finishCal
  split
  · exact (foldl _ (fun t v => modDrive t _ _) _ _).trans (enterReleasing ..)
  · exact enterReleasing ..

theorem engineTakes (s : State) (i : SecId) (complete : Bool) : Logs s (s.engineTakes i complete) := by
  refine whenTrue fun _ => ?_
  unfold State.sampleSet
  split
  · exact ite (fun _ => (modEngine ..).trans (modEngine ..)) fun _ => modEngine ..
  · exact ite (fun _ => (modEngine ..).trans ((modEngine ..).trans (finishCal ..))) fun _ => modEngine ..
  all_goals exact .refl

theorem engineSkip (s : State) (i : SecId) : Logs s (s.engineSkip i) :=
  whenTrue fun _ => ite (fun _ => (modEngine ..).trans (enterReleasing ..)) fun _ => modEngine ..

theorem engineDispatch (s : State) : Logs s s.engineDispatch := by
  unfold State.engineDispatch
  split
  · exact .refl
  · exact whenTrue fun _ => ite (fun _ => enterReleasing ..) fun _ => modEngine ..

theorem evaluateSet (s : State) (i : SecId) (c : Word16) (complete : Bool) : Logs s (s.evaluateSet i c complete) :=
  (modSec ..).trans (whenTrue fun _ => (balance ..).trans ((monitorSet ..).trans (engineTakes ..)))

theorem completeSet (s : State) (i : SecId) : Logs s (s.completeSet i) :=
  ite (fun _ => .refl) fun _ => whenTrue fun _ => evaluateSet ..

/-! ## Watch points and feedback -/

theorem watchHit (s : State) (w : WatchId) (v : Int) (src : OccurrenceSource) : Logs s (s.watchHit w v src) :=
  ite (fun _ => (modWatch ..).trans ((post ..).trans (signal ..))) fun _ => modWatch ..

theorem occurrence (s : State) (w : WatchId) (v : Int) (src : OccurrenceSource) (change : ChangeStop) :
    Logs s (s.occurrence w v src change).1 := by
  have hhit := (watchHit s w v src).trans (modWatch _ w fun p => p.seen v)
  unfold State.occurrence
  dsimp only
  split
  · generalize (if (s.watch w).action.stops = true then s.watchRequest w else none) = q
    cases q with
    | none => exact hhit
    | some r =>
      dsimp only
      split
      · exact hhit
      · exact hhit.trans (takeLate ..)
  · exact modWatch s w fun p => p.seen v

theorem points (a : Watched) (n : NodeId) (src : OccurrenceSource) (values : List (WatchField × Int)) (change : ChangeStop)
    (skip : Option WatchId) : Logs a.state (a.points n src values change skip).state := by
  refine foldlOn Watched.state _ (fun b w => ?_) _ _
  split
  · exact .refl
  · unfold Watched.point
    dsimp only
    split
    · split
      · exact .refl
      · exact occurrence ..
    · exact .refl

theorem lineEntry (a : Watched) (e : Entry) : Logs a.state (a.lineEntry e).state := by
  unfold Watched.lineEntry
  split
  · exact .refl
  · exact points ..

theorem issuedEntry (skips : List (WatchId × Nat)) (a : Watched) (p : Entry × Nat) : Logs a.state (a.issuedEntry skips p).state := by
  unfold Watched.issuedEntry
  split
  · exact .refl
  · exact points ..

theorem takeFeedback (s : State) (n : NodeId) (raw load : Int) (status : BitVec 5) (src : FeedbackSource) :
    Logs s (s.takeFeedback n raw load status src) := by
  unfold State.takeFeedback State.afterFeedback State.feedbackSeen
  refine (modDrive s n fun d => d.take raw load status s.cycle src).trans (.trans ?_ (points _ _ _ _ _ _))
  dsimp only
  split
  · exact .refl
  · exact (whenTrue fun _ => faultCondition ..).trans (completeSet ..)

/-! ## The steps of a dispatch -/

theorem overrideStep (entries : List Entry) (s : State) (i : SecId) : Logs s (s.overrideStep entries i) := by
  refine whenTrue fun _ => ?_
  split
  · exact enterPassing ..
  · exact .refl

theorem closeSet (c : Word16) (s : State) (i : SecId) : Logs s (s.closeSet c i) := by
  have hcount (t : State) : Logs t (t.countMissing i) := foldl _ (fun u r => modDrive u _ _) _ _
  have hlost (t : State) : Logs t (match t.lostMember i with
      | some r => t.faultCondition i .feedbackLost (t.member r).node (t.member r).position
      | none => t) := by
    split
    · exact faultCondition ..
    · exact .refl
  refine ite (fun _ => .refl) fun _ => ?_
  have hwork := (whenTrue (c := (!(s.sec i).evaluated) = true) fun _ => evaluateSet s i c (s.allFresh i)).trans
    ((hcount _).trans (hlost _))
  exact ite (fun _ => hwork.trans (engineSkip ..)) fun _ => hwork

theorem openSets (s : State) : Logs s s.openSets := quiet rfl rfl

theorem closeSets (s : State) : ∀ previous : Option Word16, Logs s (s.closeSets previous)
  | none => quiet rfl rfl
  | some c => (forSections _ (closeSet c) s).trans (openSets _)

theorem lineStep (entries : List Entry) (s : State) (i : SecId) : Logs s (s.lineStep entries i) := by
  unfold State.lineStep
  split
  · exact .refl
  · split
    · exact modSec ..
    · exact ite (fun _ => (modSec ..).trans (faultCondition ..)) fun _ => modSec ..

theorem nextSegment (s : State) (i : SecId) (idx pass : Nat) (p : Int) : Logs s (s.nextSegment i idx pass p).state := by
  unfold State.nextSegment
  dsimp only
  exact modProfile ..

/-- The end action posts PROFILE_END (R109). -/
theorem endProfile (s : State) (i : SecId) (p : Int) : Logs s (s.endProfile i p).state := by
  unfold State.endProfile
  dsimp only
  split
  · exact (modProfile ..).trans (post ..)
  · exact (post ..).trans (nextSegment ..)
  · exact (modProfile ..).trans (post ..)

theorem endSegment (s : State) (i : SecId) : Logs s (s.endSegment i).state := by
  have hboundary : Logs s (s.signalBoundary i) := (modMonitor ..).trans (signal ..)
  unfold State.endSegment
  dsimp only
  split
  · exact hboundary.trans (nextSegment ..)
  · split
    · exact hboundary.trans (nextSegment ..)
    · exact hboundary.trans (endProfile ..)

theorem advanceProfile (s : State) (i : SecId) : Logs s (s.advanceProfile i).state := by
  unfold State.advanceProfile State.gatedAdvance State.gateClosed
  dsimp only
  split
  · exact .refl
  · split
    · split
      · dsimp only
        exact (modProfile ..).trans (modProfile ..)
      · exact (modProfile ..).trans (endSegment ..)
    · dsimp only
      exact modProfile ..

/-! ## References -/

/-- A reference whose clamp flag leaves NONE posts CLAMP (R55). -/
theorem issueAll (s : State) (i : SecId) (cs : List Candidate) : Logs s (s.issueAll i cs) :=
  foldl _ (fun _ _ => ite (fun _ => (modRec ..).trans (post ..)) fun _ => modRec ..) _ _

theorem formTrial (entries : List Entry) (s : State) (i : SecId) : Logs s (s.formTrial entries i).1 := by
  unfold State.formTrial
  dsimp only
  split
  · dsimp only
    exact (issueAll ..).trans (modSec ..)
  · exact (watchHit ..).trans ((modWatch ..).trans ((requestFreeze ..).trans (issueAll ..)))

theorem takeSection (entries : List Entry) (a : Formed) (i : SecId) : Logs a.state (Formed.takeSection entries a i).state := by
  have hbase (t : State) : Logs t (t.setIssueBase i) := modSec ..
  have hline (t : State) : Logs t (t.recordLine entries i) := by
    refine foldl _ (fun u r => ?_) _ _
    split
    · exact modRec ..
    · exact .refl
  unfold Formed.takeSection
  dsimp only
  split
  · exact (formTrial ..).trans (hbase _)
  · exact (issueAll ..).trans (hbase _)
  · exact (modMembers ..).trans ((issueAll ..).trans ((hbase _).trans (whenTrue fun _ => enterPassing ..)))
  · exact (issueAll ..).trans (hbase _)
  all_goals exact (hline _).trans (hbase _)

theorem takeLates (s : State) (profile watch : List LateRequest) : Logs s (s.takeLates profile watch) := by
  refine .trans ?_ (foldl _ takeLate _ _)
  unfold State.orderLate
  split
  · exact .refl
  · split
    · exact .refl
    · exact quiet rfl rfl

theorem endSweep (s : State) : Logs s s.endSweep := by
  unfold State.endSweep
  split
  · exact whenTrue fun _ => captureDone ..
  · exact ite (fun _ => (modCapture ..).trans (captureDone ..)) fun _ =>
      ite (fun _ => (modCapture ..).trans (modCapture ..)) fun _ => modCapture ..
  · exact whenTrue fun _ => ite (fun _ => (modCapture ..).trans (captureDone ..)) fun _ => modCapture ..

theorem takeSweep (s : State) (v : FrameView) : Logs s (s.takeSweep v) := by
  have hwrite (t : State) (r : CaptureRecord) : Logs t (t.writeRecord r) := by
    rw [State.writeRecord_frame]
    exact quiet rfl rfl
  have hitem (t : State) : Logs t t.advanceItem := by
    unfold State.advanceItem
    split
    · exact .refl
    · exact modCapture ..
  exact whenTrue fun _ => (foldl _ hwrite _ _).trans ((hitem _).trans (endSweep _))

theorem forwardDown (s : State) (f : Frame) : Logs s (s.forwardDown f) :=
  quiet (State.events_forwardDown ..) (State.nextSequence_forwardDown ..)

theorem forwardUp (s : State) (f : Frame) : Logs s (s.forwardUp f) :=
  quiet (State.events_forwardUp ..) (State.nextSequence_forwardUp ..)

theorem lineArrival (s : State) (entries : List Entry) : Logs s (s.lineArrival entries).state := by
  refine .trans (forSections (State.overrideStep entries) (overrideStep entries) s) ?_
  unfold State.lineArrival
  generalize s.forSections (State.overrideStep entries) = t
  exact foldlOn Watched.state Watched.lineEntry lineEntry entries ⟨t, []⟩

theorem cycleWork (s : State) (previous : Option Word16) (entries : List Entry) : Logs s (s.cycleWork previous entries) :=
  (closeSets ..).trans ((forSections _ (lineStep entries) _).trans (engineDispatch _))

theorem advanceProfiles (s : State) : Logs s s.advanceProfiles.state := by
  unfold State.advanceProfiles
  generalize sectionIds = is
  refine foldlOn Advanced.state _ (fun a i => ?_) is ⟨s, []⟩
  exact advanceProfile a.state i

theorem formReferences (s : State) (entries : List Entry) : Logs s (s.formReferences entries).state := by
  unfold State.formReferences
  generalize sectionIds = is
  exact foldlOn Formed.state (Formed.takeSection entries) (takeSection entries) is ⟨s, [], []⟩

theorem issuedEntries (s : State) (skips : List (WatchId × Nat)) (l : List (Entry × Nat)) :
    Logs s (l.foldl (Watched.issuedEntry skips) ⟨s, []⟩).state :=
  foldlOn Watched.state _ (issuedEntry skips) l ⟨s, []⟩

theorem requested (s : State) (f : DispatchFrame) : Logs s (s.requested f) := by
  have hstart : Logs s (s.startCycle f.cycle) := quiet rfl rfl
  exact hstart.trans <| (lineArrival ..).trans <| (cycleWork ..).trans <| (advanceProfiles _).trans <|
    (formReferences ..).trans <| (issuedEntries ..).trans (takeLates ..)

theorem dispatchWork (s : State) (f : DispatchFrame) : Logs s (s.dispatchWork f) := by
  have hplace (t : State) : Logs t t.placeStationFrame := quiet rfl rfl
  rw [State.dispatchWork_eq]
  exact (requested s f).trans ((forwardDown ..).trans ((takeSweep ..).trans (hplace _)))

end Logs

end Sys2Proof.Machine
end

section
/-! PROOFS. The Event Queue stays in order (R167): table writes and cursors leave it, the commands' own work posts to it, READ EVENTS and RESTART take
records out. -/

namespace Sys2Proof.Machine

namespace Logs

/-! ## Writes (R165) -/

/-- A clamping write that leaves the Event Queue. -/
theorem clampWrite {s : State} {lo hi v : Int} {store : Int → State} (h : ∀ x, Logs s (store x)) :
    (Machine.clampWrite lo hi v store).Leaves (Logs s) := by
  unfold Machine.clampWrite
  split <;> exact h _

/-- A write of a value within a range that leaves the Event Queue. -/
theorem rangeWrite {s : State} {lo hi v : Int} {store : Int → State} (h : ∀ x, Logs s (store x)) :
    (Machine.rangeWrite lo hi v store).Leaves (Logs s) := rangeWrite_leaves v fun x _ _ => h x

theorem writeSection (s : State) (i : SecId) (f : Nat) (v : Int) : (s.writeSection i f v).Leaves (Logs s) := by
  have hcfg (g : SectionConfig → SectionConfig) : Logs s (s.modCfg i g) := modSec ..
  have hprofile (lo hi : Int) (change : Nat → SectionConfig → SectionConfig) :
      (s.profileWrite i lo hi v change).Leaves (Logs s) := by
    refine State.structural_leaves (WriteResult.leaves_unless fun _ => ?_)
    dsimp only
    exact WriteResult.leaves_unless fun _ => hcfg _
  have hlimit (x : Int) : Logs s (s.writeTrimLimit i x) := ite (fun _ => (hcfg _).trans (modMembers ..)) fun _ => hcfg _
  unfold State.writeSection
  split
  case h_1 | h_2 | h_4 | h_11 | h_12 => exact clampWrite fun _ => hcfg _
  case h_5 => exact clampWrite hlimit
  case h_6 | h_7 => exact hprofile ..
  case h_9 => exact State.structural_leaves (codeWrite_leaves _ fun _ => hcfg _)
  case h_18 => trivial
  all_goals exact State.structural_leaves (rangeWrite fun _ => hcfg _)

theorem writePool (s : State) (r : RecId) (f : Nat) (v : Int) : (s.writePool r f v).Leaves (Logs s) := by
  unfold State.writePool
  split
  · split
    · exact clampWrite fun _ => modRec ..
    · trivial
  · trivial

theorem writeDrive (s : State) (n : NodeId) (f : Nat) (v : Int) : (s.writeDrive n f v).Leaves (Logs s) := by
  refine WriteResult.leaves_unless fun _ => WriteResult.leaves_unless fun _ => WriteResult.leaves_unless fun _ => ?_
  split
  · exact codeWrite_leaves _ fun _ => modDrive ..
  · exact rangeWrite fun _ => modDrive ..
  · exact rangeWrite fun _ => modDrive ..

theorem writeSegment (s : State) (k : Fin 128) (f : Nat) (v : Int) : (s.writeSegment k f v).Leaves (Logs s) := by
  have hsegment (g : Segment → Segment) : Logs s (s.modSegment k g) := quiet rfl rfl
  refine WriteResult.leaves_unless fun _ => ?_
  split
  · exact WriteResult.leaves_unless fun _ => hsegment _
  · exact clampWrite fun _ => hsegment _
  · split
    · exact WriteResult.leaves_unless fun _ => hsegment _
    · trivial
  · trivial

theorem writeMonitor (s : State) (i : SecId) (f : Nat) (v : Int) : (s.writeMonitor i f v).Leaves (Logs s) := by
  unfold State.writeMonitor
  dsimp only
  split
  case h_3 | h_6 | h_9 | h_12 => exact codeWrite_leaves _ fun _ => modMonitor ..
  case h_13 => trivial
  all_goals exact clampWrite fun _ => modMonitor ..

theorem writeWatch (s : State) (w : WatchId) (f : Nat) (v : Int) : (s.writeWatch w f v).Leaves (Logs s) := by
  unfold State.writeWatch
  dsimp only
  split
  case h_6 => exact modWatch ..
  case h_7 => trivial
  all_goals exact codeWrite_leaves _ fun _ => modWatch ..

theorem writeItem (s : State) (k : Fin 8) (f : Nat) (v : Int) : (s.writeItem k f v).Leaves (Logs s) := by
  have hitem (g : CaptureItem → CaptureItem) : Logs s (s.modItem k g) := quiet rfl rfl
  unfold State.writeItem
  split
  · split
    case h_5 => trivial
    all_goals exact codeWrite_leaves _ fun _ => hitem _
  · trivial

theorem writeCapture (s : State) (f : Nat) (v : Int) : (s.writeCapture f v).Leaves (Logs s) := by
  refine WriteResult.leaves_unless fun _ => ?_
  split
  · split
    case h_1 | h_2 | h_3 => exact codeWrite_leaves _ fun _ => modCapture ..
    all_goals exact clampWrite fun _ => modCapture ..
  · trivial

theorem writeStation (s : State) (f : Nat) (v : Int) : (s.writeStation f v).Leaves (Logs s) := by
  unfold State.writeStation
  split
  · exact clampWrite fun _ => quiet rfl rfl
  · trivial

theorem writeField (s : State) (table e f : Nat) (v : Int) : (s.writeField table e f v).Leaves (Logs s) := by
  unfold State.writeField
  split
  · exact writeSection ..
  · exact writePool ..
  · exact writeDrive ..
  · exact writeSegment ..
  · exact writeMonitor ..
  · exact writeWatch ..
  · exact writeItem ..
  · exact writeCapture ..
  · exact writeStation ..
  · trivial

theorem writeRun (table : Nat) : ∀ (vs : List Int) (s : State) (k n : Nat) (c : Option Nat),
    Logs s (State.writeRun table s k vs n c).state
  | [], _, _, _, _ => .refl
  | v :: vs, s, k, n, c => by
    have hfield : (s.writeAt table k v).Leaves (Logs s) := writeField ..
    unfold State.writeRun
    split
    · rename_i t ht; rw [ht] at hfield; exact .trans hfield (writeRun table vs ..)
    · rename_i t ht; rw [ht] at hfield; exact .trans hfield (writeRun table vs ..)
    · exact .refl

/-! ## Answers (R27, R161) -/

theorem dropRequest (s : State) : Logs s s.dropRequest := quiet rfl rfl

theorem postReply (s : State) (tag : Byte) (c : ResultCode) (w : Bool) (d : List Int) : Logs s (s.postReply tag c w d) := quiet rfl rfl

/-- A row's request, from its command's work. -/
theorem serve (s : State) (row : CommandRow) (body : State → Level → List Int → Answer)
    (h : ∀ (t : State) (l : Level) (ops : List Int), Logs t (body t l ops).state) : Logs s (s.serve row body) := by
  unfold State.serve
  split
  · exact .refl
  · dsimp only
    split
    · exact (dropRequest s).trans (postReply ..)
    · exact (dropRequest s).trans ((h ..).trans (postReply ..))

/-- An answer behind a check that refuses. -/
theorem unlessRefused {s : State} {c : Prop} [Decidable c] {code : ResultCode} {data : List Int} {a : Answer}
    (h : ¬ c → Logs s a.state) : Logs s (if c then s.refuse code data else a).state := by
  split
  · exact .refl
  · exact h ‹_›

/-- An answer behind a check that passes. -/
theorem ifPasses {s : State} {c : Prop} [Decidable c] {code : ResultCode} {data : List Int} {a : Answer}
    (h : c → Logs s a.state) : Logs s (if c then a else s.refuse code data).state := by
  split
  · exact h ‹_›
  · exact .refl

/-- A command of section 2.4. -/
theorem onSection (s : State) (ops : List Int) (takenIn : SectionState → Bool) (body : SecId → Answer)
    (h : ∀ i, Logs s (body i).state) : Logs s (s.onSection ops takenIn body).state := by
  unfold State.onSection
  split
  · split
    · exact .refl
    · exact ifPasses fun _ => h _
  · exact .refl

/-- A command of a member. -/
theorem onMember (s : State) (ops : List Int) (body : SecId → NodeId → RecId → Answer)
    (h : ∀ i n r, Logs s (body i n r).state) : Logs s (s.onMember ops body).state := by
  unfold State.onMember
  split
  · split
    · exact .refl
    · refine unlessRefused fun _ => ?_
      split
      · exact .refl
      · split
        · exact .refl
        · exact h ..
  · exact .refl

/-! ## Tables, cursors and events (R164 to R168) -/

theorem setCursor (s : State) (l : Level) (c : Cursor) : Logs s (s.setCursor l c) := by cases l <;> exact quiet rfl rfl

theorem readReply (s : State) (table k : Nat) (count : Int) : Logs s (s.readReply table k count).state := unlessRefused fun _ => .refl

theorem readBody (s : State) (l : Level) (ops : List Int) : Logs s (readBody' s l ops).state := by
  unfold readBody'
  split
  · exact ifPasses fun _ => readReply ..
  · exact .refl

theorem readIndexedBody (s : State) (l : Level) (ops : List Int) : Logs s (Machine.readIndexedBody s l ops).state := by
  unfold Machine.readIndexedBody
  split
  · exact ifPasses fun _ => readReply ..
  · exact .refl

theorem setCursorBody (s : State) (l : Level) (ops : List Int) : Logs s (Machine.setCursorBody s l ops).state := by
  unfold Machine.setCursorBody
  split
  · exact ifPasses fun _ => setCursor ..
  · exact .refl

theorem readNextBody (s : State) (l : Level) (ops : List Int) : Logs s (Machine.readNextBody s l ops).state := by
  unfold Machine.readNextBody
  split
  · exact unlessRefused fun _ => setCursor ..
  · exact .refl

theorem writeBody (s : State) (l : Level) (ops : List Int) : Logs s (Machine.writeBody s l ops).state := by
  unfold Machine.writeBody
  split
  · exact ifPasses fun _ => writeRun ..
  · exact .refl

theorem writeNextBody (s : State) (l : Level) (ops : List Int) : Logs s (Machine.writeNextBody s l ops).state :=
  (writeRun (s.cursor l).table ops s _ 0 none).trans (setCursor ..)

/-- READ EVENTS takes the records that it returns out of the queue (R168). -/
theorem readEventsBody (s : State) (l : Level) (ops : List Int) : Logs s (Machine.readEventsBody s l ops).state := by
  unfold Machine.readEventsBody
  split
  · exact unlessRefused fun _ => of (.taken _)
  · exact .refl

theorem peekEventsBody (s : State) (l : Level) (ops : List Int) : Logs s (Machine.peekEventsBody s l ops).state := by
  unfold Machine.peekEventsBody
  split
  · exact unlessRefused fun _ => .refl
  · exact .refl

/-! ## The commissioning commands (R27 to R38) -/

theorem selectBody (s : State) (l : Level) (ops : List Int) : Logs s (Machine.selectBody s l ops).state := by
  refine onSection _ _ _ _ fun i => unlessRefused fun _ => ?_
  split
  · exact .refl
  · dsimp only [State.state_answerOk]
    exact (modMonitor ..).trans (enterPassing ..)

theorem deselectBody (s : State) (l : Level) (ops : List Int) : Logs s (Machine.deselectBody s l ops).state :=
  onSection _ _ _ _ fun _ => enterPassing ..

theorem startBody (s : State) (l : Level) (ops : List Int) : Logs s (Machine.startBody s l ops).state := by
  refine onSection _ _ _ _ fun i => ?_
  split
  · exact .refl
  · split
    · exact .refl
    · split
      · exact .refl
      · split
        · exact startTrial ..
        · exact .refl

theorem freezeBody (s : State) (l : Level) (ops : List Int) : Logs s (Machine.freezeBody s l ops).state :=
  onSection _ _ _ _ fun _ => enterFrozen ..

theorem continueBody (s : State) (l : Level) (ops : List Int) : Logs s (Machine.continueBody s l ops).state :=
  onSection _ _ _ _ fun _ => resumeTrial ..

theorem stepBody (s : State) (l : Level) (ops : List Int) : Logs s (Machine.stepBody s l ops).state := by
  refine onSection _ _ _ _ fun i => ?_
  split
  · exact .refl
  · exact resumeTrial ..

theorem stopBody (s : State) (l : Level) (ops : List Int) : Logs s (Machine.stopBody s l ops).state :=
  onSection _ _ _ _ fun _ => enterReleasing ..

theorem abortBody (s : State) (l : Level) (ops : List Int) : Logs s (Machine.abortBody s l ops).state :=
  onSection _ _ _ _ fun _ => enterPassing ..

theorem calibrateBody (s : State) (l : Level) (ops : List Int) : Logs s (Machine.calibrateBody s l ops).state := by
  refine onSection _ _ _ _ fun i => unlessRefused fun _ => unlessRefused fun _ => unlessRefused fun _ => unlessRefused fun _ =>
    unlessRefused fun _ => ?_
  split
  · exact .refl
  · exact enterCalibrating ..

theorem triggerBody (s : State) (l : Level) (ops : List Int) : Logs s (Machine.triggerBody s l ops).state :=
  onSection _ _ _ _ fun i => ifPasses fun _ => modProfile s i fun q => { q with cycleCount := 0 }

theorem clearFaultBody (s : State) (l : Level) (ops : List Int) : Logs s (Machine.clearFaultBody s l ops).state := by
  refine onSection _ _ _ _ fun i => ?_
  split
  · exact .refl
  · exact enterPassing ..

/-! ## Membership and INJECT FEEDBACK (R12 to R14, R85) -/

theorem addMemberBody (s : State) (l : Level) (ops : List Int) : Logs s (Machine.addMemberBody s l ops).state := by
  unfold Machine.addMemberBody
  split
  · split
    · exact .refl
    · split
      · exact .refl
      · refine unlessRefused fun _ => unlessRefused fun _ => unlessRefused fun _ => unlessRefused fun _ => ?_
        split
        · exact .refl
        · exact quiet rfl rfl
  · exact .refl

theorem removeMemberBody (s : State) (l : Level) (ops : List Int) : Logs s (Machine.removeMemberBody s l ops).state := by
  refine onMember _ _ _ fun i n r => ?_
  dsimp only [State.state_answerOk]
  rw [State.removeMember_frame]
  exact quiet rfl rfl

theorem makeLeadBody (s : State) (l : Level) (ops : List Int) : Logs s (Machine.makeLeadBody s l ops).state := by
  refine onMember _ _ _ fun i n r => ?_
  split
  · exact .refl
  · dsimp only [State.state_answerOk]
    rw [State.makeLead_frame]
    exact quiet rfl rfl

theorem injectBody (s : State) (l : Level) (ops : List Int) : Logs s (Machine.injectBody s l ops).state := by
  unfold Machine.injectBody
  split
  · split
    · exact .refl
    · split
      · exact .refl
      · refine unlessRefused fun _ => unlessRefused fun _ => unlessRefused fun _ => unlessRefused fun _ => unlessRefused fun _ => ?_
        dsimp only [State.state_answerOk]
        exact takeFeedback ..
  · exact .refl

/-! ## Snapshots and captures (R138, R139, R145 to R147) -/

theorem setLatch (s : State) (i : SecId) (v : Option Snapshot) : Logs s (s.setLatch i v) := modSec ..

theorem latchBody (s : State) (l : Level) (ops : List Int) : Logs s (Machine.latchBody s l ops).state := by
  unfold Machine.latchBody
  split
  · split
    · exact .refl
    · split
      · exact .refl
      · exact setLatch ..
  · exact .refl

theorem readSnapshotBody (s : State) (l : Level) (ops : List Int) : Logs s (Machine.readSnapshotBody s l ops).state := by
  unfold Machine.readSnapshotBody
  split
  · split
    · exact .refl
    · refine unlessRefused fun _ => ?_
      split
      · exact whenTrue fun _ => setLatch ..
      · exact .refl
  · exact .refl

theorem captureStartBody (s : State) (l : Level) (ops : List Int) : Logs s (Machine.captureStartBody s l ops).state := by
  unfold Machine.captureStartBody
  split
  · refine ifPasses fun _ => unlessRefused fun _ => ?_
    split
    · exact .refl
    · exact unlessRefused fun _ => quiet rfl rfl
  · exact .refl

theorem captureStopBody (s : State) (l : Level) (ops : List Int) : Logs s (Machine.captureStopBody s l ops).state := by
  unfold Machine.captureStopBody
  split
  · split <;> exact quiet rfl rfl
  · exact .refl

theorem triggerCaptureBody (s : State) (l : Level) (ops : List Int) : Logs s (Machine.triggerCaptureBody s l ops).state := by
  unfold Machine.triggerCaptureBody
  split
  · exact ifPasses fun _ => takeTrigger s .command 0
  · exact .refl

/-! ## RESTART, the permit line, returns and sending (R39, R79, R154, R156, R170) -/

/-- RESTART takes every record out before it posts START_UP (R170). -/
theorem restartWork (s : State) : Logs s s.restartWork := by
  have hsection (t : State) (i : SecId) : Logs t (t.restartSection i) := ite (fun _ => .refl) fun _ => enterPassing ..
  have hcapture (t : State) : Logs t t.restartCapture := modCapture ..
  have hempty (t : State) : Logs t { t with events := [] } := List.drop_length (l := t.events) ▸ of (.taken t.events.length)
  have hevents (t : State) : Logs t t.restartEvents := (hempty t).trans (post ..)
  have hcursors (t : State) : Logs t { t with observeCursor := Cursor.powerOn, commissionCursor := Cursor.powerOn } := quiet rfl rfl
  have hrecords (t : State) (i : SecId) : Logs t (t.restartRecords i) := by
    unfold State.restartRecords State.clearLimits
    exact (modSec ..).trans (modMonitor ..)
  unfold State.restartWork
  dsimp only
  exact (forSections _ hsection s).trans <| (hcapture _).trans <| (hevents _).trans <| (hcursors _).trans <|
    (forSections _ hrecords _).trans <| foldl _ (fun t w => modWatch t w _) _ _

theorem permitChange (s : State) (active : Bool) : Logs s (s.permitChange active) := by
  have hlost (t : State) (i : SecId) : Logs t (t.permitLost i) := by
    unfold State.permitLost
    split
    case h_1 | h_2 | h_3 => exact enterReleasing ..
    case h_4 => exact modSec ..
    all_goals exact .refl
  have hpermit : Logs s { s with permit := active } := quiet rfl rfl
  exact hpermit.trans ((ite (fun _ => .refl) fun _ => forSections _ hlost _).trans (post ..))

theorem intake (s : State) (f : ReturnFrame) : Logs s (s.intake f) := by
  unfold State.intake
  split
  · exact takeFeedback ..
  · exact .refl

theorem arbitrate (s : State) : Logs s s.arbitrate := by
  have hsend (t : State) (x : UpPlace × ReadyFrame) : Logs t (t.sendUp x) := by
    obtain ⟨place, f⟩ := x
    cases place <;> exact quiet rfl rfl
  have hdraw : Logs s { s with freeDraws := s.freeDraws + 1 } := quiet rfl rfl
  unfold State.arbitrate
  split
  · exact .refl
  · exact hsend ..
  · exact hdraw.trans (hsend ..)

theorem sendDown (s : State) : Logs s s.sendDown := by
  unfold State.sendDown
  split <;> exact quiet rfl rfl

/-! ## Every command -/

/-- A command of a powered bridge. -/
theorem of_whenPowered {s t : State} {f : State → State} (h : s.whenPowered f = .next t) (hf : Logs s (f s)) : Logs s t := by
  cases h
  exact whenTrue fun _ => hf

/-- A row's command. -/
theorem of_serve {s t : State} {row : CommandRow} {body : State → Level → List Int → Answer}
    (h : s.whenPowered (fun s => s.serve row body) = .next t)
    (hbody : ∀ (u : State) (l : Level) (ops : List Int), Logs u (body u l ops).state) : Logs s t :=
  of_whenPowered h (serve s row body hbody)

/-- Every command but POWER_ON and RESET_LINE posts events and takes records out, and does no more to the Event Queue. -/
theorem of_exec {c : Instr} {s t : State} (h : exec c s = .next t) :
    Logs s t ∨ ∃ straps permit, t = s.powerUp straps permit := by
  cases c
  case powerOn straps permit => cases h; exact .inr ⟨straps, permit, rfl⟩
  case resetLine straps permit =>
    cases h
    split
    · exact .inr ⟨straps, permit, rfl⟩
    · exact .inl .refl
  all_goals left
  case permitLineChange active =>
    simp only [exec, execPermitLineChange] at h
    exact of_whenPowered h (ite (fun _ => .refl) fun _ => permitChange ..)
  case lineTimerExpiry =>
    simp only [exec, execLineTimerExpiry] at h
    have hexpired : Logs s { s with timer := .expired } := quiet rfl rfl
    exact of_whenPowered h (whenTrue fun _ => hexpired.trans (forSections _ (fun t i => faultCondition t i .lineLost none none) _))
  case dispatch f =>
    simp only [exec, execDispatch] at h
    exact of_whenPowered h (whenTrue fun _ => dispatchWork s f)
  case returnFrame f =>
    simp only [exec, execReturnFrame] at h
    exact of_whenPowered h ((forwardUp ..).trans (intake ..))
  case serviceRequest f =>
    simp only [exec, execServiceRequest] at h
    have hqueue : Logs s (s.queueRequest f) := whenTrue fun _ => quiet rfl rfl
    exact of_whenPowered h (whenTrue fun _ => ite (fun _ => hqueue) fun _ => forwardDown ..)
  case otherStationFrame f =>
    simp only [exec, execOtherStationFrame] at h
    exact of_whenPowered h (whenTrue fun _ => forwardUp ..)
  case badFrame => cases h; exact .refl
  case upstreamSend =>
    simp only [exec, execUpstreamSend] at h
    exact of_whenPowered h (arbitrate s)
  case downstreamSend =>
    simp only [exec, execDownstreamSend] at h
    exact of_whenPowered h (sendDown s)
  case powerLoss =>
    simp only [exec, execPowerLoss] at h
    exact of_whenPowered h (quiet rfl rfl)
  case restart =>
    simp only [exec, execRestart] at h
    refine of_whenPowered h ?_
    split
    · exact .refl
    · split
      · exact (dropRequest s).trans (postReply ..)
      · exact (dropRequest s).trans ((postReply ..).trans (restartWork _))
  case unknownCommandCode =>
    simp only [exec, execUnknownCommandCode] at h
    refine of_whenPowered h ?_
    split
    · exact .refl
    · exact ite (fun _ => .refl) fun _ => (dropRequest s).trans (postReply ..)
  case read => exact of_serve h readBody
  case write => exact of_serve h writeBody
  case readIndexed => exact of_serve h readIndexedBody
  case setCursor => exact of_serve h setCursorBody
  case readNext => exact of_serve h readNextBody
  case writeNext => exact of_serve h writeNextBody
  case readEvents => exact of_serve h readEventsBody
  case peekEvents => exact of_serve h peekEventsBody
  case select => exact of_serve h selectBody
  case deselect => exact of_serve h deselectBody
  case start => exact of_serve h startBody
  case freeze => exact of_serve h freezeBody
  case continueTrial => exact of_serve h continueBody
  case stepRun => exact of_serve h stepBody
  case stopTrial => exact of_serve h stopBody
  case abort => exact of_serve h abortBody
  case calibrate => exact of_serve h calibrateBody
  case trigger => exact of_serve h triggerBody
  case clearFault => exact of_serve h clearFaultBody
  case addMember => exact of_serve h addMemberBody
  case removeMember => exact of_serve h removeMemberBody
  case makeLead => exact of_serve h makeLeadBody
  case injectFeedback => exact of_serve h injectBody
  case latchSnapshot => exact of_serve h latchBody
  case readSnapshot => exact of_serve h readSnapshotBody
  case captureStart => exact of_serve h captureStartBody
  case captureStop => exact of_serve h captureStopBody
  case triggerCapture => exact of_serve h triggerCaptureBody

end Logs

/-! ## The statement -/

/-- Settles O54: posts and readings keep the order, and a power-up starts it anew. -/
theorem eventsStayInOrder : Obligations.EventsStayInOrder := by
  unfold Obligations.EventsStayInOrder KeptByStep
  intro s t hs ht
  unfold step at ht
  split at ht
  · cases ht; exact hs
  · rename_i c rest _
    have hrest : EventsInOrder { s with pending := rest } := hs
    rcases Logs.of_exec ht with hlogs | ⟨straps, permit, rfl⟩
    · exact hrest.logs hlogs
    · exact .powerUp ..

end Sys2Proof.Machine
end

section
/-! PROOFS. Requests (R161, R162) and the Event Queue's own commands (R167, R168): the shared checks of every row, the post, READ EVENTS and PEEK
EVENTS. -/

namespace Sys2Proof.Machine

/-! ## The shared checks (R162) -/

/-- A row of the table of R162 as the Service Handler uses it. -/
def ServiceRow.entry (row : ServiceRow) : CommandRow := ⟨row.code, row.least, row.fewest, row.most⟩

/-- A request of the row that checks 2 to 4 refuse is answered so, with no other effect. -/
def ServiceRow.Checks (row : ServiceRow) : Prop :=
  ∀ (s : State) (r : RequestFrame) (level : Level) (code : ResultCode), Takes s r row.code level →
    s.admission row.entry level r.operands.length = some code → exec row.command s = .next (s.answered r code false [])

/-- A command that the Service Handler runs as a row makes the row's checks. -/
theorem ServiceRow.checks_of_serve {row : ServiceRow} (body : State → Level → List Int → Answer)
    (h : ∀ s, exec row.command s = s.whenPowered fun s => s.serve row.entry body) : row.Checks := by
  rintro s r level code ⟨hpowered, hroom, hhead, hcode, hlevel⟩ hadmission
  rw [h, State.whenPowered_on _ _ hpowered, State.serve_refused hroom hhead hcode hlevel hadmission]
  rfl

/-- RESTART, whose reply comes before its work, makes the same checks (R170). -/
theorem ServiceRow.checks_restart : ServiceRow.Checks ⟨.restart, 9, .commission, 0, 0⟩ := by
  rintro s r level code ⟨hpowered, hroom, hhead, hcode, hlevel⟩ hadmission
  have hrequest : s.requestFor rowRestart.code = some (r, level) := State.requestFor_eq hroom hhead hcode hlevel
  have hrefused : s.dropRequest.admission rowRestart level r.operands.length = some code := hadmission
  show execRestart s = _
  unfold execRestart
  rw [State.whenPowered_on _ _ hpowered, hrequest]
  simp only [hrefused]
  rfl

/-- Every row of the table makes its checks. -/
theorem serviceRows_checks : ∀ row ∈ serviceRows, row.Checks := by
  simp only [serviceRows, List.cons_append, List.nil_append, List.forall_mem_cons, List.not_mem_nil, false_imp_iff, implies_true,
    and_true]
  and_intros
  on_goal 9 => exact ServiceRow.checks_restart
  all_goals exact ServiceRow.checks_of_serve _ fun _ => rfl

/-- Check 2: a COMMISSION request while the permit line is inactive. -/
theorem State.admission_unpermitted {s : State} (row : CommandRow) (operands : Nat) (h : s.permit = false) :
    s.admission row .commission operands = some .notPermitted := if_pos ⟨rfl, h⟩

/-- Check 3: an OBSERVE request for a COMMISSION command. -/
theorem State.admission_belowLevel (s : State) {row : CommandRow} (operands : Nat) (h : row.least = .commission) :
    s.admission row .observe operands = some .notPermitted := by
  unfold State.admission
  rw [if_neg (nofun ∘ And.left), if_pos ⟨h, rfl⟩]

/-- Check 4: a permitted request with an operand count that the command does not accept. -/
theorem State.admission_wrongCount {s : State} {row : CommandRow} {level : Level} {operands : Nat}
    (hpermit : level = .commission → s.permit = true) (hleast : row.least = .commission → level = .commission)
    (hcount : operands < row.fewest ∨ row.most < operands) : s.admission row level operands = some .badCommand := by
  unfold State.admission
  rw [if_neg, if_neg, if_pos hcount]
  · rintro ⟨hcommission, hobserve⟩
    rw [hleast hcommission] at hobserve
    cases hobserve
  · rintro ⟨hcommission, hinactive⟩
    rw [hpermit hcommission] at hinactive
    cases hinactive

/-- The known codes are those of the table. -/
theorem knownCodes_eq : knownCodes = serviceRows.map ServiceRow.code := rfl

/-- The known levels are 0 and 1. -/
theorem Level.ofCode_eq_none {k : Nat} (h : 1 < k) : Level.ofCode k = none := by
  unfold Level.ofCode
  split
  · omega
  · omega
  · rfl

/-- Check 1: a code or a level that the table does not know. -/
theorem exec_unknownCommandCode {s : State} {r : RequestFrame} (hpowered : s.powered = true) (hroom : s.replyQueue.length < 4)
    (hhead : s.requests.head? = some r) (h : (∀ row ∈ serviceRows, r.code.toNat ≠ row.code) ∨ 1 < r.level.toNat) :
    exec .unknownCommandCode s = .next (s.answered r .badCommand false []) := by
  have hrequest : s.headRequest = some r := (if_pos (show _ < Config.replyQueueSize from hroom)).trans hhead
  have hunknown : ¬ (r.code.toNat ∈ knownCodes ∧ (Level.ofCode r.level.toNat).isSome) := by
    rintro ⟨hcode, hlevel⟩
    rcases h with hcodes | hhigh
    · rw [knownCodes_eq] at hcode
      obtain ⟨row, hrow, heq⟩ := List.mem_map.1 hcode
      exact hcodes row hrow heq.symm
    · rw [Level.ofCode_eq_none hhigh] at hlevel
      cases hlevel
  show execUnknownCommandCode s = _
  unfold execUnknownCommandCode
  rw [State.whenPowered_on _ _ hpowered, hrequest]
  dsimp only
  rw [if_neg hunknown]
  rfl

/-- Settles O30, check by check. -/
theorem serviceChecksInOrder : Obligations.ServiceChecksInOrder := by
  unfold Obligations.ServiceChecksInOrder
  refine ⟨fun s r hpowered hroom hhead h => exec_unknownCommandCode hpowered hroom hhead h, fun row hrow s r level htakes => ?_⟩
  have hchecks {code : ResultCode} := serviceRows_checks row hrow s r level code htakes
  refine ⟨?unpermitted, ?belowLevel, fun hpermit hleast hcount => hchecks (State.admission_wrongCount hpermit hleast hcount)⟩
  case unpermitted =>
    rintro rfl hpermit
    exact hchecks (State.admission_unpermitted _ _ hpermit)
  case belowLevel =>
    rintro rfl hleast
    exact hchecks (s.admission_belowLevel (row := row.entry) _ hleast)

/-! ## Posting (R167) -/

/-- Settles O29, by whether there is room. -/
theorem postAppendsOrMarksOverflow : Obligations.PostAppendsOrMarksOverflow := by
  unfold Obligations.PostAppendsOrMarksOverflow
  refine fun s kind sec node pos cycle value detail => ⟨fun hroom => State.post_room _ _ _ _ _ _ _ _ hroom, ?_⟩
  intro older newest hevents hfull
  rw [State.post_full _ _ _ _ _ _ _ _ hfull, hevents, markOverflow_concat]

/-! ## READ EVENTS and PEEK EVENTS (R168) -/

/-- A READ EVENTS request is answered as its work answers. -/
theorem TakesObserve.readEvents {s : State} {r : RequestFrame} {level : Level} (h : TakesObserve s r 7 level) {count : Int}
    (hops : operandValues r = [count]) {a : Answer} (hbody : readEventsBody s.dropRequest level [count] = a) :
    exec .readEvents s = .next (a.post r.tag) :=
  TakesObserve.serve (row := rowReadEvents) h rfl hops ⟨le_refl 1, le_refl 1⟩ hbody

/-- A PEEK EVENTS request is answered as its work answers. -/
theorem TakesObserve.peekEvents {s : State} {r : RequestFrame} {level : Level} (h : TakesObserve s r 8 level) {count : Int}
    (hops : operandValues r = [count]) {a : Answer} (hbody : peekEventsBody s.dropRequest level [count] = a) :
    exec .peekEvents s = .next (a.post r.tag) :=
  TakesObserve.serve (row := rowPeekEvents) h rfl hops ⟨le_refl 1, le_refl 1⟩ hbody

/-- Joining words is adding the upper one shifted. -/
theorem toNat_append_eq_mul_add {a b : Nat} (x : BitVec a) (y : BitVec b) : (x ++ y).toNat = x.toNat * 2 ^ b + y.toNat := by
  rw [BitVec.toNat_append, ← Nat.shiftLeft_add_eq_or_of_lt y.isLt, Nat.shiftLeft_eq]

/-- A 32-bit word from its four bytes. -/
theorem ofNat_eq_append_bytes (a : Nat) {b c d : Nat} (hb : b < 256) (hc : c < 256) (hd : d < 256) :
    BitVec.ofNat 32 (a * 16777216 + b * 65536 + c * 256 + d) =
      BitVec.ofNat 8 a ++ BitVec.ofNat 8 b ++ BitVec.ofNat 8 c ++ BitVec.ofNat 8 d := by
  apply BitVec.eq_of_toNat_eq
  simp only [toNat_append_eq_mul_add, BitVec.toNat_ofNat]
  omega

/-- A 32-bit word from its halves. -/
theorem ofNat_eq_append_halves (x y : Word16) : BitVec.ofNat 32 (x.toNat * 65536 + y.toNat) = x ++ y := by
  apply BitVec.eq_of_toNat_eq
  rw [toNat_append_eq_mul_add, BitVec.toNat_ofNat]
  omega

/-- A word read as a signed integer is sent as that word. -/
theorem dataWord_toInt (w : Word32) : dataWord w.toInt = w := BitVec.ofInt_toInt

/-- A number below 256 that may be absent fits in a byte. -/
theorem absent255_lt {o : Option Nat} (h : ∀ n, o = some n → n < 256) : absent255 o < 256 := by
  cases o with
  | none => decide
  | some n => exact h n rfl

/-- The four data values of a record are the words that R168 lays out. -/
theorem Event.data_words (e : Event) (hdetail : e.detail ≤ 255) : e.data.map dataWord =
    [ e.sequence ++ e.cycle,
      BitVec.ofNat 8 e.kind.code ++ BitVec.ofNat 8 e.detail ++ BitVec.ofNat 8 (absent255 (e.inSection.map Fin.val)) ++
        BitVec.ofNat 8 ((if e.value.isSome then 2 else 0) + if e.overflowAfter then 1 else 0),
      (0 : BitVec 16) ++ BitVec.ofNat 8 (absent255 (e.node.map nodeNumber)) ++
        BitVec.ofNat 8 (absent255 (e.position.map Fin.val)),
      BitVec.ofInt 32 (e.value.getD 0) ] := by
  have hsection : absent255 (e.inSection.map Fin.val) < 256 := absent255_lt fun n hn => by
    obtain ⟨i, -, rfl⟩ := Option.map_eq_some_iff.1 hn
    exact i.isLt.trans (by decide)
  have hnode : absent255 (e.node.map nodeNumber) < 256 := absent255_lt fun n hn => by
    obtain ⟨m, -, rfl⟩ := Option.map_eq_some_iff.1 hn
    exact Nat.succ_lt_succ (m.isLt.trans (by decide))
  have hposition : absent255 (e.position.map Fin.val) < 256 := absent255_lt fun n hn => by
    obtain ⟨p, -, rfl⟩ := Option.map_eq_some_iff.1 hn
    exact p.isLt.trans (by decide)
  have hflags : ((if e.value.isSome then 2 else 0) + if e.overflowAfter then 1 else 0 : Nat) < 256 := by split <;> split <;> decide
  have hsecond := ofNat_eq_append_bytes e.kind.code (Nat.lt_succ_of_le hdetail) hsection hflags
  rw [← Nat.add_assoc] at hsecond
  have hthird := ofNat_eq_append_bytes 0 (b := 0) (by decide) hnode hposition
  rw [Nat.zero_mul, Nat.zero_add] at hthird
  unfold Event.data
  rw [ofNat_eq_append_halves, hsecond, hthird]
  simp only [List.map_cons, List.map_nil, dataWord_toInt]
  rfl

/-- Settles O36, by whether the count is one of 1 to 4. -/
theorem eventReadsReturnOldest : Obligations.EventReadsReturnOldest := by
  unfold Obligations.EventReadsReturnOldest
  refine ⟨fun s r level count hops => ⟨fun htakes hlow hhigh => ?read, fun htakes hlow hhigh => ?peek,
    fun hout => ⟨fun htakes => ?badRead, fun htakes => ?badPeek⟩⟩, fun e hdetail => ?words⟩
  case read => exact htakes.readEvents hops (if_neg (by omega))
  case peek => exact htakes.peekEvents hops (if_neg (by omega))
  case badRead => exact htakes.readEvents hops (if_pos hout)
  case badPeek => exact htakes.peekEvents hops (if_pos hout)
  case words =>
    rw [e.data_words hdetail]
    cases e.inSection <;> cases e.node <;> cases e.position <;> rfl

end Sys2Proof.Machine
end

section
/-! PROOFS. Runs through the tables (R164 to R166): READ and READ INDEXED, SET CURSOR and READ NEXT, WRITE and WRITE NEXT. -/

namespace Sys2Proof.Machine

/-! ## Addresses (R164) -/

/-- The first three checks of R164 are that table, entry and field exist. -/
theorem validAddress_iff (table entry field : Int) : validAddress table entry field = true ↔ Addressed table entry field := by
  simp only [validAddress, Addressed, Bool.and_eq_true, decide_eq_true_eq, and_assoc]

/-- Numbers of things address a field that exists where they are within the table. -/
theorem addressed_natCast {table entry field : Nat} (h1 : 1 ≤ table) (h10 : table ≤ 10) (hentry : entry < tableEntries table)
    (hfield : field < tableFields table) : Addressed table entry field := by
  unfold Addressed
  rw [Int.toNat_natCast]
  omega

/-! ## Reads (R164) -/

/-- Taking a request leaves every field of every table. -/
theorem State.readField_dropRequest (s : State) (table e f : Nat) : s.dropRequest.readField table e f = s.readField table e f := by
  unfold State.readField
  split <;> rfl

/-- Taking a request leaves the values of every run. -/
theorem State.readRun_dropRequest (s : State) (table k count : Nat) : s.dropRequest.readRun table k count = s.readRun table k count :=
  List.map_congr_left fun _ _ => s.readField_dropRequest ..

/-- A read of 1 to 16 values is answered with the run and changes nothing. -/
theorem State.readReply_inRange (s : State) (table k : Nat) {count : Nat} (h1 : 1 ≤ count) (h16 : count ≤ 16) :
    s.readReply table k (count : Int) = ⟨s, .ok, wraps table k count, s.readRun table k count⟩ := if_neg (by omega)

/-- A read of another number of values is refused. -/
theorem State.readReply_outOfRange (s : State) (table k : Nat) {count : Int} (h : count < 1 ∨ 16 < count) :
    s.readReply table k count = s.refuse .badValue [] := if_pos h

/-- READ of an address that exists is a read reply from it. -/
theorem readBody_addressed (s : State) (level : Level) {table entry field : Int} (count : Int) (h : Addressed table entry field) :
    readBody' s level [table, entry, field, count] =
      s.readReply table.toNat (linear table.toNat entry.toNat field.toNat) count := if_pos ((validAddress_iff ..).2 h)

/-- READ of an address that does not exist is refused. -/
theorem readBody_badAddress (s : State) (level : Level) {table entry field : Int} (count : Int) (h : ¬ Addressed table entry field) :
    readBody' s level [table, entry, field, count] = s.refuse .badAddress [] := if_neg (mt (validAddress_iff ..).1 h)

/-- READ INDEXED of an address that exists is a read reply from the entry that the index leads to. -/
theorem readIndexedBody_addressed (s : State) (level : Level) {table base field : Int} (index count : Int)
    (h : Addressed table base field) : readIndexedBody s level [table, base, index, field, count] =
      s.readReply table.toNat
        (linear table.toNat ((base + index) % (tableEntries table.toNat : Int)).toNat field.toNat) count :=
  if_pos ((validAddress_iff ..).2 h)

/-- READ INDEXED of an address that does not exist is refused. -/
theorem readIndexedBody_badAddress (s : State) (level : Level) {table base field : Int} (index count : Int)
    (h : ¬ Addressed table base field) : readIndexedBody s level [table, base, index, field, count] = s.refuse .badAddress [] :=
  if_neg (mt (validAddress_iff ..).1 h)

/-- A READ request is answered as its work answers. -/
theorem TakesObserve.read {s : State} {r : RequestFrame} {level : Level} (h : TakesObserve s r 1 level)
    {table entry field count : Int} (hops : operandValues r = [table, entry, field, count]) {a : Answer}
    (hbody : readBody' s.dropRequest level [table, entry, field, count] = a) : exec .read s = .next (a.post r.tag) :=
  TakesObserve.serve (row := rowRead) h rfl hops ⟨le_refl 4, le_refl 4⟩ hbody

/-- A READ INDEXED request is answered as its work answers. -/
theorem TakesObserve.readIndexed {s : State} {r : RequestFrame} {level : Level} (h : TakesObserve s r 3 level)
    {table base index field count : Int} (hops : operandValues r = [table, base, index, field, count]) {a : Answer}
    (hbody : readIndexedBody s.dropRequest level [table, base, index, field, count] = a) :
    exec .readIndexed s = .next (a.post r.tag) :=
  TakesObserve.serve (row := rowReadIndexed) h rfl hops ⟨le_refl 5, le_refl 5⟩ hbody

/-- Settles O31, by the check that decides. -/
theorem readsReturnTheRun : Obligations.ReadsReturnTheRun := by
  unfold Obligations.ReadsReturnTheRun
  refine ⟨fun s r level table entry field count h1 h10 hfield hlow hhigh => ?runs,
    fun s r level table entry field count index => ⟨fun hbad => ⟨fun htakes hops => ?bad, fun htakes hops => ?badIndexed⟩,
      fun hgood hcount => ⟨fun htakes hops => ?count, fun htakes hops => ?countIndexed⟩⟩⟩
  case runs =>
    have hreply (start : Nat) : (s.dropRequest.readReply table (linear table start field) (count : Int)).post r.tag =
        s.answered r .ok (wraps table (linear table start field) count) (s.readRun table (linear table start field) count) := by
      rw [State.readReply_inRange _ _ _ hlow hhigh, State.readRun_dropRequest]
      rfl
    refine ⟨fun hentry htakes hops => ?_, fun index hentry htakes hops => ?_⟩
    · rw [htakes.read hops (readBody_addressed _ _ _ (addressed_natCast h1 h10 hentry hfield))]
      exact congrArg _ (hreply entry)
    · rw [htakes.readIndexed hops (readIndexedBody_addressed _ _ _ _ (addressed_natCast h1 h10 hentry hfield))]
      exact congrArg _ (hreply _)
  case bad => exact htakes.read hops (readBody_badAddress _ _ _ hbad)
  case badIndexed => exact htakes.readIndexed hops (readIndexedBody_badAddress _ _ _ _ hbad)
  case count => exact htakes.read hops ((readBody_addressed _ _ _ hgood).trans (State.readReply_outOfRange _ _ _ hcount))
  case countIndexed =>
    exact htakes.readIndexed hops ((readIndexedBody_addressed _ _ _ _ hgood).trans (State.readReply_outOfRange _ _ _ hcount))

/-! ## Cursors (R166) -/

/-- SET CURSOR to an address that exists moves the level's cursor there. -/
theorem setCursorBody_addressed (s : State) (level : Level) {table entry field : Int} (h : Addressed table entry field) :
    setCursorBody s level [table, entry, field] = (s.setCursor level ⟨table.toNat, entry.toNat, field.toNat⟩).answerOk [] :=
  if_pos ((validAddress_iff ..).2 h)

/-- SET CURSOR to an address that does not exist is refused. -/
theorem setCursorBody_badAddress (s : State) (level : Level) {table entry field : Int} (h : ¬ Addressed table entry field) :
    setCursorBody s level [table, entry, field] = s.refuse .badAddress [] := if_neg (mt (validAddress_iff ..).1 h)

/-- READ NEXT of 1 to 16 values reads from the level's cursor, which then stands behind the last field read. -/
theorem readNextBody_inRange (s : State) (level : Level) {count : Nat} (h1 : 1 ≤ count) (h16 : count ≤ 16) :
    readNextBody s level [(count : Int)] =
      let c := s.cursor level
      ⟨s.setCursor level (cursorAt c.table (c.linear + count)), .ok, wraps c.table c.linear count,
        s.readRun c.table c.linear count⟩ := by
  refine (if_neg (by omega)).trans ?_
  rw [State.readReply_inRange _ _ _ h1 h16]
  rfl

/-- READ NEXT of another number of values is refused. -/
theorem readNextBody_outOfRange (s : State) (level : Level) {count : Int} (h : count < 1 ∨ 16 < count) :
    readNextBody s level [count] = s.refuse .badValue [] := if_pos h

/-- A SET CURSOR request is answered as its work answers. -/
theorem TakesObserve.setCursor {s : State} {r : RequestFrame} {level : Level} (h : TakesObserve s r 4 level)
    {table entry field : Int} (hops : operandValues r = [table, entry, field]) {a : Answer}
    (hbody : setCursorBody s.dropRequest level [table, entry, field] = a) : exec .setCursor s = .next (a.post r.tag) :=
  TakesObserve.serve (row := rowSetCursor) h rfl hops ⟨le_refl 3, le_refl 3⟩ hbody

/-- A READ NEXT request is answered as its work answers. -/
theorem TakesObserve.readNext {s : State} {r : RequestFrame} {level : Level} (h : TakesObserve s r 5 level) {count : Int}
    (hops : operandValues r = [count]) {a : Answer} (hbody : readNextBody s.dropRequest level [count] = a) :
    exec .readNext s = .next (a.post r.tag) :=
  TakesObserve.serve (row := rowReadNext) h rfl hops ⟨le_refl 1, le_refl 1⟩ hbody

/-- Settles O32, by the check that decides and by the level. -/
theorem cursorsStepThroughTables : Obligations.CursorsStepThroughTables := by
  unfold Obligations.CursorsStepThroughTables
  refine ⟨fun s r level table entry field htakes h1 h10 hentry hfield hops => ?set,
    fun s r level table entry field htakes hops hbad => htakes.setCursor hops (setCursorBody_badAddress _ _ hbad),
    fun s r level count htakes hops hcount => htakes.readNext hops (readNextBody_outOfRange _ _ hcount),
    fun s r level count htakes _ h1 h16 hops => ?next⟩
  case set =>
    rw [htakes.setCursor hops (setCursorBody_addressed _ _ (addressed_natCast h1 h10 hentry hfield))]
    cases level <;> rfl
  case next =>
    rw [htakes.readNext hops (readNextBody_inRange _ _ h1 h16)]
    dsimp only
    rw [State.readRun_dropRequest]
    cases level <;> rfl

/-! ## Writes (R165) -/

/-- u is what a write run w leaves with its reply posted: after a refusal the refusal's code and data, behind a clamp CLAMPED, else OK, each
behind the number of fields written (R165). -/
def WriteRun.Replied (w : WriteRun) (tag : Byte) (wrapped : Bool) (u : State) : Prop :=
  (∀ code data, w.refusal = some (code, data) → u = w.state.postReply tag code wrapped ((w.written : Int) :: data)) ∧
    (∀ j, w.refusal = none → w.firstClamped = some j →
      u = w.state.postReply tag .clamped wrapped [(w.written : Int), (j : Int)]) ∧
    (w.refusal = none → w.firstClamped = none → u = w.state.postReply tag .ok wrapped [(w.written : Int)])

/-- The answer of a write run is its reply. -/
theorem WriteRun.replied_answer (w : WriteRun) (table k : Nat) (tag : Byte) :
    w.Replied tag (wraps table k w.reached) ((w.answer table k).post tag) := by
  unfold WriteRun.answer Answer.post WriteRun.reply
  refine ⟨fun code data hrefused => ?_, fun j hall hclamped => ?_, fun hall hnone => ?_⟩
  · rw [hrefused]
  · rw [hall, hclamped]
  · rw [hall, hnone]

/-- A run passes the last entry with the fields written and the one refused (log entry 27). -/
theorem WriteRun.wraps_reached (w : WriteRun) (table k : Nat) : wraps table k w.reached =
    decide (tableEntries table * tableFields table < k + w.written + if w.refusal.isSome then 1 else 0) := by
  unfold wraps WriteRun.reached
  rw [← Nat.add_assoc]
  rfl

/-- A field that is written lets the run go on. -/
theorem State.writeRun_written {s t : State} {table k : Nat} {v : Int} (h : s.writeAt table k v = .written t) (vs : List Int)
    (n : Nat) (c : Option Nat) : State.writeRun table s k (v :: vs) n c = State.writeRun table t (k + 1) vs (n + 1) c := by
  rw [State.writeRun, h]

/-- A field that is written clamped lets the run go on; the first one clamped is kept. -/
theorem State.writeRun_clamped {s t : State} {table k : Nat} {v : Int} (h : s.writeAt table k v = .clamped t) (vs : List Int)
    (n : Nat) (c : Option Nat) :
    State.writeRun table s k (v :: vs) n c = State.writeRun table t (k + 1) vs (n + 1) (some (c.getD n)) := by
  rw [State.writeRun, h]

/-- A field that is refused ends the run. -/
theorem State.writeRun_refused {s : State} {table k : Nat} {v : Int} {code : ResultCode} {data : List Int}
    (h : s.writeAt table k v = .refused code data) (vs : List Int) (n : Nat) (c : Option Nat) :
    State.writeRun table s k (v :: vs) n c = ⟨s, n, c, some (code, data)⟩ := by
  rw [State.writeRun, h]

/-- WRITE to an address that exists is a write run from it. -/
theorem writeBody_addressed (s : State) (level : Level) {table entry field : Int} (values : List Int)
    (h : Addressed table entry field) : writeBody s level (table :: entry :: field :: values) =
      let k := linear table.toNat entry.toNat field.toNat
      (State.writeRun table.toNat s k values 0 none).answer table.toNat k := if_pos ((validAddress_iff ..).2 h)

/-- WRITE to an address that does not exist is refused. -/
theorem writeBody_badAddress (s : State) (level : Level) {table entry field : Int} (values : List Int)
    (h : ¬ Addressed table entry field) : writeBody s level (table :: entry :: field :: values) = s.refuse .badAddress [] :=
  if_neg (mt (validAddress_iff ..).1 h)

/-- A WRITE request with 1 to 13 values is answered as its work answers. -/
theorem TakesCommission.write {s : State} {r : RequestFrame} (h : TakesCommission s r 2) {table entry field v : Int}
    {vs : List Int} (hlength : vs.length ≤ 12) (hops : operandValues r = table :: entry :: field :: v :: vs) {a : Answer}
    (hbody : writeBody s.dropRequest .commission (table :: entry :: field :: v :: vs) = a) :
    exec .write s = .next (a.post r.tag) := by
  have hcount : rowWrite.fewest ≤ (operandValues r).length ∧ (operandValues r).length ≤ rowWrite.most := by
    rw [hops]
    exact ⟨Nat.le_add_left 4 vs.length, Nat.add_le_add_right hlength 4⟩
  have hserve := TakesCommission.serve (row := rowWrite) h hcount writeBody
  rw [hops, hbody] at hserve
  exact hserve

/-- A WRITE NEXT request with 1 to 16 values is answered as its work answers. -/
theorem TakesCommission.writeNext {s : State} {r : RequestFrame} (h : TakesCommission s r 6) {v : Int} {vs : List Int}
    (hlength : vs.length ≤ 15) (hops : operandValues r = v :: vs) :
    exec .writeNext s = .next ((writeNextBody s.dropRequest .commission (v :: vs)).post r.tag) := by
  have hcount : rowWriteNext.fewest ≤ (operandValues r).length ∧ (operandValues r).length ≤ rowWriteNext.most := by
    rw [hops]
    exact ⟨Nat.le_add_left 1 vs.length, Nat.add_le_add_right hlength 1⟩
  have hserve := TakesCommission.serve (row := rowWriteNext) h hcount writeNextBody
  rw [hops] at hserve
  exact hserve

/-- Settles O33: the run by its first field, then WRITE and WRITE NEXT by what their runs reply. -/
theorem writesStopAtFirstRefusal : Obligations.WritesStopAtFirstRefusal := by
  unfold Obligations.WritesStopAtFirstRefusal
  intro s table k v vs n c
  refine ⟨rfl, fun t h => State.writeRun_written h vs n c, fun t h => State.writeRun_clamped h vs n c,
    fun code data h => State.writeRun_refused h vs n c, ?write,
    fun r table entry field htakes hbad hlength hops => htakes.write hlength hops (writeBody_badAddress _ _ _ hbad), ?writeNext⟩
  case write =>
    rintro r entry field htakes h1 h10 hentry hfield rfl hlength hops
    refine ⟨_, htakes.write hlength hops (writeBody_addressed _ _ _ (addressed_natCast h1 h10 hentry hfield)), ?_⟩
    dsimp only
    rw [← WriteRun.wraps_reached]
    exact WriteRun.replied_answer ..
  case writeNext =>
    intro r htakes _ hops hlength
    refine ⟨_, (State.writeRun s.commissionCursor.table s.dropRequest s.commissionCursor.linear (v :: vs) 0 none).answer
      s.commissionCursor.table s.commissionCursor.linear |>.post r.tag, htakes.writeNext hlength hops, rfl, ?_⟩
    dsimp only
    rw [← WriteRun.wraps_reached]
    exact WriteRun.replied_answer ..

end Sys2Proof.Machine
end

section
/-! PROOFS. No command stops the block, and none touches the queue of commands (log entries 2, 14 and 21): what a command's work leaves of the
queue, from the frames of the operations it is made of. -/

namespace Sys2Proof.Machine

/-- t has the queue of commands of s. -/
def SameQueue (s t : State) : Prop := t.pending = s.pending

/-- The command answers a next state with the queue of commands of s. -/
def AnswersNext (s : State) (o : Out) : Prop := ∃ t, o = .next t ∧ SameQueue s t

namespace SameQueue

/-! ## Work over branches and lists -/

theorem refl (s : State) : SameQueue s s := rfl

theorem trans {s t u : State} (h : SameQueue s t) (k : SameQueue t u) : SameQueue s u := Eq.trans k h

/-- A branch. -/
theorem ite {c : Prop} [Decidable c] {s a b : State} (ha : SameQueue s a) (hb : SameQueue s b) : SameQueue s (if c then a else b) := by
  split
  · exact ha
  · exact hb

/-- Work whose frame names the fields that it may change, the queue of commands not among them. -/
theorem of_frame {s t u : State} (h : t = u) (hu : u.pending = s.pending := by rfl) : SameQueue s t :=
  Eq.trans (congrArg State.pending h) hu

/-- Work that keeps membership and configuration. -/
theorem of_stable {s t : State} (h : Stable s t) : SameQueue s t := of_frame h.frame

/-- Work that changes what an entry to a state may change. -/
theorem of_entry {s t : State} (h : s.entryFrame t) : SameQueue s t := of_frame (show t = _ from h)

/-! ## Writes (R165) -/

theorem writeSection (s : State) (i : SecId) (f : Nat) (v : Int) : (s.writeSection i f v).Leaves (SameQueue s) := by
  have hprofile (lo hi : Int) (change : Nat → SectionConfig → SectionConfig) :
      (s.profileWrite i lo hi v change).Leaves (SameQueue s) := by
    refine State.structural_leaves (WriteResult.leaves_unless fun _ => ?_)
    dsimp only
    exact WriteResult.leaves_unless fun _ => rfl
  have hlimit (x : Int) : SameQueue s (s.writeTrimLimit i x) := of_frame (s.frame_writeTrimLimit i x)
  unfold State.writeSection
  split
  case h_1 | h_2 | h_4 | h_11 | h_12 => exact clampWrite_leaves v fun _ _ _ => rfl
  case h_5 => exact clampWrite_leaves v fun x _ _ => hlimit x
  case h_6 | h_7 => exact hprofile ..
  case h_9 => exact State.structural_leaves (codeWrite_leaves _ fun _ => rfl)
  case h_18 => trivial
  all_goals exact State.structural_leaves (rangeWrite_leaves v fun _ _ _ => rfl)

theorem writePool (s : State) (r : RecId) (f : Nat) (v : Int) : (s.writePool r f v).Leaves (SameQueue s) := by
  unfold State.writePool
  split
  · split
    · exact clampWrite_leaves v fun _ _ _ => rfl
    · trivial
  · trivial

theorem writeDrive (s : State) (n : NodeId) (f : Nat) (v : Int) : (s.writeDrive n f v).Leaves (SameQueue s) := by
  refine WriteResult.leaves_unless fun _ => WriteResult.leaves_unless fun _ => WriteResult.leaves_unless fun _ => ?_
  split
  · exact codeWrite_leaves _ fun _ => rfl
  · exact rangeWrite_leaves v fun _ _ _ => rfl
  · exact rangeWrite_leaves v fun _ _ _ => rfl

theorem writeSegment (s : State) (k : Fin 128) (f : Nat) (v : Int) : (s.writeSegment k f v).Leaves (SameQueue s) := by
  refine WriteResult.leaves_unless fun _ => ?_
  split
  · exact WriteResult.leaves_unless fun _ => rfl
  · exact clampWrite_leaves v fun _ _ _ => rfl
  · split
    · exact WriteResult.leaves_unless fun _ => rfl
    · trivial
  · trivial

theorem writeMonitor (s : State) (i : SecId) (f : Nat) (v : Int) : (s.writeMonitor i f v).Leaves (SameQueue s) := by
  unfold State.writeMonitor
  dsimp only
  split
  case h_3 | h_6 | h_9 | h_12 => exact codeWrite_leaves _ fun _ => rfl
  case h_13 => trivial
  all_goals exact clampWrite_leaves v fun _ _ _ => rfl

theorem writeWatch (s : State) (w : WatchId) (f : Nat) (v : Int) : (s.writeWatch w f v).Leaves (SameQueue s) := by
  unfold State.writeWatch
  dsimp only
  split
  case h_6 => rfl
  case h_7 => trivial
  all_goals exact codeWrite_leaves _ fun _ => rfl

theorem writeItem (s : State) (k : Fin 8) (f : Nat) (v : Int) : (s.writeItem k f v).Leaves (SameQueue s) := by
  unfold State.writeItem
  split
  · split
    case h_5 => trivial
    all_goals exact codeWrite_leaves _ fun _ => rfl
  · trivial

theorem writeCapture (s : State) (f : Nat) (v : Int) : (s.writeCapture f v).Leaves (SameQueue s) := by
  refine WriteResult.leaves_unless fun _ => ?_
  split
  · split
    case h_1 | h_2 | h_3 => exact codeWrite_leaves _ fun _ => rfl
    all_goals exact clampWrite_leaves v fun _ _ _ => rfl
  · trivial

theorem writeStation (s : State) (f : Nat) (v : Int) : (s.writeStation f v).Leaves (SameQueue s) := by
  unfold State.writeStation
  split
  · exact clampWrite_leaves v fun _ _ _ => rfl
  · trivial

/-- A write to a field of any table. -/
theorem writeField (s : State) (table e f : Nat) (v : Int) : (s.writeField table e f v).Leaves (SameQueue s) := by
  unfold State.writeField
  split
  · exact writeSection ..
  · exact writePool ..
  · exact writeDrive ..
  · exact writeSegment ..
  · exact writeMonitor ..
  · exact writeWatch ..
  · exact writeItem ..
  · exact writeCapture ..
  · exact writeStation ..
  · trivial

/-- A write run, field by field. -/
theorem writeRun (table : Nat) : ∀ (vs : List Int) (s : State) (k n : Nat) (c : Option Nat),
    SameQueue s (State.writeRun table s k vs n c).state
  | [], s, _, _, _ => refl s
  | v :: vs, s, k, n, c => by
    have hfield : (s.writeAt table k v).Leaves (SameQueue s) := writeField ..
    unfold State.writeRun
    split
    · rename_i t ht; rw [ht] at hfield; exact .trans hfield (writeRun table vs ..)
    · rename_i t ht; rw [ht] at hfield; exact .trans hfield (writeRun table vs ..)
    · exact refl s

/-! ## Answers (R27, R161) -/

/-- An answer behind a check that refuses. -/
theorem unlessRefused {s : State} {c : Prop} [Decidable c] {code : ResultCode} {data : List Int} {a : Answer}
    (h : SameQueue s a.state) : SameQueue s (if c then s.refuse code data else a).state := by
  split
  · exact refl s
  · exact h

/-- An answer behind a check that passes. -/
theorem ifPasses {s : State} {c : Prop} [Decidable c] {code : ResultCode} {data : List Int} {a : Answer}
    (h : SameQueue s a.state) : SameQueue s (if c then a else s.refuse code data).state := by
  split
  · exact h
  · exact refl s

/-- A command of section 2.4. -/
theorem onSection {s : State} {ops : List Int} {takenIn : SectionState → Bool} {body : SecId → Answer}
    (h : ∀ i, SameQueue s (body i).state) : SameQueue s (s.onSection ops takenIn body).state := by
  unfold State.onSection
  split
  · split
    · exact refl s
    · exact ifPasses (h _)
  · exact refl s

/-- A command of a member. -/
theorem onMember {s : State} {ops : List Int} {body : SecId → NodeId → RecId → Answer}
    (h : ∀ i n r, SameQueue s (body i n r).state) : SameQueue s (s.onMember ops body).state := by
  unfold State.onMember
  split
  · split
    · exact refl s
    · refine unlessRefused ?_
      split
      · exact refl s
      · split
        · exact refl s
        · exact h ..
  · exact refl s

/-- An entry to BYPASS, SELECTED or FAULTED. -/
theorem enterPassing (s : State) (i : SecId) (st : SectionState) (cause : Cause) (node : Option NodeId) (pos : Option Pos) :
    SameQueue s (s.enterPassing i st cause node pos) := of_stable (.enterPassing ..)

/-! ## Tables, cursors and events (R164 to R168) -/

theorem setCursor (s : State) (l : Level) (c : Cursor) : SameQueue s (s.setCursor l c) := by cases l <;> rfl

theorem readReply (s : State) (table k : Nat) (count : Int) : SameQueue s (s.readReply table k count).state := unlessRefused rfl

theorem readBody (s : State) (l : Level) (ops : List Int) : SameQueue s (readBody' s l ops).state := by
  unfold readBody'
  split
  · exact ifPasses (readReply ..)
  · exact refl s

theorem readIndexedBody (s : State) (l : Level) (ops : List Int) : SameQueue s (Machine.readIndexedBody s l ops).state := by
  unfold Machine.readIndexedBody
  split
  · exact ifPasses (readReply ..)
  · exact refl s

theorem setCursorBody (s : State) (l : Level) (ops : List Int) : SameQueue s (Machine.setCursorBody s l ops).state := by
  unfold Machine.setCursorBody
  split
  · exact ifPasses (setCursor ..)
  · exact refl s

theorem readNextBody (s : State) (l : Level) (ops : List Int) : SameQueue s (Machine.readNextBody s l ops).state := by
  unfold Machine.readNextBody
  split
  · exact unlessRefused (setCursor ..)
  · exact refl s

theorem writeBody (s : State) (l : Level) (ops : List Int) : SameQueue s (Machine.writeBody s l ops).state := by
  unfold Machine.writeBody
  split
  · exact ifPasses (writeRun ..)
  · exact refl s

theorem writeNextBody (s : State) (l : Level) (ops : List Int) : SameQueue s (Machine.writeNextBody s l ops).state :=
  (writeRun (s.cursor l).table ops s _ 0 none).trans (setCursor ..)

theorem readEventsBody (s : State) (l : Level) (ops : List Int) : SameQueue s (Machine.readEventsBody s l ops).state := by
  unfold Machine.readEventsBody
  split
  · exact unlessRefused rfl
  · exact refl s

theorem peekEventsBody (s : State) (l : Level) (ops : List Int) : SameQueue s (Machine.peekEventsBody s l ops).state := by
  unfold Machine.peekEventsBody
  split
  · exact unlessRefused rfl
  · exact refl s

/-! ## The commissioning commands (R27 to R38) -/

theorem selectBody (s : State) (l : Level) (ops : List Int) : SameQueue s (Machine.selectBody s l ops).state := by
  refine onSection fun i => unlessRefused ?_
  split
  · exact refl s
  · exact enterPassing (s.clearLimits i) i .selected .command none none

theorem deselectBody (s : State) (l : Level) (ops : List Int) : SameQueue s (Machine.deselectBody s l ops).state :=
  onSection fun _ => enterPassing ..

/-- START: the trigger signal after the entry changes the capture and the events alone. -/
theorem startBody (s : State) (l : Level) (ops : List Int) : SameQueue s (Machine.startBody s l ops).state := by
  have hstart (i : SecId) : SameQueue s (s.startTrial i) := by
    obtain ⟨_, _, _, hframe⟩ := s.startTrial_spec i
    exact of_frame hframe
  refine onSection fun i => ?_
  split
  · exact refl s
  · split
    · exact refl s
    · split
      · exact refl s
      · exact ifPasses (hstart i)

theorem freezeBody (s : State) (l : Level) (ops : List Int) : SameQueue s (Machine.freezeBody s l ops).state :=
  onSection fun _ => of_stable (.enterFrozen ..)

theorem resumeTrial (s : State) (i : SecId) (stepPending : Bool) : SameQueue s (s.resumeTrial i stepPending) :=
  of_entry (s.resumeTrial_spec i stepPending).1

theorem continueBody (s : State) (l : Level) (ops : List Int) : SameQueue s (Machine.continueBody s l ops).state :=
  onSection fun _ => resumeTrial ..

theorem stepBody (s : State) (l : Level) (ops : List Int) : SameQueue s (Machine.stepBody s l ops).state :=
  onSection fun _ => unlessRefused (resumeTrial ..)

theorem stopBody (s : State) (l : Level) (ops : List Int) : SameQueue s (Machine.stopBody s l ops).state :=
  onSection fun _ => of_stable (.enterReleasing ..)

theorem abortBody (s : State) (l : Level) (ops : List Int) : SameQueue s (Machine.abortBody s l ops).state :=
  onSection fun _ => enterPassing ..

theorem calibrateBody (s : State) (l : Level) (ops : List Int) : SameQueue s (Machine.calibrateBody s l ops).state := by
  refine onSection fun i => unlessRefused <| unlessRefused <| unlessRefused <| unlessRefused <| unlessRefused ?_
  split
  · exact refl s
  · exact of_entry (s.enterCalibrating_spec i).1

theorem triggerBody (s : State) (l : Level) (ops : List Int) : SameQueue s (Machine.triggerBody s l ops).state :=
  onSection fun _ => ifPasses rfl

theorem clearFaultBody (s : State) (l : Level) (ops : List Int) : SameQueue s (Machine.clearFaultBody s l ops).state := by
  refine onSection fun i => ?_
  split
  · exact refl s
  · exact enterPassing s i ..

/-! ## Membership and INJECT FEEDBACK (R12 to R14, R85) -/

theorem addMemberBody (s : State) (l : Level) (ops : List Int) : SameQueue s (Machine.addMemberBody s l ops).state := by
  unfold Machine.addMemberBody
  split
  · split
    · exact refl s
    · split
      · exact refl s
      · refine unlessRefused <| unlessRefused <| unlessRefused <| unlessRefused ?_
        split
        · exact refl s
        · rfl
  · exact refl s

theorem removeMemberBody (s : State) (l : Level) (ops : List Int) : SameQueue s (Machine.removeMemberBody s l ops).state :=
  onMember fun i n r => of_frame (s.removeMember_frame i n r)

theorem makeLeadBody (s : State) (l : Level) (ops : List Int) : SameQueue s (Machine.makeLeadBody s l ops).state := by
  refine onMember fun i n r => ?_
  split
  · exact refl s
  · exact of_frame (s.makeLead_frame i r)

theorem injectBody (s : State) (l : Level) (ops : List Int) : SameQueue s (Machine.injectBody s l ops).state := by
  unfold Machine.injectBody
  split
  · split
    · exact refl s
    · split
      · exact refl s
      · refine unlessRefused <| unlessRefused <| unlessRefused <| unlessRefused <| unlessRefused ?_
        dsimp only [State.state_answerOk]
        exact of_stable (.takeFeedback ..)
  · exact refl s

/-! ## Snapshots and captures (R138, R139, R145 to R147) -/

theorem latchBody (s : State) (l : Level) (ops : List Int) : SameQueue s (Machine.latchBody s l ops).state := by
  unfold Machine.latchBody
  split
  · split
    · exact refl s
    · split <;> rfl
  · exact refl s

theorem readSnapshotBody (s : State) (l : Level) (ops : List Int) : SameQueue s (Machine.readSnapshotBody s l ops).state := by
  unfold Machine.readSnapshotBody
  split
  · split
    · exact refl s
    · refine unlessRefused ?_
      split
      · exact ite rfl rfl
      · exact refl s
  · exact refl s

theorem captureStartBody (s : State) (l : Level) (ops : List Int) : SameQueue s (Machine.captureStartBody s l ops).state := by
  unfold Machine.captureStartBody
  split
  · refine ifPasses (unlessRefused ?_)
    split
    · exact refl s
    · exact unlessRefused rfl
  · exact refl s

theorem captureStopBody (s : State) (l : Level) (ops : List Int) : SameQueue s (Machine.captureStopBody s l ops).state := by
  unfold Machine.captureStopBody
  split
  · split <;> rfl
  · exact refl s

theorem triggerCaptureBody (s : State) (l : Level) (ops : List Int) : SameQueue s (Machine.triggerCaptureBody s l ops).state := by
  unfold Machine.triggerCaptureBody
  split
  · exact ifPasses (of_frame (s.takeTrigger_frame .command 0))
  · exact refl s

/-! ## The Service Handler and RESTART (R161, R162, R170) -/

/-- A row's request: taking it and posting its reply change the request and reply queues. -/
theorem serve {row : CommandRow} {body : State → Level → List Int → Answer}
    (hbody : ∀ (t : State) (l : Level) (ops : List Int), SameQueue t (body t l ops).state) (s : State) : SameQueue s (s.serve row body) := by
  unfold State.serve
  split
  · exact refl s
  · dsimp only
    split
    · exact refl s
    · exact hbody s.dropRequest _ _

/-- Step 1 of RESTART is entries to BYPASS, and the rest changes the fields of its frame alone (R170). -/
theorem restartWork (s : State) : SameQueue s s.restartWork := by
  have hfirst : SameQueue s (s.forSections State.restartSection) :=
    of_entry (Restarted.of_foldl sectionIds s SectionWork.nodup_sectionIds).frame
  obtain ⟨hrest, _⟩ := s.restartWork_spec _ rfl
  generalize s.forSections State.restartSection = u at hfirst hrest
  generalize s.restartWork = t at hrest ⊢
  exact hfirst.trans (of_frame hrest)

/-! ## Lines, frames and sending (R39, R43, R79, R153 to R156) -/

/-- The loss of the line goes through the sections by entries, and then its event is posted. -/
theorem permitChange (s : State) (active : Bool) : SameQueue s (s.permitChange active) := by
  have hset : SameQueue s { s with permit := active } := rfl
  exact (hset.trans (ite (refl _) (of_entry (State.permitLost_all _).frame))).trans (of_stable (.post ..))

theorem dispatchWork (s : State) (f : DispatchFrame) : SameQueue s (s.dispatchWork f) :=
  of_frame (show s.dispatchWork f = _ from s.dispatchesFrom f)

theorem intake (s : State) (f : ReturnFrame) : SameQueue s (s.intake f) := by
  unfold State.intake
  split
  · exact of_stable (.takeFeedback ..)
  · exact refl s

theorem sendUp (s : State) (x : UpPlace × ReadyFrame) : SameQueue s (s.sendUp x) := by
  obtain ⟨place, f⟩ := x
  cases place <;> rfl

theorem arbitrate (s : State) : SameQueue s s.arbitrate := by
  unfold State.arbitrate
  split
  · exact refl s
  · exact sendUp ..
  · exact sendUp { s with freeDraws := s.freeDraws + 1 } _

theorem sendDown (s : State) : SameQueue s s.sendDown := by
  unfold State.sendDown
  split <;> rfl

end SameQueue

/-! ## Every command -/

namespace AnswersNext

/-- A command of a powered bridge answers what its effect leaves, or s. -/
theorem whenPowered {s : State} {f : State → State} (h : SameQueue s (f s)) : AnswersNext s (s.whenPowered f) :=
  ⟨_, rfl, .ite h (.refl s)⟩

/-- A row's command. -/
theorem serve {s : State} {row : CommandRow} {body : State → Level → List Int → Answer}
    (hbody : ∀ (t : State) (l : Level) (ops : List Int), SameQueue t (body t l ops).state) :
    AnswersNext s (s.whenPowered fun s => s.serve row body) :=
  whenPowered (.serve hbody s)

/-- RESTART posts its reply before its work (R170). -/
theorem restart (s : State) : AnswersNext s (execRestart s) := by
  refine whenPowered ?_
  split
  · exact .refl s
  · dsimp only
    split
    · exact .refl s
    · have hposted (tag : Byte) : SameQueue s ((s.dropRequest.answerOk []).post tag) := rfl
      exact (hposted _).trans (.restartWork _)

end AnswersNext

/-- Every command answers a next state with the queue of commands unchanged. -/
theorem exec_answersNext (c : Instr) (s : State) : AnswersNext s (exec c s) := by
  unfold exec
  cases c <;> dsimp only
  case powerOn straps permit => exact ⟨_, rfl, rfl⟩
  case resetLine straps permit => exact .whenPowered (f := fun s => s.powerUp straps permit) rfl
  case permitLineChange active => exact .whenPowered (.ite (.refl s) (.permitChange ..))
  case lineTimerExpiry =>
    have hexpired : SameQueue s { s with timer := .expired } := rfl
    refine .whenPowered ?_
    exact .ite (hexpired.trans (.of_entry (State.lineLost_all _).frame)) (.refl s)
  case dispatch f => exact .whenPowered (.ite (.dispatchWork ..) (.refl s))
  case returnFrame f => exact .whenPowered (.trans (State.pending_forwardUp ..) (.intake ..))
  case serviceRequest f => exact .whenPowered (.ite (.ite (.ite rfl (.refl s)) (State.pending_forwardDown ..)) (.refl s))
  case otherStationFrame f => exact .whenPowered (.ite (State.pending_forwardUp ..) (.refl s))
  case badFrame port bytes => exact ⟨_, rfl, .refl s⟩
  case upstreamSend => exact .whenPowered (.arbitrate s)
  case downstreamSend => exact .whenPowered (.sendDown s)
  case powerLoss => exact .whenPowered (f := fun s => { s with powered := false }) rfl
  case read => exact .serve .readBody
  case write => exact .serve .writeBody
  case readIndexed => exact .serve .readIndexedBody
  case setCursor => exact .serve .setCursorBody
  case readNext => exact .serve .readNextBody
  case writeNext => exact .serve .writeNextBody
  case readEvents => exact .serve .readEventsBody
  case peekEvents => exact .serve .peekEventsBody
  case restart => exact .restart s
  case unknownCommandCode =>
    refine .whenPowered ?_
    split
    · exact .refl s
    · exact .ite (.refl s) rfl
  case select => exact .serve .selectBody
  case deselect => exact .serve .deselectBody
  case start => exact .serve .startBody
  case freeze => exact .serve .freezeBody
  case continueTrial => exact .serve .continueBody
  case stepRun => exact .serve .stepBody
  case stopTrial => exact .serve .stopBody
  case abort => exact .serve .abortBody
  case calibrate => exact .serve .calibrateBody
  case trigger => exact .serve .triggerBody
  case clearFault => exact .serve .clearFaultBody
  case addMember => exact .serve .addMemberBody
  case removeMember => exact .serve .removeMemberBody
  case makeLead => exact .serve .makeLeadBody
  case injectFeedback => exact .serve .injectBody
  case latchSnapshot => exact .serve .latchBody
  case readSnapshot => exact .serve .readSnapshotBody
  case captureStart => exact .serve .captureStartBody
  case captureStop => exact .serve .captureStopBody
  case triggerCapture => exact .serve .triggerCaptureBody

/-- Settles O2, command by command: a command of a powered bridge answers what its work leaves, and no work touches the queue of commands. -/
theorem everyCommandAnswersNext : Obligations.EveryCommandAnswersNext := by
  unfold Obligations.EveryCommandAnswersNext
  exact exec_answersNext

end Sys2Proof.Machine
end
